-- ==== Sys2Proof/Word.lean ====
section
/-! DEFINITION. The word types of the model and nothing else. -/

namespace Sys2Proof

/-- One byte of memory, of a packet or of a message. -/
abbrev Byte := BitVec 8

/-- A 64-bit word: a scalar register, a global address (R23), a register of eight bytes. -/
abbrev Word := BitVec 64

end Sys2Proof
end

