-- ==== Sys2Proof/Syntax.lean ====
section
/-! DEFINITION. The commands of the LM-NF4816 as the table of operations and events lists them, one constructor each,
with the operands that come from outside or name the part that acts. -/

namespace Sys2Proof

/-- A Budrior packet (R369): the 32-byte header field by field, and the body or payload. Beside the packet itself: the port on which it
arrived here (none: this device's own network, or not told), and the `UPPER` bit of the words it came or goes in (R360). -/
structure Pkt where
  dest : BitVec 16
  src : BitVec 16
  jobTag : BitVec 16
  cls : BitVec 8
  typ : BitVec 8
  flags : BitVec 8
  epoch : BitVec 8
  seq : BitVec 16
  len : BitVec 16
  status : BitVec 8
  rsv : BitVec 8
  addr : BitVec 64
  pcrc : BitVec 32
  hcrc : BitVec 32
  body : List Byte
  via : Option (Fin 8) := none
  upper : Bool := false
  deriving DecidableEq, Repr

/-- A token packet (R242): the 32-byte header field by field, and the payload. -/
structure Tok where
  typ : BitVec 8
  xd : BitVec 8
  expert : BitVec 16
  slot : BitVec 16
  src : BitVec 8
  seg : BitVec 8
  token : BitVec 16
  rank : BitVec 8
  pfmt : BitVec 8
  len : BitVec 16
  hidx : BitVec 16
  tick : BitVec 48
  rsv : BitVec 16
  pcrc : BitVec 32
  hcrc : BitVec 32
  payload : List Byte
  deriving DecidableEq, Repr

/-- The party that a register write or a FRESET command comes from (R595). -/
inductive Requester where
  | ranger | host | heartwood | fabMgr | bmc
  deriving DecidableEq, Repr

/-- The SPDM transports of R566. -/
inductive Transport where
  | doe | mctp | fabric
  deriving DecidableEq, Repr

/-- A memory with a check code (R312, R133, R219, R262). -/
inductive MemLoc where
  | near (n : Fin 64)
  | acc (n : Fin 64)
  | slice (r : Fin 16)
  | partition (d : Fin 4)
  | sillage (d : Fin 4)
  | pool (d : Fin 4)
  | hbm (s : Fin 8)
  deriving DecidableEq, Repr

/-- What a check code finds (R312). -/
inductive EccFind where
  | clean | correctable | uncorrectable
  deriving DecidableEq, Repr

/-- A part that has power states (R34, R530, R531): a unit of a cluster, its scalar cores, the choice and the send unit of
Sillage, a cluster, a region, a die. -/
inductive Part where
  | unit (n : Fin 64) (u : Fin 12)
  | cores (n : Fin 64)
  | sillChoice (d : Fin 4)
  | sillSend (d : Fin 4)
  | cluster (n : Fin 64)
  | region (r : Fin 16)
  | die (d : Fin 4)
  deriving DecidableEq, Repr

/-- What a bring-up attempt of a port measured (R364 to R366): of the 64 timestamped words, round trip and turnaround in 1/64 cc. -/
structure BringUp where
  electricalOk : Bool
  lockOk : Bool
  peerPart : BitVec 16
  peer : BitVec 16
  peerPort : BitVec 4
  samples : List (Nat × Nat)
  deriving DecidableEq, Repr

/-- Why a link goes down by itself (R363). -/
inductive LinkLoss where
  | lockLost | retryLimit
  deriving DecidableEq, Repr

/-- What the hardware reports to Ranger when a boot stage ends (R553, R554). -/
structure BootReport where
  railsOk : Bool := true
  fusesOk : Bool := true
  keyOk : Bool := true
  hbmFail : BitVec 8 := 0
  modules : BitVec 4 := 15
  rate : BitVec 4 := 3
  channels : BitVec 16 := 0xFFFF
  channelFail : BitVec 16 := 0
  deriving DecidableEq, Repr

/-- Outcome of a flash read with its read-retry levels, at most 8 (R347). -/
inductive FlashRead where
  | good | retried (levels : Nat) | failed (levels : Nat)
  deriving DecidableEq, Repr

/-- How a management message comes (R568, R570): inside which session, and the `MGMT_REQ` packets that carry it from the fabric manager. -/
structure MgmtPath where
  session : Option (Fin 4) := none
  carrier : List Pkt := []
  deriving DecidableEq, Repr

/-- The commands: one constructor for each row of the table, in the table's order. -/
inductive Instr where
  -- stream
  | bundleIssue (d : Fin 4)
  | tickWait (d : Fin 4) (operand : BitVec 24)
  | sync (d : Fin 4) (operand : BitVec 24)
  | clearOpen (d : Fin 4) (operand : BitVec 24)
  | clearClose (d : Fin 4)
  | collIssue (d : Fin 4) (operand : BitVec 24)
  | jobEnd (d : Fin 4)
  -- cluster slots: package cluster and slot bits [39:0] (R115)
  | mmul (n : Fin 64) (arg : BitVec 40)
  | mmulZ (n : Fin 64) (arg : BitVec 40)
  | accZero (n : Fin 64) (arg : BitVec 40)
  | accRead (n : Fin 64) (arg : BitVec 40)
  | vadd (n : Fin 64) (arg : BitVec 40)
  | vmul (n : Fin 64) (arg : BitVec 40)
  | vfma (n : Fin 64) (arg : BitVec 40)
  | vmin (n : Fin 64) (arg : BitVec 40)
  | vmax (n : Fin 64) (arg : BitVec 40)
  | vscale (n : Fin 64) (arg : BitVec 40)
  | vcvt (n : Fin 64) (arg : BitVec 40)
  | vexp (n : Fin 64) (arg : BitVec 40)
  | vlog (n : Fin 64) (arg : BitVec 40)
  | vrcp (n : Fin 64) (arg : BitVec 40)
  | vrsqrt (n : Fin 64) (arg : BitVec 40)
  | vrsum (n : Fin 64) (arg : BitVec 40)
  | vrmax (n : Fin 64) (arg : BitVec 40)
  | vsort (n : Fin 64) (arg : BitVec 40)
  | vmerge (n : Fin 64) (arg : BitVec 40)
  | vsoftmax (n : Fin 64) (arg : BitVec 40)
  | vrmsnorm (n : Fin 64) (arg : BitVec 40)
  | vlayernorm (n : Fin 64) (arg : BitVec 40)
  | vsoftmaxB (n : Fin 64) (arg : BitVec 40)
  | vsoftmaxBr (n : Fin 64) (arg : BitVec 40)
  | vrmsnormB (n : Fin 64) (arg : BitVec 40)
  | vlayernormB (n : Fin 64) (arg : BitVec 40)
  | vdual (n : Fin 64) (arg : BitVec 40)
  | tmul (n : Fin 64) (arg : BitVec 40)
  | ssmul (n : Fin 64) (arg : BitVec 40)
  | sddmm (n : Fin 64) (arg : BitVec 40)
  | valmap (n : Fin 64) (arg : BitVec 40)
  | pselect (n : Fin 64) (arg : BitVec 40)
  | pmul (n : Fin 64) (arg : BitVec 40)
  | compress (n : Fin 64) (arg : BitVec 40)
  | nload (n : Fin 64) (arg : BitVec 40)
  | nstore (n : Fin 64) (arg : BitVec 40)
  | gather (n : Fin 64) (arg : BitVec 40)
  | gatherSum (n : Fin 64) (arg : BitVec 40)
  | scatter (n : Fin 64) (arg : BitVec 40)
  | scatterAdd (n : Fin 64) (arg : BitVec 40)
  | mmulPost (n : Fin 64) (arg : BitVec 40)
  | mmulzPost (n : Fin 64) (arg : BitVec 40)
  | tmulPost (n : Fin 64) (arg : BitVec 40)
  | getMmul (n : Fin 64) (arg : BitVec 40)
  | getTmul (n : Fin 64) (arg : BitVec 40)
  | post (n : Fin 64) (arg : BitVec 40)
  | get (n : Fin 64) (arg : BitVec 40)
  | operationEnd (n : Fin 64) (k : Nat)
  -- kernel words: the core runs the word at its own word index (R146)
  | issue (n : Fin 64) (core : Fin 4)
  | waitu (n : Fin 64) (core : Fin 4)
  | signal (n : Fin 64) (core : Fin 4)
  | waitsig (n : Fin 64) (core : Fin 4)
  | endWord (n : Fin 64) (core : Fin 4)
  | alu (n : Fin 64) (core : Fin 4)
  | ld (n : Fin 64) (core : Fin 4)
  | st (n : Fin 64) (core : Fin 4)
  | br (n : Fin 64) (core : Fin 4)
  | jmp (n : Fin 64) (core : Fin 4)
  -- Sillage slots: die and slot bits [55:0] (R188)
  | score (d : Fin 4) (arg : BitVec 56)
  | merge (d : Fin 4) (arg : BitVec 56)
  | hash (d : Fin 4) (arg : BitVec 56)
  | admitTokens (d : Fin 4) (arg : BitVec 56)
  | sfence (d : Fin 4) (arg : BitVec 56)
  | xdispatch (d : Fin 4) (arg : BitVec 56)
  | xlist (d : Fin 4) (arg : BitVec 56)
  | xreturn (d : Fin 4) (arg : BitVec 56)
  | xcombine (d : Fin 4) (arg : BitVec 56)
  -- token packets reaching the receive unit of die d
  | dispatchRowArrival (d : Fin 4) (t : Tok)
  | countArrival (d : Fin 4) (t : Tok)
  | returnRowArrival (d : Fin 4) (t : Tok)
  | cmdlistRowArrival (d : Fin 4) (t : Tok)
  -- memory/copy and fabric slots: die and slot bits [55:0] (R296, R396)
  | mcopy (d : Fin 4) (arg : BitVec 56)
  | mfill (d : Fin 4) (arg : BitVec 56)
  | mcache (d : Fin 4) (arg : BitVec 56)
  | mwait (d : Fin 4) (arg : BitVec 56)
  | fput (d : Fin 4) (arg : BitVec 56)
  | fget (d : Fin 4) (arg : BitVec 56)
  | fwait (d : Fin 4) (arg : BitVec 56)
  | fatomic (d : Fin 4) (arg : BitVec 56)
  | cbind (d : Fin 4) (arg : BitVec 56)
  | cfence (d : Fin 4) (arg : BitVec 56)
  -- ticks
  | tickEdge
  | beaconMissed
  | tickCommit
  | jobRelease
  | arm (port : Fin 8) (p : Pkt)
  | go (port : Fin 8) (p : Pkt) (at64 : Nat)
  | beacon (port : Fin 8) (p : Pkt) (at64 : Nat)
  | beaconReply (port : Fin 8) (p : Pkt)
  -- snapshots
  | snapshotCut
  | copyBeforeWrite (addr : BitVec 48) (data : List Byte)
  | snapData (p : Pkt)
  | snapTag (p : Pkt)
  | snapInvalidate (p : Pkt)
  | pullRequest (p : Pkt)
  | pullData (p : Pkt)
  -- fabric packets and links
  | ack (p : Pkt)
  | store (p : Pkt)
  | loadReq (p : Pkt)
  | loadData (p : Pkt)
  | atomicReq (p : Pkt)
  | atomicReply (p : Pkt)
  | token (p : Pkt)
  | collPartial (p : Pkt)
  | collResult (p : Pkt)
  | collNote (p : Pkt)
  | pruneReport (p : Pkt)
  | passThroughComplete (d : Fin 4) (cdesc : Nat) (chunk : Nat)
  | blaze (p : Pkt)
  | packetForward (port : Fin 8) (p : Pkt)
  | escWaitExpiry (k : Nat)
  | e2eResend (k : Nat)
  | e2eLost (k : Nat)
  | loadTimeout (k : Nat)
  | busyResend (k : Nat)
  | linkRetry (port : Fin 8) (word : BitVec 12)
  | linkDown (port : Fin 8) (why : LinkLoss)
  | linkBringup (port : Fin 8) (b : BringUp)
  | commit
  | fabCoordWrite (value : BitVec 32)
  | teardown (value : BitVec 32)
  -- host
  | cxlMemRead (w : BitVec 40) (len : Nat)
  | cxlMemWrite (w : BitVec 40) (data : List Byte)
  | mboxPost (bits : BitVec 32)
  | mailboxAccept
  | identify (mb : Fin 32)
  | jobLoad (mb : Fin 32)
  | jobStart (mb : Fin 32)
  | jobStop (mb : Fin 32)
  | tickSet (mb : Fin 32)
  | lookaheadSubmit (mb : Fin 32)
  | tableRegister (mb : Fin 32)
  | quotaSet (mb : Fin 32)
  | fenceQuery (mb : Fin 32)
  | resetFunction (mb : Fin 32)
  | snapshotNow (mb : Fin 32)
  | restore (mb : Fin 32)
  | checkpointWrite (mb : Fin 32)
  | telemetryRead (mb : Fin 32)
  | fwStage (mb : Fin 32)
  | fwActivate (mb : Fin 32)
  | cmdlistSubmit (mb : Fin 32)
  | heartwoodWatchdog
  -- containment
  | fresetReset (func : BitVec 8) (req : Requester)
  | fresetFence (func : BitVec 8) (req : Requester)
  | fresetUnfence (func : BitVec 8) (req : Requester)
  | functionResetDone (ok : Bool) (us : Nat)
  -- memory upkeep
  | scrubRead (loc : MemLoc) (addr : Nat) (find : EccFind)
  | hbmTempRead (stk : Fin 8) (temp : BitVec 8)
  | laRingPoll
  | stageComplete (page : Nat) (r : FlashRead)
  | writebackComplete (page : Nat) (programmed : Bool)
  | mapCopy
  | channelRetrain (c : Fin 16)
  | wearLevelMove (c : Fin 16)
  -- power
  | powerStateEntry (p : Part) (scanned : Nat)
  | powerStateWake (p : Part)
  | wakeOnAccess (p : Part)
  | railSample (d : Fin 4) (mw : Nat)
  | drydownStep
  | thermalRead (junctions : List (BitVec 8)) (hbmTemps : List (BitVec 8))
  | thermtripCompare (d : Fin 4) (temp : BitVec 8)
  | brdHotN (low : Bool)
  | sysRstN (lowNs : Nat)
  | bootStageDone (r : BootReport)
  | bootWatchdog
  | rangerWatchdog
  | die0PowerLoss
  | refLost
  | refReturn
  | brefLost (d : Fin 4)
  | pwrCfgWrite (req : Requester) (sess : MgmtPath) (value : BitVec 64)
  | thermCfgWrite (req : Requester) (sess : MgmtPath) (value : BitVec 32)
  -- registers
  | tickOvrCountRead
  | hostErrRead
  | registerWrite (off : BitVec 24) (width : Nat) (value : BitVec 64)
  | mgmtRead (req : Requester) (sess : MgmtPath) (off : BitVec 32) (width : BitVec 8)
  | mgmtWrite (req : Requester) (sess : MgmtPath) (off : BitVec 32) (width : BitVec 8) (value : BitVec 64)
  | setOwnerRoot (req : Requester) (sess : MgmtPath) (rootHash : List Byte)
  | reportAck (src : BitVec 16) (rnum : BitVec 32)
  | reportResend (rnum : BitVec 32)
  -- ROM recovery
  | recoveryBegin (total : BitVec 64)
  | recoveryPiece (off : BitVec 32) (len : BitVec 16) (data : List Byte)
  | recoveryEnd
  | recoveryStatus
  -- SPDM
  | getVersion (t : Transport)
  | getCapabilities (t : Transport)
  | negotiateAlgorithms (t : Transport) (asym : Bool) (sha512 : Bool) (ffdhe : Bool) (aead : Bool)
  | getDigests (t : Transport)
  | getCertificate (t : Transport) (slot : BitVec 8) (off : BitVec 16) (len : BitVec 16)
  | challenge (t : Transport) (slot : BitVec 8) (nonce : List Byte)
  | getMeasurements (t : Transport) (index : BitVec 8) (signed : Bool) (nonce : List Byte)
  | keyExchange (t : Transport) (reqSid : BitVec 16)
  | finish (t : Transport) (sess : Fin 4) (macOk : Bool) (sigOk : Bool) (chainRoot : List Byte)
  | heartbeat (t : Transport) (sess : Fin 4)
  | keyUpdate (t : Transport) (sess : Fin 4)
  | endSession (t : Transport) (sess : Fin 4)
  | vendorDefinedRequest (t : Transport) (sess : Option (Fin 4)) (data : List Byte)
  | chunkGet (t : Transport) (handle : BitVec 8) (seqNo : BitVec 16)
  | chunkSend (t : Transport) (handle : BitVec 8) (seqNo : BitVec 16) (last : Bool) (data : List Byte)
  | setEndpointId (eid : BitVec 8)
  | getSensorReading (id : BitVec 16)
  | timePollRequest
  | poll (body : List Byte)
  | reply (body : List Byte)
  -- JTAG
  | bypass
  | idcode
  | samplePreload (scanIn : List Bool)
  | extest
  | clamp
  | highz
  -- ends, completions and late rows of the table
  | sillageOperationEnd (d : Fin 4) (exchange : Bool)
  | copyOperationEnd (d : Fin 4) (q : Fin 16)
  | longCommandComplete
  | hostXferCompletion (ok : Bool) (data : List Byte)
  | hostXferTimeout
  | overlapHoldEnd (k : Nat)
  | linkWordFailure (port : Fin 8) (word : BitVec 12)
  | entdaa (addr : BitVec 7)
  | timeServerReply (viaFabric : Bool) (packet : List Byte)
  | cmdlistBodyBuilt (d : Fin 4) (tick : BitVec 48)
  | outputPublicationDone
  | reclaimSpace (c : Fin 16)
  | hdrDrop (p : Pkt)
  deriving DecidableEq, Repr

end Sys2Proof
end

