-- ==== Sys2Proof/Decode.lean ====
section
/-! DEFINITION. Commands spelled by words of the table. No row of the table gives bits (every row's list of fields is
empty), so no word spells a command (log 2). -/

namespace Sys2Proof

/-- The command that a word spells by the table's bits: none, for every word (DESIGN CHOICE, log 2). -/
def decodeTableWord (_nbits _w : Nat) : Option Instr := none

end Sys2Proof
end

