-- ==== Sys2Proof/Machine/Bytes.lean ====
section
/-! DEFINITION. Byte order, byte lists, checksums and hashes: little-endian fields (R8), the CRC-32C of packets
(R369), the mixing function of R104 and SHA-512 (R43, R557). -/

namespace Sys2Proof.Machine

/-- Value of a list of bytes, first byte lowest (R8). -/
def leNat : List Byte → Nat
  | [] => 0
  | b :: bs => b.toNat + 256 * leNat bs

/-- The `n` bytes of a value, lowest first (R8). -/
def leBytes : Nat → Nat → List Byte
  | 0, _ => []
  | n + 1, v => BitVec.ofNat 8 v :: leBytes n (v / 256)

/-- The bytes from offset `off`, `n` of them; bytes beyond the list read 0. -/
def byteField (bs : List Byte) (off n : Nat) : List Byte :=
  let part := (bs.drop off).take n
  part ++ List.replicate (n - part.length) 0

/-- A little-endian field of `n` bytes at offset `off`. -/
def field (bs : List Byte) (off n : Nat) : Nat := leNat ((bs.drop off).take n)

/-- Bits `[lo + w - 1 : lo]` of a value. -/
def bitsOf (v lo w : Nat) : Nat := (v >>> lo) % 2 ^ w

/-- Bit `i` of a value. -/
def bitAt (v i : Nat) : Bool := v.testBit i

/-- 1 for true, 0 for false. -/
def b2n (b : Bool) : Nat := if b then 1 else 0

/-- Every byte of the field at `off`, `n` bytes long, is 0. -/
def zeroField (bs : List Byte) (off n : Nat) : Bool := field bs off n == 0

/-- Sign extension of the low `w` bits of a value. -/
def signExt (w v : Nat) : Int :=
  let u := v % 2 ^ w
  if 2 * u < 2 ^ w then (u : Int) else (u : Int) - (2 ^ w : Nat)

/-- Smallest multiple of `k` that is not below `v`. -/
def alignUp (k v : Nat) : Nat := (v + (k - 1)) / k * k

/-- Quotient rounded up. -/
def ceilDiv (a b : Nat) : Nat := (a + (b - 1)) / b

/-- Addition that stops at the largest value of `w` bits (R108). -/
def satAdd (w a b : Nat) : Nat := min (a + b) (2 ^ w - 1)

/-- The list with element `i` changed by `f`. -/
def modifyNth {α : Type} (f : α → α) : Nat → List α → List α
  | _, [] => []
  | 0, a :: l => f a :: l
  | n + 1, a :: l => a :: modifyNth f n l

/-- The list cut into pieces of `n` elements; the fuel is the list's length. -/
def chunksAux {α : Type} (n : Nat) : Nat → List α → List (List α)
  | 0, _ => []
  | _, [] => []
  | k + 1, l => l.take n :: chunksAux n k (l.drop n)

/-- The list cut into pieces of `n` elements, the last possibly shorter. -/
def chunks {α : Type} (n : Nat) (l : List α) : List (List α) := chunksAux n l.length l

/-- Insertion into a list that is sorted by `le`. -/
def insertBy {α : Type} (le : α → α → Bool) (a : α) : List α → List α
  | [] => [a]
  | b :: l => if le a b then a :: b :: l else b :: insertBy le a l

/-- Stable insertion sort by `le` (an element that stands earlier stays earlier among equals). -/
def sortBy {α : Type} (le : α → α → Bool) : List α → List α
  | [] => []
  | a :: l => insertBy le a (sortBy le l)

/-- Numbers of the set bits of a mask below `n`, ascending. -/
def maskBits (n mask : Nat) : List Nat := (List.range n).filter (fun i => mask.testBit i)

/-- Count of the set bits of a mask below `n`. -/
def popBits (n mask : Nat) : Nat := (maskBits n mask).length

/-- R104: the finaliser mix64. -/
def mix64 (z : Word) : Word :=
  let z := (z ^^^ (z >>> 30)) * 0xBF58476D1CE4E5B9#64
  let z := (z ^^^ (z >>> 27)) * 0x94D049BB133111EB#64
  z ^^^ (z >>> 31)

/-- One bit of the reflected CRC-32C. -/
def crcBit (c : BitVec 32) : BitVec 32 :=
  if c.getLsbD 0 then (c >>> 1) ^^^ 0x82F63B78#32 else c >>> 1

/-- One byte of the reflected CRC-32C. -/
def crcByte (c : BitVec 32) (b : Byte) : BitVec 32 :=
  let c := c ^^^ b.setWidth 32
  crcBit (crcBit (crcBit (crcBit (crcBit (crcBit (crcBit (crcBit c)))))))

/-- CRC-32C of a byte list (R369). -/
def crc32c (bs : List Byte) : BitVec 32 := ~~~ bs.foldl crcByte 0xFFFFFFFF#32

/-- SHA-512 round constants, rounds 0 to 39. -/
def sha512KLow : List Word :=
  [0x428a2f98d728ae22#64, 0x7137449123ef65cd#64, 0xb5c0fbcfec4d3b2f#64, 0xe9b5dba58189dbbc#64,
   0x3956c25bf348b538#64, 0x59f111f1b605d019#64, 0x923f82a4af194f9b#64, 0xab1c5ed5da6d8118#64,
   0xd807aa98a3030242#64, 0x12835b0145706fbe#64, 0x243185be4ee4b28c#64, 0x550c7dc3d5ffb4e2#64,
   0x72be5d74f27b896f#64, 0x80deb1fe3b1696b1#64, 0x9bdc06a725c71235#64, 0xc19bf174cf692694#64,
   0xe49b69c19ef14ad2#64, 0xefbe4786384f25e3#64, 0x0fc19dc68b8cd5b5#64, 0x240ca1cc77ac9c65#64,
   0x2de92c6f592b0275#64, 0x4a7484aa6ea6e483#64, 0x5cb0a9dcbd41fbd4#64, 0x76f988da831153b5#64,
   0x983e5152ee66dfab#64, 0xa831c66d2db43210#64, 0xb00327c898fb213f#64, 0xbf597fc7beef0ee4#64,
   0xc6e00bf33da88fc2#64, 0xd5a79147930aa725#64, 0x06ca6351e003826f#64, 0x142929670a0e6e70#64,
   0x27b70a8546d22ffc#64, 0x2e1b21385c26c926#64, 0x4d2c6dfc5ac42aed#64, 0x53380d139d95b3df#64,
   0x650a73548baf63de#64, 0x766a0abb3c77b2a8#64, 0x81c2c92e47edaee6#64, 0x92722c851482353b#64]

/-- SHA-512 round constants, rounds 40 to 79. -/
def sha512KHigh : List Word :=
  [0xa2bfe8a14cf10364#64, 0xa81a664bbc423001#64, 0xc24b8b70d0f89791#64, 0xc76c51a30654be30#64,
   0xd192e819d6ef5218#64, 0xd69906245565a910#64, 0xf40e35855771202a#64, 0x106aa07032bbd1b8#64,
   0x19a4c116b8d2d0c8#64, 0x1e376c085141ab53#64, 0x2748774cdf8eeb99#64, 0x34b0bcb5e19b48a8#64,
   0x391c0cb3c5c95a63#64, 0x4ed8aa4ae3418acb#64, 0x5b9cca4f7763e373#64, 0x682e6ff3d6b2b8a3#64,
   0x748f82ee5defb2fc#64, 0x78a5636f43172f60#64, 0x84c87814a1f0ab72#64, 0x8cc702081a6439ec#64,
   0x90befffa23631e28#64, 0xa4506cebde82bde9#64, 0xbef9a3f7b2c67915#64, 0xc67178f2e372532b#64,
   0xca273eceea26619c#64, 0xd186b8c721c0c207#64, 0xeada7dd6cde0eb1e#64, 0xf57d4f7fee6ed178#64,
   0x06f067aa72176fba#64, 0x0a637dc5a2c898a6#64, 0x113f9804bef90dae#64, 0x1b710b35131c471b#64,
   0x28db77f523047d84#64, 0x32caab7b40c72493#64, 0x3c9ebe0a15c9bebc#64, 0x431d67c49c100d4c#64,
   0x4cc5d4becb3e42b6#64, 0x597f299cfc657e2a#64, 0x5fcb6fab3ad6faec#64, 0x6c44198c4a475817#64]

/-- The eight working words of SHA-512. -/
structure Sha where
  a : Word := 0x6a09e667f3bcc908#64
  b : Word := 0xbb67ae8584caa73b#64
  c : Word := 0x3c6ef372fe94f82b#64
  d : Word := 0xa54ff53a5f1d36f1#64
  e : Word := 0x510e527fade682d1#64
  f : Word := 0x9b05688c2b3e6c1f#64
  g : Word := 0x1f83d9abfb41bd6b#64
  h : Word := 0x5be0cd19137e2179#64
  deriving DecidableEq, Repr

/-- One SHA-512 round with the round constant and schedule word of the pair. -/
def shaRound (v : Sha) (kw : Word × Word) : Sha :=
  let s1 := v.e.rotateRight 14 ^^^ v.e.rotateRight 18 ^^^ v.e.rotateRight 41
  let ch := (v.e &&& v.f) ^^^ (~~~v.e &&& v.g)
  let t1 := v.h + s1 + ch + kw.1 + kw.2
  let s0 := v.a.rotateRight 28 ^^^ v.a.rotateRight 34 ^^^ v.a.rotateRight 39
  let maj := (v.a &&& v.b) ^^^ (v.a &&& v.c) ^^^ (v.b &&& v.c)
  { a := t1 + (s0 + maj), b := v.a, c := v.b, d := v.c, e := v.d + t1, f := v.e, g := v.f, h := v.g }

/-- Extends the schedule: `w` holds the last 16 words, newest first. -/
def shaSchedule : Nat → List Word → List Word → List Word
  | 0, _, acc => acc.reverse
  | n + 1, w, acc =>
    let w2 := w.getD 1 0
    let w7 := w.getD 6 0
    let w15 := w.getD 14 0
    let w16 := w.getD 15 0
    let s0 := w15.rotateRight 1 ^^^ w15.rotateRight 8 ^^^ (w15 >>> 7)
    let s1 := w2.rotateRight 19 ^^^ w2.rotateRight 61 ^^^ (w2 >>> 6)
    let x := w16 + s0 + w7 + s1
    shaSchedule n (x :: w.take 15) (x :: acc)

/-- Value of a list of bytes, first byte highest. -/
def beNat (bs : List Byte) : Nat := bs.foldl (fun v b => 256 * v + b.toNat) 0

/-- The `n` bytes of a value, highest first. -/
def beBytes (n v : Nat) : List Byte := (leBytes n v).reverse

/-- SHA-512 compression of one 128-byte block. -/
def shaBlock (v : Sha) (blk : List Byte) : Sha :=
  let w := (chunks 8 blk).map (fun c => BitVec.ofNat 64 (beNat c))
  let ws := w ++ shaSchedule 64 w.reverse []
  let r := ((sha512KLow ++ sha512KHigh).zip ws).foldl shaRound v
  { a := v.a + r.a, b := v.b + r.b, c := v.c + r.c, d := v.d + r.d,
    e := v.e + r.e, f := v.f + r.f, g := v.g + r.g, h := v.h + r.h }

/-- SHA-512 of a byte list (FIPS 180-4): 64 bytes. -/
def sha512 (bs : List Byte) : List Byte :=
  let pad := (2 * 128 - (bs.length + 17) % 128) % 128
  let m := bs ++ (0x80#8 :: List.replicate pad 0) ++ beBytes 16 (8 * bs.length)
  let v := (chunks 128 m).foldl shaBlock {}
  [v.a, v.b, v.c, v.d, v.e, v.f, v.g, v.h].flatMap (fun w => beBytes 8 w.toNat)

end Sys2Proof.Machine
end

