-- ==== Sys2Proof/Machine/Fp.lean ====
section
/-! DEFINITION. Number formats and arithmetic (R84 to R114, R137, R138): the layouts, exact values, rounding,
special functions, microscaling blocks and seeded stochastic rounding. -/

namespace Sys2Proof.Machine

/-- A value that an element stands for: a number is `(-1)^neg * mag * 2^exp`, so +0 and -0 differ (R86). -/
inductive Val where
  | nan
  | inf (neg : Bool)
  | num (neg : Bool) (mag : Nat) (exp : Int)
  deriving DecidableEq, Repr

/-- Kinds of special encodings of R86. -/
inductive Special where
  | ieee | nanOnly | none
  deriving DecidableEq, Repr

/-- A floating-point layout of R86: exponent and mantissa bits, bias and special encodings. -/
structure FpFmt where
  eb : Nat
  mb : Nat
  bias : Int
  special : Special
  deriving DecidableEq, Repr

def fp32 : FpFmt := ⟨8, 23, 127, .ieee⟩
def bf16 : FpFmt := ⟨8, 7, 127, .ieee⟩
def fp16 : FpFmt := ⟨5, 10, 15, .ieee⟩
def e5m2 : FpFmt := ⟨5, 2, 15, .ieee⟩
def e4m3 : FpFmt := ⟨4, 3, 7, .nanOnly⟩
def e3m2 : FpFmt := ⟨3, 2, 3, .none⟩
def e2m3 : FpFmt := ⟨2, 3, 1, .none⟩
def e2m1 : FpFmt := ⟨2, 1, 1, .none⟩

/-- Width in bits of a floating-point format. -/
def FpFmt.width (f : FpFmt) : Nat := 1 + f.eb + f.mb

/-- Largest finite magnitude code of a format (R86). -/
def FpFmt.maxCode (f : FpFmt) : Nat :=
  match f.special with
  | .ieee => (2 ^ f.eb - 1) * 2 ^ f.mb - 1
  | .nanOnly => 2 ^ (f.eb + f.mb) - 2
  | .none => 2 ^ (f.eb + f.mb) - 1

/-- Canonical NaN code of a format (R88). -/
def FpFmt.nanCode (f : FpFmt) : Nat :=
  match f.special with
  | .ieee => (2 ^ f.eb - 1) * 2 ^ f.mb + 2 ^ (f.mb - 1) + (if f.mb == 2 then 1 else 0)
  | _ => 2 ^ (f.eb + f.mb) - 1

/-- Value of a code (R86, R87). -/
def FpFmt.decode (f : FpFmt) (code : Nat) : Val :=
  let m := code % 2 ^ f.mb
  let e := code / 2 ^ f.mb % 2 ^ f.eb
  let neg := bitAt code (f.eb + f.mb)
  if f.special == .ieee && e == 2 ^ f.eb - 1 then (if m == 0 then .inf neg else .nan)
  else if f.special == .nanOnly && e == 2 ^ f.eb - 1 && m == 2 ^ f.mb - 1 then .nan
  else if e == 0 then .num neg m (1 - f.bias - f.mb)
  else .num neg (2 ^ f.mb + m) (e - f.bias - f.mb)

/-- How a magnitude is rounded: to nearest even (R102), or up when the random value is below the discarded
fraction (R103). -/
inductive RoundMode where
  | rne
  | stoch (u : Nat)
  deriving DecidableEq, Repr

/-- `mag / 2^sh` rounded to an integer. -/
def roundShift (mode : RoundMode) (mag sh : Nat) : Nat :=
  let q := mag >>> sh
  let rem := mag % 2 ^ sh
  if rem == 0 then q
  else match mode with
    | .rne =>
      if 2 * rem > 2 ^ sh || (2 * rem == 2 ^ sh && q % 2 == 1) then q + 1 else q
    | .stoch u => if u < rem * 65536 / 2 ^ sh then q + 1 else q

/-- `mag * 2^exp` rounded to a multiple of 1. -/
def roundInt (mag : Nat) (exp : Int) : Nat :=
  if exp ≥ 0 then mag * 2 ^ exp.toNat else roundShift .rne mag (-exp).toNat

/-- Magnitude code of `mag * 2^exp` in a format: above `maxCode` when it rounds beyond the largest finite
value (R105). -/
def FpFmt.roundCode (f : FpFmt) (mode : RoundMode) (mag : Nat) (exp : Int) : Nat :=
  if mag == 0 then 0
  else
    let top : Int := (Nat.log2 mag : Int) + exp
    let ue : Int := max (top - f.mb) (1 - f.bias - f.mb)
    let q := if ue ≤ exp then mag * 2 ^ (exp - ue).toNat else roundShift mode mag (ue - exp).toNat
    ((ue + f.mb + f.bias - 1).toNat) * 2 ^ f.mb + q

/-- Sign bit of a format above its magnitude code. -/
def FpFmt.signed (f : FpFmt) (neg : Bool) (code : Nat) : Nat := b2n neg * 2 ^ (f.eb + f.mb) + code

/-- Code of a value in FP32, BF16 or FP16 (R105): overflow gives an infinity. -/
def FpFmt.encode (f : FpFmt) (mode : RoundMode) : Val → Nat
  | .nan => f.nanCode
  | .inf neg => f.signed neg (f.maxCode + 1)
  | .num neg mag exp =>
    let c := f.roundCode mode mag exp
    f.signed neg (if c > f.maxCode then f.maxCode + 1 else c)

/-- A value rounded to a format and read back. -/
def FpFmt.round (f : FpFmt) (v : Val) : Val := f.decode (f.encode .rne v)

/-- Value of an integer. -/
def Val.ofInt (i : Int) : Val := .num (i < 0) i.natAbs 0

/-- Value of a natural number. -/
def Val.ofNat (n : Nat) : Val := .num false n 0

def Val.isNan : Val → Bool
  | .nan => true
  | _ => false

def Val.isInf : Val → Bool
  | .inf _ => true
  | _ => false

def Val.isFinite : Val → Bool
  | .num _ _ _ => true
  | _ => false

def Val.isZero : Val → Bool
  | .num _ m _ => m == 0
  | _ => false

def Val.isNeg : Val → Bool
  | .nan => false
  | .inf n => n
  | .num n _ _ => n

def Val.neg : Val → Val
  | .nan => .nan
  | .inf n => .inf (!n)
  | .num n m e => .num (!n) m e

/-- The value times `2^k`, exactly. -/
def Val.scale (k : Int) : Val → Val
  | .num n m e => .num n m (e + k)
  | v => v

/-- Signed integer `mag * 2^(exp - low)` of a number, for `low` at most `exp`. -/
def sumTerm (low : Int) (neg : Bool) (mag : Nat) (exp : Int) : Int :=
  let m : Nat := mag * 2 ^ (exp - low).toNat
  if neg then -(m : Int) else m

/-- Exact sum (R105): infinity minus infinity is NaN; +0 and -0 give +0. -/
def Val.add : Val → Val → Val
  | .nan, _ => .nan
  | _, .nan => .nan
  | .inf a, .inf b => if a == b then .inf a else .nan
  | .inf a, _ => .inf a
  | _, .inf b => .inf b
  | .num an am ae, .num bn bm be =>
    let low := min ae be
    let s := sumTerm low an am ae + sumTerm low bn bm be
    if s = 0 then .num (an && bn) 0 low else .num (s < 0) s.natAbs low

/-- Exact product (R105): zero times infinity is NaN. -/
def Val.mul : Val → Val → Val
  | .nan, _ => .nan
  | _, .nan => .nan
  | .inf a, .inf b => .inf (a != b)
  | .inf a, .num b m _ => if m == 0 then .nan else .inf (a != b)
  | .num a m _, .inf b => if m == 0 then .nan else .inf (a != b)
  | .num a am ae, .num b bm be => .num (a != b) (am * bm) (ae + be)

def Val.sub (a b : Val) : Val := a.add b.neg

/-- An invalid addition of R105: two infinities of unlike sign. -/
def invalidAdd : Val → Val → Bool
  | .inf a, .inf b => a != b
  | _, _ => false

/-- An invalid product of R105: zero times infinity. -/
def invalidMul : Val → Val → Bool
  | .inf _, .num _ m _ => m == 0
  | .num _ m _, .inf _ => m == 0
  | _, _ => false

/-- Order of two numbers or infinities; +0 and -0 are equal (R109). -/
def Val.lt : Val → Val → Bool
  | .nan, _ => false
  | _, .nan => false
  | .inf a, .inf b => a && !b
  | .inf a, _ => a
  | _, .inf b => !b
  | .num an am ae, .num bn bm be =>
    let low := min ae be
    decide (sumTerm low an am ae < sumTerm low bn bm be)

/-- Order of magnitudes of finite values. -/
def Val.absLt : Val → Val → Bool
  | .num _ am ae, .num _ bm be =>
    let low := min ae be
    decide (sumTerm low false am ae < sumTerm low false bm be)
  | _, _ => false

/-- An integer value rounded under R102; for numbers only. -/
def Val.roundToInt : Val → Int
  | .num neg m e => if neg then -(roundInt m e : Int) else roundInt m e
  | _ => 0

/-! ### The format codes of R125 -/

/-- The element formats, by R125 code. -/
inductive Fmt where
  | mx8a | mx8b | mx6a | mx6b | mx4 | mxi8 | i8 | u8 | i4 | u4 | b16 | h16 | f32 | i16 | i32
  deriving DecidableEq, Repr

/-- R125: the format of a code; code 15 is reserved. -/
def Fmt.ofCode (c : Nat) : Option Fmt :=
  [Fmt.mx8a, .mx8b, .mx6a, .mx6b, .mx4, .mxi8, .i8, .u8, .i4, .u4, .b16, .h16, .f32, .i16, .i32][c]?

def Fmt.isMx : Fmt → Bool
  | .mx8a | .mx8b | .mx6a | .mx6b | .mx4 | .mxi8 => true
  | _ => false

def Fmt.isInt : Fmt → Bool
  | .i8 | .u8 | .i4 | .u4 | .i16 | .i32 => true
  | _ => false

def Fmt.isFloat : Fmt → Bool
  | .b16 | .h16 | .f32 => true
  | _ => false

/-- Width of one element in bits. -/
def Fmt.bits : Fmt → Nat
  | .mx8a | .mx8b | .mxi8 | .i8 | .u8 => 8
  | .mx6a | .mx6b => 6
  | .mx4 | .i4 | .u4 => 4
  | .b16 | .h16 | .i16 => 16
  | .f32 | .i32 => 32

/-- The floating-point layout of a format that has one. -/
def Fmt.fp : Fmt → FpFmt
  | .mx8a => e4m3
  | .mx8b => e5m2
  | .mx6a => e3m2
  | .mx6b => e2m3
  | .mx4 => e2m1
  | .b16 => bf16
  | .h16 => fp16
  | _ => fp32

/-- R89: range of an integer format. -/
def Fmt.range : Fmt → Int × Int
  | .i8 => (-128, 127)
  | .u8 => (0, 255)
  | .i4 => (-8, 7)
  | .u4 => (0, 15)
  | .i16 => (-32768, 32767)
  | _ => (-2147483648, 2147483647)

/-- Value of an element code; an MX element without its block's scale (R86, R89, R94). -/
def Fmt.decode (f : Fmt) (code : Nat) : Val :=
  match f with
  | .mxi8 => (Val.ofInt (signExt 8 code)).scale (-6)
  | .i8 => .ofInt (signExt 8 code)
  | .u8 => .ofInt (code % 256 : Nat)
  | .i4 => .ofInt (signExt 4 code)
  | .u4 => .ofInt (code % 16 : Nat)
  | .i16 => .ofInt (signExt 16 code)
  | .i32 => .ofInt (signExt 32 code)
  | f => f.fp.decode code

/-- A result code with the events of R108: whether it saturated and whether it was invalid. -/
structure Coded where
  code : Nat
  sat : Bool := false
  invalid : Bool := false
  deriving DecidableEq, Repr

/-- R107: an integer saturated to a format. -/
def Fmt.satInt (f : Fmt) (i : Int) : Coded :=
  let (lo, hi) := f.range
  let v := max lo (min hi i)
  { code := (v % (2 ^ f.bits : Nat)).toNat, sat := v ≠ i }

/-- R107: a value converted to an integer format or to FP32, BF16 or FP16. -/
def Fmt.encode (f : Fmt) (mode : RoundMode) (v : Val) : Coded :=
  if f.isInt then
    match v with
    | .nan => { code := 0, invalid := true }
    | .inf neg => { code := (f.satInt (if neg then f.range.1 else f.range.2)).code, sat := true }
    | v => f.satInt v.roundToInt
  else { code := f.fp.encode mode v }

/-- Codes of a packed element plane: element `i` of width `w` bits occupies bits `[w*i + w - 1 : w*i]` of the
bytes read as one little-endian value (R89, R91). -/
def unpackCodes (w : Nat) (bs : List Byte) : List Nat :=
  match w with
  | 4 => bs.flatMap (fun b => [b.toNat % 16, b.toNat / 16])
  | 6 => (chunks 3 bs).flatMap (fun c => let v := leNat c; [v % 64, v / 64 % 64, v / 4096 % 64, v / 262144 % 64])
  | _ => (chunks (w / 8) bs).map leNat

/-- Inverse of `unpackCodes`: the last byte is filled with zero bits. -/
def packCodes (w : Nat) (cs : List Nat) : List Byte :=
  match w with
  | 4 => (chunks 2 cs).map (fun c => BitVec.ofNat 8 (c.getD 0 0 % 16 + 16 * (c.getD 1 0 % 16)))
  | 6 => (chunks 4 cs).flatMap (fun c =>
      leBytes (ceilDiv (6 * c.length) 8)
        (c.getD 0 0 % 64 + 64 * (c.getD 1 0 % 64) + 4096 * (c.getD 2 0 % 64) + 262144 * (c.getD 3 0 % 64)))
  | _ => cs.flatMap (leBytes (w / 8))

/-! ### Microscaling blocks -/

/-- R93: values of the first `n` elements of a block from its element codes, scale code and sidecar bytes. -/
def blockValues (f : Fmt) (codes : List Nat) (scale : Nat) (side : Option (List Byte)) : List Val :=
  if scale == 255 then codes.map (fun _ => Val.nan)
  else
    let vs := codes.map (fun c => (f.decode c).scale ((scale : Int) - 127))
    match side with
    | none => vs
    | some sb => vs.set (field sb 2 1 % 32) (bf16.decode (field sb 0 2))

/-- R95: e_max of an element format. -/
def Fmt.eMax : Fmt → Int
  | .mx8b => 15
  | .mx8a => 8
  | .mx6a => 4
  | .mx6b => 2
  | .mx4 => 2
  | _ => 0

/-- Element code of `mag * 2^exp` for an MX element format, and whether it exceeds M under the rounding. -/
def mxMagCode (f : Fmt) (mode : RoundMode) (mag : Nat) (exp : Int) : Nat × Bool :=
  match f with
  | .mxi8 =>
    let e := exp + 6
    let q := if e ≥ 0 then mag * 2 ^ e.toNat else roundShift mode mag (-e).toNat
    (min q 127, q > 127)
  | f =>
    let c := f.fp.roundCode mode mag exp
    (min c f.fp.maxCode, c > f.fp.maxCode)

/-- Signed element code of an MX element; MXINT8 has no -0 (R94). -/
def mxSigned (f : Fmt) (neg : Bool) (mag : Nat) : Nat :=
  match f with
  | .mxi8 => if neg && mag != 0 then 256 - mag else mag
  | f => f.fp.signed neg mag

/-- NaN element code of an MX format that has one (R88). -/
def mxNan (f : Fmt) : Nat := f.fp.nanCode

/-- Largest magnitude among the finite values (R95), as magnitude and exponent. -/
def maxMag (vs : List Val) : Val :=
  vs.foldl (fun a v => if v.isFinite && a.absLt v then v else a) (.num false 0 0)

/-- R95: the scale exponent before the clamp at 127. -/
def scaleExp (f : Fmt) (vs : List Val) : Int :=
  match maxMag vs with
  | .num _ mag exp =>
    if mag == 0 then 0
    else
      let e := (Nat.log2 mag : Int) + exp - f.eMax
      let e := if (mxMagCode f .rne mag (exp - e)).2 then e + 1 else e
      max e (-127)
  | _ => 0

/-- R100: rank of a value in the choice of the sidecar's element: whether `b` ranks above `a`. -/
def topRank (a b : Val) : Bool :=
  match a, b with
  | .nan, _ => false
  | _, .nan => true
  | .inf _, _ => false
  | _, .inf _ => true
  | a, b => a.absLt b

/-- R100: index of the element that goes to the sidecar. -/
def topIndex (vs : List Val) : Nat :=
  (vs.foldl (fun (best : Nat × Val × Nat) v =>
    if topRank best.2.1 v then (best.2.2, v, best.2.2 + 1) else (best.1, best.2.1, best.2.2 + 1))
    (0, vs.headD (.num false 0 0), 0)).1

/-- A written MX block: element codes (32 of them), scale code, sidecar bytes, and whether it counts in
`VANISH` (R98). -/
structure MxBlock where
  codes : List Nat
  scale : Nat
  side : List Byte
  vanish : Bool
  deriving DecidableEq, Repr

/-- R95 to R100: a block written from its values (those that are not fill) with one rounding mode for each. -/
def encodeBlock (f : Fmt) (topnote : Bool) (vs : List Val) (modes : List RoundMode) : MxBlock :=
  let ti := topIndex vs
  let hasSide := topnote && !vs.isEmpty
  let rest := if hasSide then vs.set ti (.num false 0 0) else vs
  let side := if !topnote then [] else if vs.isEmpty then [0, 0, 0]
    else leBytes 2 (bf16.encode (modes.getD ti .rne) (vs.getD ti .nan)) ++ [BitVec.ofNat 8 ti]
  let e0 := scaleExp f rest
  let past := e0 > 127
  let e := min e0 127
  let nonFinite := rest.any (fun v => !v.isFinite)
  let whole := f != .mx8a && f != .mx8b
  if whole && (nonFinite || past) then
    { codes := List.replicate 32 0, scale := 255, side := side, vanish := false }
  else
    let code (v : Val) (m : RoundMode) : Nat :=
      match v with
      | .nan => mxNan f
      | .inf neg => if f == .mx8a then mxNan f else f.fp.signed neg (f.fp.maxCode + 1)
      | .num neg mag exp =>
        if past && (mxMagCode f .rne mag (exp - e)).2 then
          (if f == .mx8a then mxNan f else f.fp.signed neg (f.fp.maxCode + 1))
        else mxSigned f neg (mxMagCode f m mag (exp - e)).1
    let cs := rest.zipWith code (modes ++ List.replicate (rest.length - modes.length) .rne)
    let cs := if hasSide then cs.set ti 0 else cs
    let zeroCode (c : Nat) : Bool := (f.decode c).isZero
    let vanish := (rest.zip cs).any (fun p => p.1.isFinite && !p.1.isZero && zeroCode p.2)
    let all0 := cs.all zeroCode
    { codes := (if all0 then cs.map (fun _ => 0) else cs) ++ List.replicate (32 - cs.length) 0
      scale := if all0 then 127 else (e + 127).toNat
      side := side
      vanish := vanish }

/-- R104: the seed s of an operation. -/
def stochSeed (jobSeed : Word) (opSeed pos : Nat) : Word :=
  mix64 (jobSeed ^^^ (BitVec.ofNat 64 (opSeed * 2 ^ 32)) ^^^ BitVec.ofNat 64 pos)

/-- R104: the random value of element `i`. -/
def stochValue (s : Word) (i : Nat) : Nat := (mix64 (s + BitVec.ofNat 64 i)).toNat % 65536

/-! ### Special functions (R106, R138) -/

/-- floor (ln 2 * 2^256). -/
def ln2Fixed : Nat := 0xb17217f7d1cf79abc9e3b39803f2f6af40f343267298b62d8a0d175b8baafa2b

/-- Scale of the fixed-point evaluation. -/
def fixedOne : Nat := 2 ^ 256

/-- Sum of the exponential series of `r / 2^256`, `n` terms from term number `k`. -/
def expSeries (r : Nat) : Nat → Nat → Nat → Nat → Nat
  | 0, _, _, acc => acc
  | n + 1, k, term, acc =>
    let term := term * r / fixedOne / k
    expSeries r n (k + 1) term (acc + term)

/-- exp of a finite non-zero number: a value whose rounding to FP32 is the correctly rounded result (DEDUCED, log 99). -/
def expFinite (neg : Bool) (mag : Nat) (exp : Int) : Val :=
  let top : Int := (Nat.log2 mag : Int) + exp
  if top ≥ 8 then (if neg then .num false 1 (-1000) else .num false 1 1000)
  else if top < -40 then
    (if neg then .num false (2 ^ 64 - 1) (-64) else .num false (2 ^ 64 + 1) (-64))
  else
    let x : Nat := if exp + 256 ≥ 0 then mag * 2 ^ (exp + 256).toNat else mag / 2 ^ (-(exp + 256)).toNat
    let xi : Int := if neg then -(x : Int) else x
    let k : Int := xi / (ln2Fixed : Int)
    let r : Nat := (xi - k * ln2Fixed).toNat
    .num false (2 * expSeries r 80 1 fixedOne fixedOne + 1) (k - 257)

/-- Sum of z^(2j+1)/(2j+1) for the logarithm. -/
def atanhSeries (z2 : Nat) : Nat → Nat → Nat → Nat → Nat
  | 0, _, _, acc => acc
  | n + 1, k, p, acc => atanhSeries z2 n (k + 2) (p * z2 / fixedOne) (acc + p / k)

/-- Logarithm of a positive number: a value whose rounding to FP32 is the correctly rounded result (DEDUCED, log 99). -/
def logFinite (mag : Nat) (exp : Int) : Val :=
  let l := Nat.log2 mag
  let e : Int := (l : Int) + exp
  if mag == 2 ^ l && e == 0 then .num false 0 0
  else
    let m := mag * fixedOne / 2 ^ l
    let z := (m - fixedOne) * fixedOne / (m + fixedOne)
    let lm := 2 * atanhSeries (z * z / fixedOne) 90 1 z 0
    let t : Int := e * (ln2Fixed : Int) + lm
    .num (t < 0) (2 * t.natAbs + 1) (-257)

/-- Reciprocal of a non-zero number, with a sticky bit (DEDUCED, log 99). -/
def rcpFinite (neg : Bool) (mag : Nat) (exp : Int) : Val :=
  let sh := 64 + 2 * Nat.log2 mag
  let q := 2 ^ sh / mag
  .num neg (2 * q + b2n (q * mag != 2 ^ sh)) (-exp - sh - 1)

/-- Integer square root, bit by bit from bit `b - 1` down. -/
def isqrtAux (n : Nat) : Nat → Nat → Nat
  | 0, r => r
  | b + 1, r => isqrtAux n b (if (r + 2 ^ b) * (r + 2 ^ b) ≤ n then r + 2 ^ b else r)

/-- Integer square root. -/
def isqrt (n : Nat) : Nat := isqrtAux n (Nat.log2 n / 2 + 1) 0

/-- Reciprocal square root of a positive number, with a sticky bit (DEDUCED, log 99). -/
def rsqrtFinite (mag : Nat) (exp : Int) : Val :=
  let odd := exp % 2 != 0
  let m := if odd then 2 * mag else mag
  let e := if odd then exp - 1 else exp
  let sh := 2 * (64 + Nat.log2 m)
  let y := 2 ^ sh / m
  let r := isqrt y
  .num false (2 * r + b2n (r * r != y || y * m != 2 ^ sh)) (-(e / 2) - (sh / 2 : Nat) - 1)

/-- R106, R138: the exponential function. -/
def vExp : Val → Val
  | .nan => .nan
  | .inf neg => if neg then .num false 0 0 else .inf false
  | .num neg mag exp => if mag == 0 then .num false 1 0 else expFinite neg mag exp

/-- R106, R138: the natural logarithm. -/
def vLog : Val → Val
  | .nan => .nan
  | .inf neg => if neg then .nan else .inf false
  | .num neg mag exp => if mag == 0 then .inf true else if neg then .nan else logFinite mag exp

/-- R106, R138: the reciprocal. -/
def vRcp : Val → Val
  | .nan => .nan
  | .inf neg => .num neg 0 0
  | .num neg mag exp => if mag == 0 then .inf neg else rcpFinite neg mag exp

/-- R106, R138: the reciprocal square root. -/
def vRsqrt : Val → Val
  | .nan => .nan
  | .inf neg => if neg then .nan else .num false 0 0
  | .num neg mag exp => if mag == 0 then .inf neg else if neg then .nan else rsqrtFinite mag exp

/-- R105: an argument below -0 of the logarithm or the reciprocal square root is invalid. -/
def belowZero : Val → Bool
  | .inf neg => neg
  | .num neg mag _ => neg && mag != 0
  | .nan => false

/-! ### Sums in the orders of R110 and R137 -/

/-- One level of the tree of R137: neighbours are combined, a value without a partner passes up. -/
def pairUp {α : Type} (f : α → α → α) : List α → List α
  | a :: b :: l => f a b :: pairUp f l
  | l => l

/-- The fixed binary tree of R137 over at most 256 lanes. -/
def treeReduce {α : Type} (f : α → α → α) : Nat → List α → List α
  | 0, l => l
  | n + 1, l => if l.length ≤ 1 then l else treeReduce f n (pairUp f l)

/-- R137: the 256 lanes of a row, each combined in ascending order. -/
def laneReduce {α : Type} (f : α → α → α) (row : List α) : List α :=
  match chunks 256 row with
  | [] => []
  | first :: rest =>
    rest.foldl (fun acc c => (acc.zipWith f c) ++ acc.drop c.length) first

/-- R137: the reduction of one row. -/
def rowReduce {α : Type} (f : α → α → α) (row : List α) : Option α :=
  (treeReduce f 9 (laneReduce f row)).head?

/-- FP32 addition and product, rounded under R102. -/
def fAdd (a b : Val) : Val := fp32.round (a.add b)
def fSub (a b : Val) : Val := fp32.round (a.sub b)
def fMul (a b : Val) : Val := fp32.round (a.mul b)
def fFma (a b c : Val) : Val := fp32.round ((a.mul b).add c)

/-- R109, R136: the larger of two values; equal operands give the first, a NaN gives NaN. -/
def vMaxOf (a b : Val) : Val := if a.isNan || b.isNan then .nan else if a.lt b then b else a

/-- R109, R136: the smaller of two values; equal operands give the first, a NaN gives NaN. -/
def vMinOf (a b : Val) : Val := if a.isNan || b.isNan then .nan else if b.lt a then b else a

end Sys2Proof.Machine
end

