-- ==== Sys2Proof/Config.lean ====
section
/-! DEFINITION. The values that the specification leaves open: constants without a body, so that a claim about one
holds whatever it is. Each has its row in the assumption log. -/

namespace Sys2Proof.Config

/-- R596: the pattern that a range from an address on holds when the `k`-th event that leaves it undefined has happened (reset of a
cluster or region, an allocated pool buffer, addresses freed from the cache partition): its bytes that are not zero. Log 10. -/
opaque undefCells : Nat → Nat → List (Nat × Byte)

/-- R564, R566, R567: the signature that the identity key gives to a message digest; the private key is in no
specification. Log 11. -/
opaque identitySignature : List Byte → List Byte

/-- R565: byte `i` of the certificate chain that manufacture wrote. Log 11. -/
opaque certByte : Nat → Byte

/-- R567: digest of the boot ROM contents. Log 11. -/
opaque romDigest : List Byte

/-- R306: the fixed hash that names the set of a partition line, from the line address and the number of sets. Log 12. -/
opaque partitionHash : Nat → Nat → Nat

/-- R566: a random draw of the security engine (nonces, ephemeral keys). Log 11. -/
opaque random : Nat → Word

/-- R535: idle power of the device in W; the manual gives one example and no rule. Log 13. -/
opaque idleWatts : Nat

/-- R569: the provisional ID that is derived from SERIAL. Log 14. -/
opaque provisionalId : Word → BitVec 48

/-- R549: the wait in seconds, between 16 and 64, that Ranger chooses as the poll interval. Log 15. -/
opaque pollInterval : Nat → Nat

/-- R588: the value that an input land shows at a boundary-scan sample. Log 16. -/
opaque pinSample : Nat → Nat → Bool

/-- R539, R537: the most ballast, in W, that the package can carry with the given number of functions fenced
(at least 1,400 W in all with none fenced). Log 13. -/
opaque ballastLimit : Nat → Nat

/-- R480: for a write in flight at a hold, whether it lands. Log 17. -/
opaque inFlightLands : Nat → Bool

/-- R232, R343: flash page the translation layer programs next, where R345 leaves a choice among equal blocks. Log 18. -/
opaque freshPage : Nat → Nat

/-- R347: whether an erase of a flash block fails; the flash devices are outside the device. Log 127. -/
opaque eraseFails : Nat → Bool

/-- R340, R342: targets, blocks and pages in a block of an ONFI channel, as its targets' parameter pages give them at boot; the
flash devices are outside the device. Log 19. -/
opaque nandTargets : Nat → Nat
opaque nandBlocks : Nat → Nat
opaque nandPages : Nat → Nat

/-- R347: whether block `b` of channel `c` is marked bad at the factory. Log 19. -/
opaque nandBad : Nat → Nat → Bool

/-- R373 to R375: flits of credit that an adaptive channel of a port has free when a head is routed, by heads routed, port and `VC`. Log 33. -/
opaque freeCredit : Nat → Nat → Nat → Nat

/-- R375: whether the escape route frees before an adaptive channel does, where none has credit. Log 33. -/
opaque escapeFrees : Nat → Bool

/-- R400: symbols that the error correction of a port's link corrected in a tick. Log 128. -/
opaque fecCorrected : Nat → Nat → Nat

/-- R366, R487: the delay, in 1/64 cc, that a port's bring-up measures in its reset, by ports trained so and port. Log 61. -/
opaque resetDelay : Nat → Nat → BitVec 20

/-- R441: the place, in chunks, of a piece in a pass-through area. Log 93. -/
opaque ptaPlace : Nat → Nat

/-- R361, R400: whether a failed link word failed in FEC decode (else its `LCRC` did not match). Log 21. -/
opaque failsFec : Nat → Bool

/-- R499: CORE cycles for which the copy engine holds a write, at most 2 µs while its bounce buffer has room. Log 22. -/
opaque holdCycles : Nat → Nat

/-- R566: the body that answers a vendor-defined SPDM request; the manual gives none. Log 11. -/
opaque vendorReply : List Byte → List Byte

/-- R565: bytes of the certificate chain. Log 11. -/
opaque certLength : Nat

/-- R459: version of the boot ROM. Log 11. -/
opaque romVersion : BitVec 16

/-- R538: freeze duty that a governor requests for the power limit; the manual does not say how much. Log 23. -/
opaque limitDuty : Nat → Nat

/-- R68, R368: how long a forwarded `GO` or beacon stayed beyond its transit figure, in 1/64 cc. Log 108. -/
opaque residence : Nat → Nat

/-- R585: cycles in which the PLLs slew back to REFCLK. Log 24. -/
opaque slewCycles : Nat → Nat

/-- R562: result of an `END` that comes before every byte has arrived; the manual gives none. Log 25. -/
opaque earlyEndResult : Nat → Byte

/-- R548: the path to the time server that management has chosen; no command makes the choice. Log 26. -/
opaque timePath : Nat → BitVec 2

/-- R548: rate of a slew in ppm; the manual bounds it by 200. Log 27. -/
opaque slewPpm : Nat

/-- R566: CORE cycles that a signature takes; the manual bounds them by 25 ms. Log 28. -/
opaque signCycles : Nat → Nat

/-- R553: CORE cycles that a boot stage takes; the manual bounds them. Log 29. -/
opaque stageCycles : Nat → Nat

/-- R554: `CHECK` of the fault record that names a function that boot lost; the manual gives none. Log 30. -/
opaque bootRecordCheck : Nat → Nat

end Sys2Proof.Config
end

