-- ==== Sys2Proof/Machine/State.lean ====
section
/-! DEFINITION. The state of the device as plain data: every register, memory, queue, counter and mode that the
manual names, the commands that wait, and the device right after reset. Tables that are sparse in use are lists of
(key, value) pairs; a key that a table does not list reads as the default that its accessor in Ops.lean names. -/

namespace Sys2Proof.Machine

/-- Reasons to stop with a fault. -/
inductive Fault where
  /-- Raised by no command: whatever the manual calls a fault is a next state of the device, with its record
  (R488), and every command has an effect. Kept so that a stop has a type. Safe. -/
  | none
  deriving DecidableEq, Repr

/-- Reasons to refuse. -/
inductive Refusal where
  /-- An arm of `exec` that has no meaning yet. Safe. -/
  | notModelled (mnemonic : String)
  deriving DecidableEq, Repr

/-- A sparse table: keys strictly rising. -/
abbrev Tab (V : Type) := List (Nat × V)

/-! ### Effects that land later -/

/-- One write of an operation that has issued and lands when the operation ends (R50, R298). -/
inductive Eff where
  /-- Bytes to on-chip memory, by local address. -/
  | sram (addr : Nat) (bytes : List Byte)
  /-- Bytes to a local address, with the hint of R307. -/
  | mem (addr : Nat) (hint : Nat) (bytes : List Byte)
  /-- A read of a local range passes through the cache partition and the order of page use (R307, R326). -/
  | touch (addr len hint : Nat)
  /-- Entries of an accumulator, from entry index `idx` over all slots (R131). -/
  | acc (n : Nat) (idx : Nat) (vals : List Nat)
  /-- Type mark of an accumulator slot: INT32 or FP32 (R131). -/
  | accMark (n : Nat) (slot : Nat) (isInt : Bool)
  /-- A counter of the tick telemetry record (R574). -/
  | count (key : Nat) (k : Nat)
  /-- An 8-byte entry of the per-expert counter table: what is added to `ADMITS` and to `DROPS` (R214). -/
  | addCounter (addr admits drops : Nat)
  /-- The `DST` of a cluster in a collective (R424). -/
  | collDst (n : Nat) (cdesc dst : Nat)
  /-- The contribution that a cluster posts to a collective (R424). -/
  | post (n : Nat) (cdesc : Nat) (bytes : List Byte)
  /-- The contribution of a posting product: the slots of a mask, once written (R424). -/
  | postAcc (n : Nat) (cdesc : Nat) (mask len dfmt : Nat)
  deriving DecidableEq, Repr

/-! ### Faults, fences and reset (R474 to R496) -/

/-- A fault record (R488). -/
structure FaultRec where
  fseq : Nat := 0
  kind : Nat
  func : Nat := 0xFF
  unit : Nat := 0
  tick : Nat := 0
  time : Nat := 0
  action : Nat := 0
  die : Nat := 0xFF
  check : Nat := 0
  owner : Nat := 0
  detail : List Byte := []
  deriving DecidableEq, Repr

/-- A queued FRESET command (R484): function, action, requester, mailbox `OWNER`, and whether the bit was clear when
its reset began. -/
structure FresetCmd where
  func : Nat
  action : Nat
  req : Requester
  owner : Nat := 0
  wasClear : Bool := true
  startNs : Nat := 0
  deriving DecidableEq, Repr

/-- The fence controller and the reset controller. -/
structure FenceUnit where
  fenced : BitVec 116 := 0
  used : BitVec 116 := 0
  accepted : BitVec 16 := 0
  completed : BitVec 16 := 0
  lastFunc : BitVec 8 := 0
  lastAction : BitVec 2 := 0
  lastResult : BitVec 3 := 0
  lastTime : BitVec 16 := 0
  queue : List FresetCmd := []
  fseq : Nat := 0
  ring : List FaultRec := []
  deriving DecidableEq, Repr

/-! ### Clusters (R115 to R148) -/

/-- An operation in progress on a cluster: what it claims (R598) and the writes that land at its end. -/
structure ClusterOp where
  op : Nat
  units : Nat
  slots : Nat
  accOnly : Bool := false
  due : Nat := 0
  effects : List Eff := []
  /-- A `GET` form: the collective it waits for and, for `GET_MMUL` and `GET_TMUL`, the compute half to run then. -/
  waitColl : Option Nat := none
  thenOp : Option (Nat × List Byte) := none
  deriving DecidableEq, Repr

/-- A scalar core (R143): registers, word index, whether it runs, the signal flags it has received, and stores to
remote memory that are outstanding (R409). -/
structure Core where
  regs : Vector Word 32 := Vector.replicate 32 0
  pc : Nat := 0
  running : Bool := false
  flags : Nat := 0
  outstanding : Nat := 0
  freeAt : Nat := 0
  waiting : Option Nat := none
  deriving DecidableEq, Repr

/-- The work item that a cluster holds in a Clearing (R61): list, index, entry and kernel. -/
structure Item where
  region : Nat
  index : Nat
  kernel : Nat
  entry : List Byte
  deriving DecidableEq, Repr

/-- One cluster: its accumulator (entry index `slot * 16384 + entry`, absent entries are 0), the slots that hold
INT32, its operations in progress, oldest first, its cores and its item. -/
structure Cluster where
  acc : List (Nat × Nat) := []
  accInt : BitVec 32 := 0
  ops : List ClusterOp := []
  cores : Vector Core 4 := Vector.replicate 4 {}
  item : Option Item := none
  fuse : BitVec 32 := 0xFFFFFFFF
  deriving DecidableEq, Repr

/-! ### Streams and ticks (R40 to R83) -/

/-- An open Clearing window of a die (R59 to R63); `takers` lists the clusters that take an entry, in order: cycle and
cluster (R61). -/
structure Window where
  openAt : Nat
  length : Nat
  clusters : Nat
  lists : List (Nat × Nat)
  next : List Nat
  lastEnd : Nat
  takers : List (Nat × Nat) := []
  deriving DecidableEq, Repr

/-- The sequencer of a die: body, next bundle of the body, the operand of the `TICK_WAIT` it waits in and since when,
`JOB_END` seen in this body, the `SYNC` it waits in (mask, identifier, cycle) and when that ends, its open window, the cycle
from which its next bundle may issue, what holds that bundle and since when (level, cause, cycle), the stall cycles of the
body by cause, the cycle in which the bundle before it was fetched, and the cycles of its newest 64 issues. -/
structure Seq where
  body : Nat := 0
  bundle : Nat := 0
  waiting : Option Nat := none
  waitAt : Nat := 0
  jobEnd : Bool := false
  sync : Option (Nat × Nat × Nat) := none
  syncAt : Option Nat := none
  window : Option Window := none
  freeAt : Nat := 0
  blocked : Option (Nat × Nat × Nat) := none
  stalls : Tab Nat := []
  fetchAt : Nat := 0
  recent : List Nat := []
  deriving DecidableEq, Repr

/-- Whether edges run, and how the device releases (R66, R67). -/
inductive Release where
  | idle
  | armed
  | goAt (cc : Nat)
  deriving DecidableEq, Repr

/-- A merged beacon reply of the children (R72). -/
structure ReplyAcc where
  flags : BitVec 8 := 0
  cause : BitVec 8 := 0
  stretch : Nat := 0
  deriving DecidableEq, Repr

/-- The tick unit (R40 to R83). Delays are in 1/64 CORE cycle. `nextNo` is the number of the tick that the next aligned edge
starts; `lateLog` gives, for a tick that overran, its place in the overrun log and the edge that found it late; `stretchedTicks`
lists the ticks that an announced stretch lengthens; `markReq` is the request that a master's next beacon carries; `edges` tells
that edges run; `missedFor` is the tick whose beacon was missed last (R77); `ovrFresh` gives, of the last cycle in which overruns
were counted, that cycle, the count before it and the overruns since (R11). -/
structure TickUnit where
  count : BitVec 64 := 0
  period : BitVec 24 := 0
  guard : BitVec 8 := 30
  strCur : BitVec 16 := 0
  strNext : BitVec 16 := 0
  strCause : BitVec 4 := 0
  run : Bool := false
  master : Bool := false
  backup : BitVec 2 := 0
  repro : Bool := false
  beaconOk : Bool := false
  missed : BitVec 8 := 0
  ovrHead : BitVec 4 := 0
  ovrCount : BitVec 32 := 0
  ovrLog : Tab (List Byte) := []
  edge : Nat := 0
  nextEdge : Nat := 0
  nextNo : Nat := 0
  lateLog : Tab (Nat × Nat) := []
  started : Bool := false
  stretchedTicks : List Nat := []
  armTag : BitVec 16 := 0
  armEpoch : BitVec 32 := 0
  armStart : BitVec 48 := 0
  delay : Nat := 0
  delayM : Nat := 0
  delayB1 : Nat := 0
  delayB2 : Nat := 0
  sender : Nat := 0
  pendingReady : Option Nat := none
  release : Release := .idle
  lastBeacon : Option Nat := none
  align : Bool := false
  ovrFlag : Bool := false
  replies : ReplyAcc := {}
  markReq : Nat := 0
  stopFrom : Option Nat := none
  snapFrom : Option Nat := none
  edges : Bool := false
  missedFor : Option Nat := none
  ovrFresh : Nat × Nat × Nat := (0, 0, 0)
  deriving DecidableEq, Repr

/-! ### The job -/

/-- R460: the job states. -/
inductive JobState where
  | none | loading | loaded | waitArm | running | held | stopped | ended | restoring
  deriving DecidableEq, Repr

/-- A section of the loaded image (R44). `die` is 255 for all dies. -/
structure Section where
  typ : Nat
  die : Nat
  load : Nat
  bytes : List Byte
  deriving DecidableEq, Repr

/-- A Canopy segment of the layout (R318). -/
structure Segment where
  base : Nat
  size : Nat
  cls : Nat
  account : Nat
  stackMask : Nat
  voff : Nat
  deriving DecidableEq, Repr

/-- The loaded job: what the image, the load and the start commands fixed, and how far the job has come; for a
command-list job also the bodies built for each die, by tick parity (tick and bundles), and the lists accepted, by tick (R256). -/
structure Job where
  state : JobState := .none
  before : JobState := .none
  cmdlist : Bool := false
  multi : Bool := false
  tag : BitVec 16 := 0
  seed : Word := 0
  digest : List Byte := []
  training : Bool := false
  workCc : Nat := 0
  bodyCount : Nat := 0
  entryBody : Nat := 0
  maxSaveGap : Nat := 0
  group : Nat := 0
  imgLen : Nat := 0
  sections : List Section := []
  segments : List Segment := []
  canopySize : Nat := 0
  frames : Tab Nat := []
  cache : Nat := 0
  loadTimeout : Nat := 5
  laRings : Nat := 0
  laRing : List Nat := []
  ownTable : Nat := 0
  hostWin : Nat := 0
  outSrc0 : Nat := 0
  outSrc1 : Nat := 0
  outLen : Nat := 0
  outDepth : Nat := 0
  nextBody : Nat := 0
  resumeTick : Nat := 0
  stepNo : BitVec 48 := 0
  committed : Option Nat := none
  committedStep : BitVec 48 := 0
  replayTo : Option Nat := none
  built : Tab (Nat × Nat) := []
  lists : Tab (List Byte) := []
  everReleased : Bool := false
  loadFenced : Bool := false
  deriving DecidableEq, Repr

/-! ### Host link and mailboxes (R454 to R473) -/

/-- PCIe configuration bits that the rules of R461 and R469 consult (PRESUMED, log 5). -/
structure Pcie where
  msixEnable : Bool := true
  functionMask : Bool := false
  busMaster : Bool := true
  deriving DecidableEq, Repr

/-- R459: what one requester has under way: the bytes of each register that it has captured, by offset, and the held half of a
lane: offset and value. -/
structure Access where
  captured : Tab (List Byte) := []
  held : Option (Nat × Nat) := none
  deriving DecidableEq, Repr

/-- A request that Heartwood has accepted and not completed (R464): header and request bytes as copied. -/
structure Accepted where
  mb : Nat
  cmd : Nat
  seq : Nat
  owner : Nat
  len : Nat
  request : List Byte
  deriving DecidableEq, Repr

/-- What a running long command waits for (R466) (DESIGN CHOICE, log 56). -/
structure LongCmd where
  req : Accepted
  phase : Nat := 0
  data : List Byte := []
  aux : List Byte := []
  note : Nat := 0
  unread : List Nat := []
  bounce : List Nat := []
  deriving DecidableEq, Repr

/-- A host-memory transfer in progress (R469), the request it belongs to, and whether that is the long command. -/
structure Xfer where
  req : Accepted
  long : Bool
  addr : Nat
  len : Nat
  write : Bool
  since : Nat
  deriving DecidableEq, Repr

/-- The MSI-X table at reset: every entry masked (PCIe entry format) (PRESUMED, log 5). -/
def msixReset : List Host.Cell := (List.range 64).map (fun v => (16 * v + 12, 1))

/-- A publication under way (R471): its tick, the offset of its slot in the ring, the cycle in which it ends, and header
bytes 8 to 63. -/
structure Publication where
  tick : Nat
  slot : Nat
  due : Nat
  header : List Byte
  deriving DecidableEq, Repr

/-- R11: what the device itself did to clearable fields of the host registers in cycle `cc`: the causes it set, whether it
recorded a failed access, the count of failed accesses before and those counted since. -/
structure HostFresh where
  cc : Nat := 0
  irq : BitVec 38 := 0
  errValid : Bool := false
  before : Nat := 0
  counted : Nat := 0
  deriving DecidableEq, Repr

/-- The host-facing registers and Heartwood. -/
structure HostUnit where
  rev : BitVec 8 := 0
  serial : Word := 0
  romVersion : BitVec 16 := 0
  mgmtVersion : BitVec 16 := 0
  hwdVersion : BitVec 16 := 0
  mgmtSlot : Bool := false
  hwdSlot : Bool := false
  staged : BitVec 2 := 0
  bootState : BitVec 2 := 0
  bootStage : BitVec 4 := 0
  modules : BitVec 4 := 0
  rate : BitVec 4 := 0
  arrays : BitVec 7 := 0
  spareRows : BitVec 8 := 0
  spareCols : BitVec 8 := 0
  hbmDiv4 : BitVec 8 := 0
  irqStatus : BitVec 38 := 0
  irqMask : BitVec 38 := BitVec.allOnes 38
  outIrq : BitVec 16 := 1
  errOffset : BitVec 40 := 0
  errStatus : BitVec 3 := 0
  errWrite : Bool := false
  errValid : Bool := false
  errCount : BitVec 32 := 0
  msixTable : List Host.Cell := msixReset
  pba : BitVec 64 := 0
  pcie : Pcie := {}
  mailbox : List Host.Cell := []
  post : BitVec 32 := 0
  access : Tab Access := []
  accepted : List Accepted := []
  long : Option LongCmd := none
  xfers : List Xfer := []
  publishing : List Publication := []
  fresh : HostFresh := {}
  deriving DecidableEq, Repr

/-- What leaves the device: packets on ports, host-link traffic, messages of Ranger and answers to accesses, in order. -/
inductive Out where
  /-- A packet on a port. -/
  | packet (port : Nat) (p : Pkt)
  /-- An MSI-X message. -/
  | msix (vector : Nat)
  /-- Value that a register or window read returns to its requester. -/
  | readData (req : Requester) (bytes : List Byte)
  /-- Completion of a CXL.mem read or write on the link. -/
  | cxl (bytes : List Byte)
  /-- A CXL.io memory read of host memory (R469). -/
  | hostRead (addr len : Nat)
  /-- A CXL.io memory write of host memory (R469). -/
  | hostWrite (addr : Nat) (bytes : List Byte)
  /-- A management message over a transport: kind and body (R570, R572, R600). -/
  | message (kind : Nat) (dest : Nat) (bytes : List Byte)
  /-- An SPDM response: code and body (R566). -/
  | spdm (t : Transport) (code : Nat) (bytes : List Byte)
  /-- The response to a management access message (R572). -/
  | mgmt (req : Requester) (bytes : List Byte)
  /-- A DOE response of the host time path (R549). -/
  | doe (bytes : List Byte)
  /-- A message on the I3C target, by MCTP message type; 255 is the answer to `ENTDAA` (R561, R569, R571). -/
  | i3c (kind : Nat) (bytes : List Byte)
  /-- A datagram of time synchronisation (R549). -/
  | ntp (viaFabric : Bool) (bytes : List Byte)
  /-- Bits shifted out of the JTAG port (R588). -/
  | tdo (bits : List Bool)
  /-- An exchange packet on the die network or a bridge to a die of this package (R226). -/
  | token (die : Nat) (t : Tok)
  /-- Link words that a port replays, from a word on (R361). -/
  | linkWords (port first : Nat) (words : List (List Byte))
  /-- A port's identity exchange: `FAB_COORD`, part number and route epoch (R364). -/
  | identity (port : Nat) (coord : BitVec 32) (part : Nat) (epoch : Nat)
  /-- A link-control word on a port: kind and link word (R361). -/
  | linkCtl (port : Nat) (kind : Nat) (word : Nat)
  /-- A pulse or level on a pin of the package (R584). -/
  | pin (name : Nat) (level : Bool)
  deriving DecidableEq, Repr

/-- The clock (R7, R527, R548): CORE cycles since the device reset; the offset of the TIME counter, in ns, from the time those
cycles take; and the offset that it is slewed by, since a cycle. -/
structure Clock where
  cc : Nat := 0
  offset : Int := 0
  slewNs : Int := 0
  slewFrom : Nat := 0
  deriving DecidableEq, Repr

/-! ### Ranger's reports -/

/-- A report message that has not been acknowledged (R600), with the cycles of its first and last sending. -/
structure Report where
  rnum : Nat
  body : List Byte
  firstCc : Nat
  lastCc : Nat
  deriving DecidableEq, Repr

/-- A trace entry (R575). -/
structure TraceEntry where
  time : Nat
  kind : Nat
  source : Nat
  detail : List Byte
  deriving DecidableEq, Repr


/-- Ranger; `seen15` and `seen17` are the readings of the sensors that the last `PlatformEventMessage` of each gave (R571). -/
structure RangerUnit where
  seen15 : Nat := 0
  seen17 : Nat := 0
  rnum : Nat := 0
  reports : List Report := []
  trace : List TraceEntry := []
  traceCount : Nat := 0
  deriving DecidableEq, Repr

/-! ### The memory-side cache and HBM (R293 to R316) -/

/-- A valid line of a cache partition (R306): its line number in HBM (byte key / 256), whether it is dirty, its
`KEEP` mark, and, while dirty, what HBM itself still holds there. -/
structure PartLine where
  line : Nat
  dirty : Bool
  keep : Bool
  stale : List Byte
  deriving DecidableEq, Repr

/-- One HBM stack and its controller: retired granules, refresh rate (1, 2 or 4), temperature, whether it trained
at boot and is in self-refresh. -/
structure Stack where
  retired : List Nat := []
  rate : Nat := 1
  highRate : Nat := 1
  temp : BitVec 8 := 0
  trained : Bool := false
  selfRefresh : Bool := false
  deriving DecidableEq, Repr

/-! ### Understory (R318 to R356) -/

/-- R325: the states of a TIERED page. -/
inductive PageState where
  | unwritten | home | lost | staging | clean | dirty | writeback
  deriving DecidableEq, Repr

/-- A TIERED page: state, frame (HBM key of its first byte), end of its hold (target tick), order of last use, whether it
is staged as zeros, whether a write came during its write-back, the contents its write-back carries (R327), whether it is written
back to give its frame up (R326), and the cycle in which its staging ended (R355). -/
structure Page where
  state : PageState := .unwritten
  frame : Option Nat := none
  holdTo : Option Nat := none
  used : Nat := 0
  fill : Bool := false
  rewritten : Bool := false
  image : List Byte := []
  victim : Bool := false
  fresh : Option Nat := none
  deriving DecidableEq, Repr

/-- A quota record (R338). -/
structure Quota where
  active : Bool := false
  hbm : Nat := 0
  cache : Nat := 0
  und : Nat := 0
  deriving DecidableEq, Repr

/-- A listed page that waits for its staging (R333, R335). -/
structure StageReq where
  page : Nat
  tick : Nat
  order : Nat
  deriving DecidableEq, Repr

/-- A flash block (R345 to R348): erase count, reads since the last erase, whether it is bad, pages programmed so
far, the programmed pages that are still valid: page in the block and logical key, and the record in the spare area of each
programmed page (R344). -/
structure Block where
  erases : Nat := 0
  reads : Nat := 0
  bad : Bool := false
  programmed : Nat := 0
  valid : List (Nat × Nat) := []
  spares : Tab (List Byte) := []
  deriving DecidableEq, Repr

/-- An ONFI channel: presence and targets (R340 to R342), its blocks, and its times. -/
structure Channel where
  present : Bool := false
  targets : Nat := 0
  blocks : Nat := 0
  pagesPerBlock : Nat := 0
  table : Tab Block := []
  lastTrain : Nat := 0
  busyUntil : Nat := 0
  deriving DecidableEq, Repr

/-- A journal record (R349): logical page with its owner, new map entry, and the low 32 bits of the sequence number. -/
structure JournalRec where
  key : Nat
  entry : BitVec 32
  seq : BitVec 32
  deriving DecidableEq, Repr

/-- A registered table (R329). -/
structure TableReg where
  base : Nat
  rows : Nat
  rowBytes : Nat
  dflt : Nat
  deriving DecidableEq, Repr

/-- A durable checkpoint slot as read back (R351): its header and data, and whether the commit record stands. -/
structure CkptSlot where
  gen : Nat := 0
  tag : Nat := 0
  step : Nat := 0
  committed : Bool := false
  digest : List Byte := []
  data : List Byte := []
  deriving DecidableEq, Repr

/-- The Understory controller. Contents and map entries are keyed by owner * 2^32 + logical page (R343) (DESIGN CHOICE, log 4); `map` holds
the entries that name a flash page, `lost` the pages whose entry is the `LOST` marker, `journal` the number of records since the map
copy, `journalLog` the records, latest first, and `mapCopy` the map's last copy in flash (R349). -/
structure Understory where
  quotas : Tab Quota := []
  ckptUnits : Nat := 0
  formatted : Nat := 0
  pages : Tab Page := []
  freeFrames : Tab (List Nat) := []
  shares : Tab Nat := []
  queue : List StageReq := []
  order : Nat := 0
  content : Tab (List Byte) := []
  map : Tab Nat := []
  lost : List Nat := []
  channels : Tab Channel := []
  readOnly : Bool := false
  seqNo : Nat := 0
  journal : Nat := 0
  lastCopy : Nat := 0
  journalLog : List JournalRec := []
  mapCopy : Tab Nat := []
  slots : Tab CkptSlot := []
  tables : Tab TableReg := []
  tablesNext : Tab (Option TableReg) := []
  deriving DecidableEq, Repr

/-! ### Sillage (R186 to R264) -/

/-- An operation in a Sillage pipeline: opcode, context index, N, first token, the context and exchange descriptor as
read at issue (R223), the tick of issue, what stood where writes of cluster operations have landed since (R225), newest
first, and, once started, its length in SILL cycles, those already counted (R215), its end and the writes that land there. -/
structure SillOp where
  op : Nat
  ctx : Nat
  n : Nat
  first : Nat
  context : List Byte
  xdesc : List Byte
  tick : Nat
  order : Nat
  started : Bool := false
  due : Nat := 0
  effects : List Eff := []
  cycles : Nat := 0
  counted : Nat := 0
  unseen : List (Nat × List Byte) := []
  deriving DecidableEq, Repr

/-- An exchange packet that waits for its acknowledgement, with its pool and buffer (R235). -/
structure Sent where
  dest : Nat
  tok : Tok
  pool : Option (Nat × Nat)
  deriving DecidableEq, Repr

/-- A pool (R229, R232): die-window offset, buffer size, buffers, free buffers and head of the free list; for R236 the
least free count of the tick, the cycle up to which its conditions are counted, and since when a request waits. -/
structure Pool where
  base : Nat := 0
  size : Nat := 256
  count : Nat := 0
  free : Nat := 0
  head : Nat := 0xFFFFFFFFFFFFFFFF
  least : Nat := 0
  since : Nat := 0
  waitFrom : Option Nat := none
  deriving DecidableEq, Repr

/-- The Sillage of a die: context memory, the two pipelines, the rows still to send, the packets that wait for their
acknowledgement, the count packets still to send with their rows, the pools, rows sent in the last `XDISPATCH`, the cycle
in which its last operation ended, and for each descriptor the tick after the last one that `XLIST` has closed, with the
cycle in which it did; the
command-list rows that wait for a buffer at the receive port (R258). -/
structure Sillage where
  contexts : List Host.Cell := []
  choice : List SillOp := []
  exch : List SillOp := []
  rows : List (Nat × Tok) := []
  counts : List (Nat × Tok) := []
  sent : List Sent := []
  pools : Tab Pool := []
  order : Nat := 0
  lastEnd : Nat := 0
  listed : Tab (Nat × Nat) := []
  arriving : List Tok := []
  deriving DecidableEq, Repr

/-! ### Memory/copy queues (R296 to R301) -/

/-- An operation of a copy queue: opcode, its descriptor as read at issue, and, once started, its end and its writes. -/
structure CopyOp where
  op : Nat
  desc : List Byte
  started : Bool := false
  due : Nat := 0
  effects : List Eff := []
  since : Nat := 0
  deriving DecidableEq, Repr

/-! ### Fabric packets that a source keeps (R388, R389, R410) -/

/-- What a kept packet belongs to. -/
inductive Origin where
  /-- A packet of an operation on a fabric queue. -/
  | put (d q : Nat)
  /-- A piece of `FGET`: where its reply is written. -/
  | get (d q : Nat) (dst hint : Nat)
  /-- A request of `FATOMIC`: where its result entry is written. -/
  | atomic (d q : Nat) (result : Nat)
  /-- A scalar-core load: register, byte offset in the reply, size. -/
  | coreLoad (n core rd off size : Nat)
  | coreStore (n core : Nat)
  /-- A token packet of the exchange. -/
  | token (d : Nat)
  /-- A collective chunk: descriptor and tree of the sending node, and the answer that waits for its acknowledgement. -/
  | coll (d cdesc tree : Nat) (owed : Option Nat)
  /-- A Blaze and the port it should leave by (R445). -/
  | blaze (d port : Nat)
  /-- Seedbank traffic to a home: 0 invalidate, 1 header or data, 2 tag, 3 pull request, 4 pull data, 5 pull tag. -/
  | snap (home what : Nat)
  deriving DecidableEq, Repr

/-- A packet that its source keeps (R389), with the cycles of its first and last sending, how often it was sent again, whether
it has been answered (it may still hold others, R410), since when it waits after a busy
answer (R377), the port it left by (R445), its place among the packets of the device's sources (R387), and whether it was sent more
than once (R410). -/
structure Kept where
  die : Nat
  pkt : Pkt
  origin : Origin
  first : Nat
  last : Nat
  resends : Nat := 0
  answered : Bool := false
  busy : Option Nat := none
  port : Nat := 255
  no : Nat := 0
  again : Bool := false
  deriving DecidableEq, Repr

/-- A packet that waits at its source (R387, R388, R410), since a cycle; its place among the packets of the device's sources, and what it
waits for: 1 order, 2 an overlap, 3 the window, 4 an earlier request of its list. -/
structure Queued where
  die : Nat
  pkt : Pkt
  origin : Origin
  since : Nat
  no : Nat := 0
  why : Nat := 0
  deriving DecidableEq, Repr

/-- An operation of a fabric queue: opcode, descriptor, packets not yet answered, for `CBIND` the collective and
its instance, its number on the die, and whether a packet of it had a status other than 0. -/
structure FabOp where
  op : Nat
  desc : List Byte
  started : Bool := false
  left : Nat := 0
  coll : Option (Nat × Nat) := none
  no : Nat := 0
  failed : Bool := false
  deriving DecidableEq, Repr

/-- A completion record (R417). -/
structure CompRec where
  ended : Nat := 0
  errors : Nat := 0
  firstStatus : Nat := 0
  firstOp : Nat := 0
  firstAddr : Nat := 0
  notResident : Nat := 0
  busy : Nat := 0
  deriving DecidableEq, Repr

/-- An open `CFENCE` of a die (R444): its queues, the operations before it, the epoch recorded, the Blazes not yet
acknowledged (destinations), and since when it is open. -/
structure OpenFence where
  mask : Nat
  limit : Nat
  epoch : Nat
  blazes : List Nat := []
  since : Nat
  deriving DecidableEq, Repr

/-- A die router's records: delivery record (R390), replay cache (R414), epoch floors (R446), owner-table lines (R408),
`CFENCE` count, the number of the next fabric operation, the open fence, and the cycles at which the requests in the die's queue leave
it (R377). Times are CORE cycles. -/
structure Router where
  delivered : List (Nat × Nat × Nat) := []
  replay : List (Nat × Nat × Nat × Nat) := []
  floors : List (Nat × Nat × Nat) := []
  ownerLines : List Nat := []
  fences : Nat := 0
  opNo : Nat := 0
  openFence : Option OpenFence := none
  requests : List Nat := []
  deriving DecidableEq, Repr

/-- A port and its link (R357 to R366): `FAB_PORT` fields; the sender's word number and, for each word, its replays with
the cycle of the first; whether the receiver discards words until the replay starts, and from which word; the number of the next word
and the retry buffer, newest word first (R361); when the line is free, in 1/100 cc, and when the packets on it have arrived (R363). -/
structure Port where
  state : BitVec 3 := 0
  fail : BitVec 5 := 0
  delay : BitVec 20 := 0
  peer : BitVec 16 := 0
  peerPort : BitVec 4 := 0
  replays : Tab (Nat × Nat) := []
  waitReplay : Option Nat := none
  retryAt : Nat := 0
  txSeq : BitVec 12 := 0
  sent : List (List Byte) := []
  lineFree : Nat := 0
  wire : List Nat := []
  deriving DecidableEq, Repr

/-- An escape table (R379): the value of `FAB_COORD` whose dimension-order routes it holds, and the entries written since. -/
structure EscTable where
  base : BitVec 32 := 0
  written : Tab Nat := []
  deriving DecidableEq, Repr

/-- A packet that waits for its escape port to come up (R383). -/
structure EscWait where
  pkt : Pkt
  port : Nat
  since : Nat
  deriving DecidableEq, Repr

/-! ### Collectives (R422 to R453) -/

/-- A tree node of this device for one instance of a collective on one tree: whether it holds a context and whether it runs
every chunk in pass-through for want of one (R438, R440); the inputs it holds, keyed as Collective.lean says, in order of
arrival; the chunks it runs in pass-through, has passed up, and has results for; the chunks it has taken (R437), those that
wait for its window with the answer each owes, and the children it has pruned. -/
structure Node where
  die : Nat
  cdesc : Nat
  tree : Nat
  inst : Nat
  context : Bool := false
  passAll : Bool := false
  held : List (Nat × List Byte) := []
  passed : List Nat := []
  sentUp : List Nat := []
  results : List Nat := []
  seen : List Nat := []
  fed : List Nat := []
  outbox : List (Nat × Pkt × Option Nat) := []
  pruned : List Nat := []
  notes : Tab Nat := []
  early : List Pkt := []
  deriving DecidableEq, Repr

/-- The part of a die in an instance of a collective: queue, contributions and `DST` by cluster, result bytes written by
cluster, flags and pruned nodes of the completion record (R433), and how far it is. -/
structure CollInst where
  die : Nat
  cdesc : Nat
  inst : Nat
  fq : Nat := 255
  running : Bool := false
  ended : Bool := false
  contrib : Tab (List Byte) := []
  dsts : Tab Nat := []
  delivered : Tab Nat := []
  flags : Nat := 0
  pruned : List (Nat × Nat × Nat × Nat) := []
  deriving DecidableEq, Repr

/-- An acknowledgement that waits until copies of its packet are acknowledged (R436). -/
structure Owed where
  pkts : List Pkt
  left : Nat
  deriving DecidableEq, Repr

/-- The collective unit of the device. -/
structure CollUnit where
  nodes : List Node := []
  insts : List CollInst := []
  counts : Tab Nat := []
  owed : Tab Owed := []
  nextOwed : Nat := 0
  deriving DecidableEq, Repr

/-! ### Seedbank and checkpoints (R497 to R526) -/

/-- A unit of a live range as the cut found it: offset of its bytes in the set, local address, contents. -/
structure CopyUnit where
  off : Nat
  addr : Nat
  bytes : List Byte
  deriving DecidableEq, Repr

/-- A generation that is being copied (R499, R511): its number, step and set header; the units in range order, and the local
addresses of those not yet read and of those read ahead of a write, oldest first; the homes in use with the stage of each (0
invalidate, 1 data, 2 tag, 3 acknowledged). The device's own coordinate stands for the local area. -/
structure Copying where
  gen : Nat
  step : Nat
  header : List Byte
  units : List CopyUnit
  unread : List Nat
  bounce : List Nat := []
  homes : Tab Nat
  buddy : Nat := 0
  deriving DecidableEq, Repr

/-- A restore that pulls a set (R517), or a checkpoint that reads one back (R522): the step asked for, homes still to ask, home asked,
header received, and the bytes that a checkpoint has received. -/
structure Pulling where
  want : Nat
  later : List Nat
  home : Nat
  header : Option (List Byte) := none
  cells : List Host.Cell := []
  deriving DecidableEq, Repr

/-- The copy engine and the Seedbank registers (R505). Hosted areas 0 and 1 belong to `HOST0` and `HOST1`, area 2 is the local
one: `areas` gives the granules of each (stack * 65536 + granule), `slots` the bytes of slot k of an area under area * 2 + k.
`pending` tells that a committed boundary waits for its cut, `cutTick` the tick whose boundary was cut last. -/
structure Seedbank where
  buddy : BitVec 64 := 0
  hosts : BitVec 64 := 0
  tag : BitVec 16 := 0
  restoreStep : BitVec 48 := 0
  replayUntil : BitVec 48 := 0
  gen : Word := 0
  step : BitVec 48 := 0
  priOk : Bool := false
  secOk : Bool := false
  isLocal : Bool := false
  lastEnd : BitVec 4 := 0
  counter : Nat := 0
  slotBytes : Nat := 0
  mode : Nat := 0
  areas : Tab (List Nat) := []
  slots : Tab (List Host.Cell) := []
  pending : Bool := false
  cutTick : Option Nat := none
  copying : Option Copying := none
  pulling : Option Pulling := none
  deriving DecidableEq, Repr

/-! ### Power, heat and clocks (R527 to R551, R585) -/

/-- The power manager and Drydown. Levels are in mW. `samples` holds, under die d, the sum of the samples since the last step and,
under 4 + d, their number; `window` the last ten 10 µs averages, `peaks` the work peaks of the last ticks; `downFrom` the level
from which the end ramp falls; `states` the parts that are in a power state, with the state and since when, `wakeAt` the wake-ups
scheduled for them and `waking` the parts that wake up, with the cycle in which they accept work (R532); `refFresh` the last cycle
in which a reference was lost, and which: `REFCLK`, `BREFCLK_d` (R11); `rails` the enables of R582, die by die in
the order of R580, `VDD_UCIE` last; `slewEnd` the cycle
at which the PLLs are back at REFCLK; the last four the input and ballast of the current tick. -/
structure Power where
  floorW : BitVec 11 := 0
  capW : BitVec 11 := 1500
  startW : BitVec 11 := 1200
  downMs : BitVec 8 := 20
  ramp : BitVec 8 := 200
  throttle : BitVec 8 := 100
  trip : BitVec 8 := 110
  inputMw : Nat := 0
  heldMw : Nat := 0
  targetMw : Nat := 0
  ballastMw : Nat := 0
  samples : Tab Nat := []
  window : List Nat := []
  peaks : List Nat := []
  tickPeak : Nat := 0
  ballastDie : BitVec 4 := 0
  mode : BitVec 3 := 0
  thermalDuty : Nat := 0
  powerDuty : Nat := 0
  tripping : Bool := false
  boardHot : Bool := false
  capLimitMs : BitVec 16 := 0
  trips : BitVec 8 := 0
  breaches : BitVec 8 := 0
  floorShortMs : BitVec 16 := 0
  excursions : BitVec 16 := 0
  energyNj : Nat := 0
  tj : List (BitVec 8) := [0, 0, 0, 0]
  hbmMax : BitVec 8 := 0
  tripped : BitVec 4 := 0
  thermTrip : Bool := false
  downFrom : Nat := 0
  steps : Nat := 0
  shortSteps : Nat := 0
  maxDuty : Nat := 0
  overSteps : Nat := 0
  sinceRelease : Nat := 16
  refLost : Bool := false
  slewEnd : Nat := 0
  refEvent : Bool := false
  brefLost : BitVec 4 := 0
  brefEvent : BitVec 4 := 0
  states : Tab (Nat × Nat) := []
  wakeAt : Tab Nat := []
  waking : Tab Nat := []
  refFresh : Nat × Bool × BitVec 4 := (0, false, 0)
  rails : BitVec 33 := 0
  transit : Bool := false
  tickInput : Nat := 0
  tickSteps : Nat := 0
  tickInputPeak : Nat := 0
  tickBallast : Nat := 0
  deriving DecidableEq, Repr

/-! ### Ranger: boot, firmware store, identity, management (R552 to R576, R600) -/

/-- A firmware slot of the SPI NOR as it reads back: header and body, or none without a valid header (DESIGN CHOICE, log 4). -/
structure FwSlot where
  image : List Byte := []
  deriving DecidableEq, Repr

/-- The boot record of one kind of firmware (R560), and the slot that runs. -/
structure BootRec where
  active : Nat := 0
  staged : Option Nat := none
  tries : Nat := 0
  running : Nat := 0
  deriving DecidableEq, Repr

/-- Fuses (R556): identity, the 64 records of R121, installed HBM in units of 4 GiB, root keys and versions (DESIGN CHOICE, log 4). -/
structure Fuses where
  serial : Word := 0
  rev : BitVec 8 := 0
  records : List (BitVec 32) := List.replicate 64 0xFFFFFFFF
  hbmDiv4 : BitVec 8 := 160
  rootHash0 : List Byte := List.replicate 64 0
  rootHash1 : List Byte := List.replicate 64 0
  revoked : BitVec 2 := 0
  minSvnMgmt : Nat := 0
  minSvnHwd : Nat := 0
  deriving DecidableEq, Repr

/-- A ROM recovery transfer (R562). -/
structure Recovery where
  total : Nat
  received : Nat
  last : Option (Nat × List Byte) := none
  data : List Byte := []
  deriving DecidableEq, Repr

/-- An SPDM session (R566, R568): transport, whether `FINISH` has completed it, the SHA-512 hash of the public key of the root
certificate that the requester's chain ends in, and the number of key updates. -/
structure Session where
  transport : Transport
  established : Bool := false
  root : List Byte := []
  key : Nat := 0
  deriving DecidableEq, Repr

/-- A chunked SPDM message in transfer (R566). -/
structure Chunked where
  handle : Nat
  next : Nat
  data : List Byte
  deriving DecidableEq, Repr

/-- Ranger's firmware store, identity, sessions, management transports, boot and time client. Of SPDM, by transport: how far the
connection is (1 version, 2 capabilities, 3 algorithms) and the algorithms chosen; `signing` tells the transport that the
security engine signs for and until when. `timeRequest` is a client request that waits for the host, `timeSent` the one that
has left, and when. `bootNow` is the boot stage in progress, `stage3End` the cycle in which stage 3 ended (DESIGN CHOICE, log 4). -/
structure Security where
  mgmtA : FwSlot := {}
  mgmtB : FwSlot := {}
  hwdA : FwSlot := {}
  hwdB : FwSlot := {}
  mgmtBoot : BootRec := {}
  hwdBoot : BootRec := {}
  fuses : Fuses := {}
  ownerRoot : Option (List Byte) := none
  recovering : Bool := false
  recovery : Option Recovery := none
  sessions : Tab Session := []
  spdm : Tab Nat := []
  algorithms : Tab Nat := []
  signing : Option (Transport × Nat) := none
  handles : Nat := 0
  largeOut : Option Chunked := none
  largeIn : Option Chunked := none
  eid : BitVec 8 := 0
  i3cAddr : BitVec 7 := 0
  timeRequest : Option (List Byte) := none
  timeSent : Option (Nat × List Byte) := none
  timePath : BitVec 2 := 0
  timeOffset : BitVec 29 := 0
  syncedAt : Option Nat := none
  lastPoll : Option Nat := none
  bootNow : Nat := 0
  stage3End : Nat := 0
  bootFail : BitVec 4 := 0
  bootFailStage : BitVec 4 := 0
  warm : Bool := false
  boot10ms : BitVec 16 := 0
  telemetry : Tab (List Byte) := []
  telemLast : BitVec 48 := 0
  telemCount : Nat := 0
  telemLen : Nat := 0
  deriving DecidableEq, Repr

/-! ### IEEE 1149.1 (R588) -/

/-- Instructions of the test access port. -/
inductive JtagInstr where
  | bypass | idcode | sample | extest | clamp | highz
  deriving DecidableEq, Repr

/-- The test access port: instruction, boundary register and whether outputs follow it or float (DESIGN CHOICE, log 101). -/
structure Jtag where
  instr : JtagInstr := .idcode
  boundary : List Bool := []
  driven : Bool := false
  floating : Bool := false
  captures : Nat := 0
  deriving DecidableEq, Repr

/-- The fabric of the device: the `FABRIC` registers (R378), tables, ports, kept and waiting packets, and the
records of the four dies; whether `FAB_COORD` was written; heads routed and packets posted so far; whether a commit is pending, the
cycle of the last one and the tables before it (R381, R399); and, for a cycle, owner-table entries as they were before it (R408). -/
structure FabricUnit where
  coord : BitVec 16 := 0
  extent : BitVec 16 := 0
  jobTag : BitVec 16 := 0
  teardown : BitVec 32 := 0
  epoch : BitVec 8 := 0
  admin : BitVec 8 := 0
  up : BitVec 8 := 0
  dateline : BitVec 8 := 0
  parent : BitVec 4 := 0
  children : BitVec 8 := 0
  mgr : List (BitVec 16) := [0, 0, 0, 0]
  ports : Tab Port := []
  escShadow : EscTable := {}
  escActive : EscTable := {}
  substShadow : List Host.Cell := []
  substActive : List Host.Cell := []
  escWaits : List EscWait := []
  seqNos : Tab Nat := []
  kept : List Kept := []
  queued : List Queued := []
  queues : Tab (List FabOp) := []
  comps : Tab CompRec := []
  routers : Tab Router := []
  coordSet : Bool := false
  heads : Nat := 0
  posted : Nat := 0
  pending : Bool := false
  commitAt : Option Nat := none
  escOld : EscTable := {}
  substOld : List Host.Cell := []
  ownerOld : Nat × List (Nat × Nat) := (0, [])
  deriving DecidableEq, Repr

/-- A write that has landed (R142, R300): the agents that it ranks among (1 vector units, 2 copy queues), its rank there,
local address and bytes. -/
structure LandedWrite where
  agents : Nat
  rank : Nat
  addr : Nat
  bytes : List Byte
  deriving DecidableEq, Repr

/-- The ranked writes that have landed in cycle `cc`, newest first. -/
structure Landed where
  cc : Nat := 0
  writes : List LandedWrite := []
  deriving DecidableEq, Repr

/-- The whole device and the commands that wait; `free`, `tx` and `pending` are the model's own (DESIGN CHOICE, log 32). -/
structure State where
  clk : Clock := {}
  sram : List Host.Cell := []
  hbm : List Host.Cell := []
  clusters : Tab Cluster := []
  seqs : Tab Seq := []
  tick : TickUnit := {}
  job : Job := {}
  host : HostUnit := {}
  fence : FenceUnit := {}
  hbmStacks : Tab Stack := []
  parts : Tab (List PartLine) := []
  und : Understory := {}
  sill : Tab Sillage := []
  copies : Tab (List CopyOp) := []
  landed : Landed := {}
  fab : FabricUnit := {}
  coll : CollUnit := {}
  seed : Seedbank := {}
  power : Power := {}
  ranger : RangerUnit := {}
  sec : Security := {}
  jtag : Jtag := {}
  ctr : Tab Nat := []
  free : Nat := 0
  tx : List Out := []
  pending : List Instr := []
  deriving DecidableEq, Repr

/-- The device right after reset: every field at its reset value, memory with nothing listed (R596) (DESIGN CHOICE, log 3; DESIGN CHOICE, log 4; DESIGN CHOICE, log 6). -/
def State.reset : State := {}

end Sys2Proof.Machine
end

