-- ==== Sys2Proof/Machine/Ops.lean ====
section
/-! DEFINITION. The named operations over the tables, memories, registers and records of the state: sparse tables,
memory in its one canonical form, counters (R108), interrupts (R461), trace entries (R575), fault records (R488) and
report messages (R600). -/

namespace Sys2Proof.Machine

abbrev Result := Host.Outcome State Fault Refusal

/-! ### Sparse tables -/

/-- The entry of a key, if the table lists it. -/
def Tab.find {V : Type} (k : Nat) : Tab V → Option V
  | [] => none
  | (j, v) :: m => if j = k then some v else Tab.find k m

/-- The entry of a key, or the default. -/
def Tab.get {V : Type} (d : V) (k : Nat) (m : Tab V) : V := (Tab.find k m).getD d

/-- The table with an entry set; keys stay strictly rising. -/
def Tab.put {V : Type} (k : Nat) (v : V) : Tab V → Tab V
  | [] => [(k, v)]
  | (j, w) :: m => if k < j then (k, v) :: (j, w) :: m else if k = j then (k, v) :: m else (j, w) :: Tab.put k v m

/-- The table without a key. -/
def Tab.drop {V : Type} (k : Nat) (m : Tab V) : Tab V := m.filter (fun p => p.1 != k)

/-! ### Memory cells: strictly rising addresses, no entry equal to what an unlisted address reads as -/

/-- Value at an address; an unlisted address reads as the default. -/
def cellAt {V : Type} (d : V) (k : Nat) : List (Nat × V) → V
  | [] => d
  | (j, v) :: m => if j = k then v else if k < j then d else cellAt d k m

/-- The cells of a block of values from an address on, those equal to the default left out. -/
def blockCells {V : Type} [DecidableEq V] (d : V) : Nat → List V → List (Nat × V)
  | _, [] => []
  | a, v :: vs => if v = d then blockCells d (a + 1) vs else (a, v) :: blockCells d (a + 1) vs

/-- The cells below an address. -/
def cellsBelow {V : Type} (a : Nat) : List (Nat × V) → List (Nat × V)
  | [] => []
  | (j, v) :: m => if j < a then (j, v) :: cellsBelow a m else []

/-- The cells from an address on. -/
def cellsFrom {V : Type} (a : Nat) : List (Nat × V) → List (Nat × V)
  | [] => []
  | (j, v) :: m => if j < a then cellsFrom a m else (j, v) :: m

/-- Memory with the values of a block written from an address on. -/
def putBlock {V : Type} [DecidableEq V] (d : V) (a : Nat) (vs : List V) (m : List (Nat × V)) : List (Nat × V) :=
  cellsBelow a m ++ (blockCells d a vs ++ cellsFrom (a + vs.length) m)

/-- The `n` values from an address on, from cells that start at or above it. -/
def takeBlock {V : Type} (d : V) : Nat → Nat → List (Nat × V) → List V
  | 0, _, _ => []
  | n + 1, _, [] => d :: takeBlock d n 0 []
  | n + 1, a, (j, v) :: m => if j = a then v :: takeBlock d n (a + 1) m else d :: takeBlock d n (a + 1) ((j, v) :: m)

/-- The `n` values from an address on. -/
def getBlock {V : Type} (d : V) (a n : Nat) (m : List (Nat × V)) : List V := takeBlock d n a (cellsFrom a m)

/-- Memory with `n` values from an address on set to the default. -/
def eraseBlock {V : Type} (a n : Nat) (m : List (Nat × V)) : List (Nat × V) := cellsBelow a m ++ cellsFrom (a + n) m

/-- The canonical form of a memory. -/
def Cells.wf {V : Type} [DecidableEq V] (d : V) : List (Nat × V) → Bool
  | [] => true
  | [(_, v)] => decide (v ≠ d)
  | (j, v) :: (k, w) :: m => decide (v ≠ d) && decide (j < k) && Cells.wf d ((k, w) :: m)

/-- What a byte of memory that nothing has written since the device reset reads as (R596) (DESIGN CHOICE, log 31). -/
def zeroByte : Byte := 0

/-- R596: the canonical form of byte memory. -/
def Memory.wf (m : List Host.Cell) : Bool := Cells.wf zeroByte m

/-! ### Parts of the state -/

def State.cluster (s : State) (n : Nat) : Cluster := Tab.get {} n s.clusters
def State.setCluster (s : State) (n : Nat) (c : Cluster) : State := { s with clusters := Tab.put n c s.clusters }
def State.seq (s : State) (d : Nat) : Seq := Tab.get {} d s.seqs
def State.setSeq (s : State) (d : Nat) (q : Seq) : State := { s with seqs := Tab.put d q s.seqs }
def State.setJob (s : State) (j : Job) : State := { s with job := j }
def State.setTick (s : State) (t : TickUnit) : State := { s with tick := t }
def State.setHost (s : State) (h : HostUnit) : State := { s with host := h }
def State.setFence (s : State) (f : FenceUnit) : State := { s with fence := f }
def State.setFab (s : State) (f : FabricUnit) : State := { s with fab := f }
def State.setRanger (s : State) (r : RangerUnit) : State := { s with ranger := r }
def State.setSram (s : State) (m : List Host.Cell) : State := { s with sram := m }
def State.setHbm (s : State) (m : List Host.Cell) : State := { s with hbm := m }
def State.send (s : State) (o : Out) : State := { s with tx := s.tx ++ [o] }

/-- The cycle counter moved on to a cycle that has been reached (DESIGN CHOICE, log 1; DESIGN CHOICE, log 9). -/
def State.reach (s : State) (cc : Nat) : State := { s with clk := { s.clk with cc := max s.clk.cc cc } }

/-- R548: how far the TIME counter has been slewed since the slew began, at a rate of at most 200 ppm (DESIGN CHOICE, log 27). -/
def Clock.slewed (c : Clock) : Int :=
  if c.slewNs = 0 then 0
  else
    let limit : Int := (((c.cc - c.slewFrom) * 10 / 12 * (Config.slewPpm % 201) / 1000000 : Nat) : Int)
    if c.slewNs > 0 then min c.slewNs limit else max c.slewNs (-limit)

/-- R548: the TIME counter in ns; a CORE cycle takes 10/12 ns (R40). -/
def State.time (s : State) : Nat := (((s.clk.cc * 10 / 12 : Nat) : Int) + s.clk.offset + s.clk.slewed).toNat

/-- The current cycle. -/
def State.cc (s : State) : Nat := s.clk.cc

/-- Takes one free value's place in the sequence (the model's own counter) (DESIGN CHOICE, log 10). -/
def State.spend (s : State) : State := { s with free := s.free + 1 }

/-- Die, region and package region of a package cluster (R19). -/
def dieOf (n : Nat) : Nat := n / 16
def regionOf (n : Nat) : Nat := n / 4

/-! ### Counters (R108, R574) -/

/-- Key of a counter: section kind, index and field of R574. -/
def ctrKey (kind index field : Nat) : Nat := kind * 2 ^ 32 + index * 2 ^ 16 + field

/-- Adds to a counter; it saturates at `0xFFFF_FFFF` (R108) (DEDUCED, log 98). -/
def State.count (s : State) (key k : Nat) : State :=
  if k = 0 then s else { s with ctr := Tab.put key (satAdd 32 (Tab.get 0 key s.ctr) k) s.ctr }

/-- Sets a value of the record. -/
def State.setCount (s : State) (key v : Nat) : State := { s with ctr := Tab.put key v s.ctr }

def State.counter (s : State) (key : Nat) : Nat := Tab.get 0 key s.ctr

def cSat (n : Nat) : Nat := ctrKey 1 n 0
def cInvalid (n : Nat) : Nat := ctrKey 1 n 1
/-- R120: bank conflicts, which are timing, do not raise it (DESIGN CHOICE, log 124). -/
def cFreeze (n : Nat) : Nat := ctrKey 1 n 2
def cAccCe (n : Nat) : Nat := ctrKey 1 n 3
def cSparseTiles (n : Nat) : Nat := ctrKey 1 n 4
def cDenseTiles (n : Nat) : Nat := ctrKey 1 n 5
def cSavedCc (n : Nat) : Nat := ctrKey 1 n 6
def cNearCe (n : Nat) : Nat := ctrKey 1 n 7
def cGatherOor (n : Nat) : Nat := ctrKey 1 n 8
def cVanish (layer : Nat) : Nat := ctrKey 2 layer 0
def cRegionWake (r : Nat) : Nat := ctrKey 3 r 0
def cTierCe (r : Nat) : Nat := ctrKey 3 r 1
/-- Stall cycles of a die: level 0 cluster, 1 region, 2 die, 3 package. -/
def cStallLevel (d level : Nat) : Nat := ctrKey 4 d level
/-- Stall cycles of a die by cause (R83). -/
def cStallCause (d cause : Nat) : Nat := ctrKey 4 d (4 + cause)

/-! ### Interrupts, trace and records -/

/-- R461: whether a vector may leave: unmasked in `IRQ_MASK`, in its MSI-X table entry and by the function, MSI-X enabled (PRESUMED, log 5; DEDUCED, log 64). -/
def State.maySend (s : State) (v : Nat) : Bool :=
  let entryMask := field (getBlock zeroByte (16 * v + 12) 4 s.host.msixTable) 0 4 % 2 == 1
  !s.host.irqMask.getLsbD v && s.host.pcie.msixEnable && !s.host.pcie.functionMask && !entryMask

/-- R461: a vector is sent only while unmasked everywhere; otherwise it is held pending. -/
def State.sendVector (s : State) (v : Nat) : State :=
  if s.maySend v then s.send (.msix v)
  else s.setHost { s.host with pba := s.host.pba ||| BitVec.twoPow 64 v }

/-- R11: what the device has done to clearable fields of the host registers in this cycle. -/
def State.hostFresh (s : State) : HostFresh := if s.host.fresh.cc = s.cc then s.host.fresh else { cc := s.cc }

/-- R461: a cause occurs: its status bit is set and its vector is raised. -/
def State.raise (s : State) (v : Nat) : State :=
  let f := s.hostFresh
  (s.setHost { s.host with
    irqStatus := s.host.irqStatus ||| BitVec.twoPow 38 v, fresh := { f with irq := f.irq ||| BitVec.twoPow 38 v } }).sendVector v

/-- Entries that the trace ring holds (R575). -/
def traceSize : Nat := 491520

/-- R575: writes a trace entry, newest first. -/
def State.addTrace (s : State) (kind source : Nat) (detail : List Byte) : State :=
  s.setRanger { s.ranger with
    trace := (⟨s.time, kind, source, detail⟩ :: s.ranger.trace).take traceSize
    traceCount := s.ranger.traceCount + 1 }

/-- Number of a job state (R460). -/
def JobState.code : JobState → Nat
  | .none => 0
  | .loading => 1
  | .loaded => 2
  | .waitArm => 3
  | .running => 4
  | .held => 5
  | .stopped => 6
  | .ended => 7
  | .restoring => 8

/-- R460: a change of job state, which raises vector 33. -/
def State.setJobState (s : State) (j : JobState) : State :=
  if s.job.state = j then s
  else ((s.setJob { s.job with state := j }).addTrace 4 0 [BitVec.ofNat 8 j.code]).raise 33

/-- R488: the 64 bytes of a fault record. -/
def FaultRec.bytes (r : FaultRec) : List Byte :=
  byteField (leBytes 4 r.fseq ++ leBytes 1 r.kind ++ leBytes 1 r.func ++ leBytes 2 r.unit ++ leBytes 8 r.tick ++
    leBytes 8 r.time ++ leBytes 1 r.action ++ leBytes 1 r.die ++ leBytes 2 r.check ++ leBytes 4 r.owner ++
    r.detail) 0 64

/-- R488, R490: writes a fault record into the ring of the newest 1,024, newest first. -/
def State.record (s : State) (r : FaultRec) : State :=
  let r := { r with fseq := s.fence.fseq, tick := s.tick.count.toNat, time := s.time }
  (s.setFence { s.fence with fseq := s.fence.fseq + 1, ring := (r :: s.fence.ring).take 1024 }).addTrace 5 0
    (leBytes 4 r.fseq)

/-- R600: the 88 bytes of a report message. -/
def State.reportBody (s : State) (kind : Nat) (body : List Byte) : List Byte :=
  leBytes 1 kind ++ leBytes 3 0 ++ leBytes 4 s.ranger.rnum ++ leBytes 2 s.job.tag.toNat ++
    leBytes 2 s.fab.coord.toNat ++ leBytes 4 0 ++ leBytes 6 s.tick.count.toNat ++ leBytes 2 0 ++ byteField body 0 64

/-- R600: sends a report to every coordinate of `FAB_MGR`. -/
def State.sendReport (s : State) (body : List Byte) : State :=
  (s.fab.mgr.filter (· != 0)).foldl (fun s c => s.send (.message 0x7E c.toNat body)) s

/-- R600: makes a report: it is sent and kept until acknowledged; of a 65th the oldest is dropped (DEDUCED, log 104). -/
def State.report (s : State) (kind : Nat) (body : List Byte) : State :=
  let msg := s.reportBody kind body
  let s := if s.ranger.reports.length ≥ 64 then
      s.addTrace 7 0 (leBytes 4 ((s.ranger.reports.head?.map (·.rnum)).getD 0)) else s
  let kept := if s.ranger.reports.length ≥ 64 then s.ranger.reports.drop 1 else s.ranger.reports
  (s.setRanger { s.ranger with
    rnum := s.ranger.rnum + 1
    reports := kept ++ [⟨s.ranger.rnum, msg, s.clk.cc, s.clk.cc⟩] }).sendReport msg

/-! ### Fences (R475, R38) -/

/-- Function bit of the FENCE bitmap. -/
def State.fenced (s : State) (f : Nat) : Bool := s.fence.fenced.getLsbD f

/-- R38: a cluster is fenced while its own bit or its region's bit is set. -/
def State.clusterFenced (s : State) (n : Nat) : Bool := s.fenced n || s.fenced (0x40 + n / 4)

/-- Bridge function between two adjacent dies (R14). -/
def bridgeBetween (a b : Nat) : Option Nat :=
  match min a b, max a b with
  | 0, 1 => some 0x6A
  | 1, 3 => some 0x6B
  | 2, 3 => some 0x6C
  | 0, 2 => some 0x6D
  | _, _ => none

/-- R15: the dies that traffic passes through from one die to another, both ends included (DEDUCED, log 89). -/
def dieRoute (a b : Nat) : List Nat :=
  if a = b then [a]
  else match a, b with
    | 0, 3 => [0, 1, 3]
    | 3, 0 => [3, 2, 0]
    | 1, 2 => [1, 3, 2]
    | 2, 1 => [2, 0, 1]
    | _, _ => [a, b]

/-- R16: the other way round the ring from one die to another (DEDUCED, log 89). -/
def otherWay (a b : Nat) : List Nat :=
  match a, b with
  | 0, 1 => [0, 2, 3, 1]
  | 1, 0 => [1, 3, 2, 0]
  | 1, 3 => [1, 0, 2, 3]
  | 3, 1 => [3, 2, 0, 1]
  | 2, 3 => [2, 0, 1, 3]
  | 3, 2 => [3, 1, 0, 2]
  | 0, 2 => [0, 1, 3, 2]
  | 2, 0 => [2, 3, 1, 0]
  | _, _ => (dieRoute b a).reverse

/-- The bridges along a list of dies. -/
def bridgesOf : List Nat → List Nat
  | a :: b :: l => (bridgeBetween a b).toList ++ bridgesOf (b :: l)
  | _ => []

/-- R16: whether transit traffic can pass from one die to another, one way round the ring or the other. -/
def State.crosses (s : State) (a b : Nat) : Bool :=
  a = b || !(bridgesOf (dieRoute a b)).any s.fenced || !(bridgesOf (otherWay a b)).any s.fenced

/-- R20: the unit locator of a unit in a cluster. -/
def unitLocator (n cls index : Nat) : Nat := n * 1024 + cls * 64 + index

end Sys2Proof.Machine
end

