-- ==== Sys2Proof/Machine/Ident.lean ====
section
/-! DEFINITION. The values of the `IDENT` registers (R459). -/

namespace Sys2Proof.Machine

/-- R459: `IDENT_PART`. -/
def State.identPart (s : State) : Nat := 0x4816 + s.host.rev.toNat * 2 ^ 16

/-- R459: `IDENT_FW`. -/
def State.identFw (s : State) : Nat :=
  s.host.romVersion.toNat + s.host.mgmtVersion.toNat * 2 ^ 16 + s.host.hwdVersion.toNat * 2 ^ 32 + b2n s.host.mgmtSlot * 2 ^ 48 +
    b2n s.host.hwdSlot * 2 ^ 49 + s.host.staged.toNat * 2 ^ 50

/-- R459, R460: `IDENT_STATE`. -/
def State.identState (s : State) : Nat :=
  s.host.bootState.toNat + s.host.bootStage.toNat * 2 ^ 4 + s.job.state.code * 2 ^ 8 + b2n s.job.cmdlist * 2 ^ 12 +
    s.job.tag.toNat * 2 ^ 16

/-- R459: `IDENT_LINK`. -/
def State.identLink (s : State) : Nat := s.host.modules.toNat + s.host.rate.toNat * 2 ^ 4

/-- R459: `IDENT_FUSE`. -/
def State.identFuse (s : State) : Nat :=
  s.host.arrays.toNat + s.host.spareRows.toNat * 2 ^ 7 + s.host.spareCols.toNat * 2 ^ 15 + s.host.hbmDiv4.toNat * 2 ^ 23

/-- Channels that are present, bit c for channel c. -/
def State.presentChannels (s : State) : Nat :=
  (List.range 16).foldl (fun m c => m + b2n (Tab.get {} c s.und.channels).present * 2 ^ c) 0

/-- R571: `FENCE` bits set. -/
def State.fenceCount (s : State) : Nat := popBits 116 s.fence.fenced.toNat

/-- R571: a `PlatformEventMessage` of a sensor to the bus owner (PRESUMED from DSP0248: command code `0x0A`) (PRESUMED, log 76). -/
def State.sensorEvent (s : State) (id value : Nat) : State := s.send (.i3c 1 (leBytes 1 0x0A ++ leBytes 2 id ++ leBytes 8 value))

/-- R571: a change of sensor 15 or 17 is told to the bus owner. -/
def State.tellSensors (s : State) : State :=
  let s := if s.identState = s.ranger.seen15 then s
    else (s.setRanger { s.ranger with seen15 := s.identState }).sensorEvent 15 s.identState
  if s.fenceCount = s.ranger.seen17 then s
  else (s.setRanger { s.ranger with seen17 := s.fenceCount }).sensorEvent 17 s.fenceCount

end Sys2Proof.Machine
end

