-- ==== Sys2Proof/Machine/Memory.lean ====
section
/-! DEFINITION. The address map (R23 to R32), reads and writes by local address, the pages of the Canopy range
(R318 to R330) and the memory-side cache partition (R306 to R311). -/

namespace Sys2Proof.Machine

/-- First address of the SRAM window of a die, and its size (R25). -/
def windowBase (d : Nat) : Nat := 0xF00000000000 + d * 0x1000000000
/-- Local address of near SRAM of package cluster `n` (R26). -/
def nearBase (n : Nat) : Nat := windowBase (n / 16) + (n % 16) * 0x2000000
/-- Bytes of near SRAM of a cluster. -/
def nearSize : Nat := 0x2000000
/-- Local address of the stacked-SRAM window of a die (R26) and of a region's slice (R27). -/
def stackedBase (d : Nat) : Nat := windowBase d + 0x100000000
def sliceSize : Nat := 0x70000000
def sliceBase (r : Nat) : Nat := stackedBase (r / 4) + (r % 4) * sliceSize
/-- Bytes between the keys of two HBM stacks in `State.hbm`. -/
def stackSpan : Nat := 2 ^ 37
/-- Granules of an HBM stack (R294). -/
def stackGranules : Nat := 40960
/-- Bytes of a granule (R294) and of a Canopy page (R318). -/
def granule : Nat := 0x200000
def pageSize : Nat := 16384

/-- Where a local address leads. -/
inductive Place where
  | sram (a : Nat)
  | hbm (h : Nat)
  | away (page : Nat)
  | regs
  | absent
  | fenced
  deriving DecidableEq, Repr

/-- R24: the local address of a global one that names this device: the device's own coordinate, or none (DEDUCED, log 87). -/
def State.localOf (s : State) (a : Nat) : Option Nat :=
  if a / 2 ^ 48 = 0 ∨ a / 2 ^ 48 = s.fab.coord.toNat then some (a % 2 ^ 48) else none

/-- The segment of a Canopy address (R318). -/
def State.segmentAt (s : State) (a : Nat) : Option Segment :=
  s.job.segments.find? (fun g => g.base ≤ a && a < g.base + g.size)

def State.page (s : State) (p : Nat) : Page := Tab.get {} p s.und.pages
def State.setPage (s : State) (p : Nat) (v : Page) : State := { s with und := { s.und with pages := Tab.put p v s.und.pages } }

/-- R325: a page that serves accesses. -/
def PageState.resident : PageState → Bool
  | .clean | .dirty | .writeback => true
  | _ => false

/-- R325, R355: a page that serves accesses now: it is resident, and was so before the current cycle. -/
def State.serves (s : State) (pg : Page) : Bool := pg.state.resident && pg.fresh != some s.cc

/-- Where a byte of the Canopy range lies (R318, R322, R325). -/
def State.canopyPlace (s : State) (a : Nat) : Place :=
  match s.segmentAt a with
  | none => .absent
  | some g =>
    if g.cls = 1 then
      match Tab.find (a / granule) s.job.frames with
      | none => .absent
      | some h => if s.fenced (0x54 + h / stackSpan) then .fenced else .hbm (h + a % granule)
    else
      let pg := s.page (a / pageSize)
      match s.serves pg, pg.frame with
      | true, some f => if s.fenced (0x54 + f / stackSpan) then .fenced else .hbm (f + a % pageSize)
      | _, _ => .away (a / pageSize)

/-- Where a byte of a die's SRAM window lies (R26 to R28, R32). -/
def State.windowPlace (s : State) (d w : Nat) : Place :=
  if w < 0x20000000 then
    if s.clusterFenced (16 * d + w / nearSize) then .fenced else .sram (windowBase d + w)
  else if 0x100000000 ≤ w && w < 0x2C0000000 - s.job.cache * 0x8000000 then
    if s.fenced (0x40 + 4 * d + (w - 0x100000000) / sliceSize) then .fenced else .sram (windowBase d + w)
  else .absent

/-- R25: where a local address leads. -/
def State.place (s : State) (a : Nat) : Place :=
  if a < 0x400000000000 then s.canopyPlace a
  else if 0xF00000000000 ≤ a && a < 0xF04000000000 then
    s.windowPlace ((a - 0xF00000000000) / 0x1000000000) (a % 0x1000000000)
  else if 0xFF0000000000 ≤ a && a < 0xFF0001000000 then .regs
  else .absent

/-- Die on which a place lies (R13, R26). -/
def placeDie : Place → Option Nat
  | .sram a => some ((a - 0xF00000000000) / 0x1000000000)
  | .hbm h => some (h / stackSpan / 2)
  | _ => none

/-- R16: a place that job traffic from a die reaches only over a fenced bridge does not answer (DEDUCED, log 89). -/
def State.placeFrom (s : State) (src a : Nat) : Place :=
  let p := s.place a
  match placeDie p with
  | none => p
  | some d => if (bridgesOf (dieRoute src d)).any s.fenced then .fenced else p

/-- A range cut at the page boundaries; every boundary of the map is one. -/
def piecesAux : Nat → Nat → Nat → List (Nat × Nat)
  | 0, _, _ => []
  | k + 1, a, len => if len = 0 then [] else
    let n := min len (pageSize - a % pageSize)
    (a, n) :: piecesAux k (a + n) (len - n)

def pieces (a len : Nat) : List (Nat × Nat) := piecesAux (len / pageSize + 2) a len

/-- Status of an access to one place (R372): 0 allowed, 1 address error, 2 fenced target. -/
def placeStatus : Place → Nat
  | .sram _ => 0
  | .hbm _ => 0
  | .away _ => 0
  | .regs => 1
  | .absent => 1
  | .fenced => 2

/-- First address of a range that the program of die `src` may not reach, with its status (R30 to R32). -/
def State.rangeFault (s : State) (src a len : Nat) : Option (Nat × Nat) :=
  (pieces a len).findSome? (fun p =>
    let st := placeStatus (s.placeFrom src p.1)
    if st = 0 then none else some (p.1, st))

/-- R596: a range of on-chip memory is left with undefined contents: some bytes of it hold what a free value gives them (DESIGN CHOICE, log 10). -/
def State.undefine (s : State) (a n : Nat) : State :=
  let cells := (Config.undefCells a s.free).filter (fun c => a ≤ c.1 && c.1 < a + n)
  (s.setSram (cells.foldl (fun m c => putBlock zeroByte c.1 [c.2] m) (eraseBlock a n s.sram))).spend

/-- Pages of a range that are TIERED and not resident (R328). -/
def State.missingPages (s : State) (a len : Nat) : List Nat :=
  (pieces a len).filterMap (fun p => match s.place p.1 with
    | .away pg => some pg
    | _ => none)

/-- Bytes of one place. -/
def State.bytesAt (s : State) (p : Place) (n : Nat) : List Byte :=
  match p with
  | .sram a => getBlock zeroByte a n s.sram
  | .hbm h => getBlock zeroByte h n s.hbm
  | _ => List.replicate n 0

/-- Bytes of a local range; pages that are not resident read as zero (R328). -/
def State.readLocal (s : State) (a len : Nat) : List Byte :=
  (pieces a len).flatMap (fun p => s.bytesAt (s.place p.1) p.2)

/-! ### The cache partition -/

/-- Key of the set that holds a line (R306) (DESIGN CHOICE, log 12). -/
def State.partKey (s : State) (line : Nat) : Nat :=
  (line * 256 / stackSpan / 2) * 2 ^ 32 + Config.partitionHash line (256 * 128 * s.job.cache)

/-- The account whose frames hold an HBM byte (R338). -/
def State.accountOf (s : State) (h : Nat) : Option Nat :=
  let pinned := s.job.segments.find? (fun g => g.cls = 1 &&
    (s.job.frames.any (fun f => f.2 = h / granule * granule && g.base ≤ f.1 * granule && f.1 * granule < g.base + g.size)))
  match pinned with
  | some g => some g.account
  | none =>
    match s.und.pages.find? (fun p => p.2.frame = some (h / pageSize * pageSize)) with
    | none => none
    | some p => (s.segmentAt (p.1 * pageSize)).map (·.account)

/-- R339: whether an account may not take another line of the partition. -/
def State.cacheQuotaFull (s : State) (line : Nat) : Bool :=
  match s.accountOf (line * 256) with
  | none => false
  | some a =>
    let q := (Tab.get {} a s.und.quotas).cache
    q ≠ 0xFFFFFFFF &&
      ((s.parts.map (fun p => (p.2.filter (fun l => s.accountOf (l.line * 256) = some a)).length)).sum ≥ q * 4096)

/-- R308: the lines of a set with the victim taken out when there are more than 16: the least recent that is not
`KEEP`, else the least recent. The list is most recent first. -/
def evictLine (lines : List PartLine) : List PartLine × Option PartLine :=
  if lines.length ≤ 16 then (lines, none)
  else
    let body := lines.drop 1
    match body.reverse.find? (fun l => !l.keep) with
    | some v => (lines.filter (fun l => l.line ≠ v.line), some v)
    | none => (lines.dropLast, lines.getLast?)

def cCacheHit (d : Nat) : Nat := ctrKey 4 d 38
def cCacheMiss (d : Nat) : Nat := ctrKey 4 d 39
def cCacheWb (d : Nat) : Nat := ctrKey 4 d 40
def cCopyBusy (d : Nat) : Nat := ctrKey 4 d 41

/-- Sets the lines of a set. -/
def State.setLines (s : State) (key : Nat) (l : List PartLine) : State :=
  { s with parts := if l.isEmpty then Tab.drop key s.parts else Tab.put key l s.parts }

/-- Puts a line at the front of its set and evicts if the set overflows; a dirty victim is written back (R308). -/
def State.fillLine (s : State) (d key : Nat) (lines : List PartLine) (l : PartLine) : State :=
  let (ls, v) := evictLine (l :: lines)
  let s := s.setLines key ls
  match v with
  | some v => if v.dirty then s.count (cCacheWb d) 1 else s
  | none => s

/-- R307: one access to one line: hint, whether it writes, and which bytes of the line it writes. -/
def State.touchLine (s : State) (line hint : Nat) (write : Option (Nat × List Byte)) : State :=
  let d := line * 256 / stackSpan / 2
  let key := s.partKey line
  let lines := Tab.get [] key s.parts
  let others := lines.filter (fun l => l.line ≠ line)
  let old := getBlock zeroByte (line * 256) 256 s.hbm
  match lines.find? (fun l => l.line = line), write with
  | some l, none =>
    let s := s.count (cCacheHit d) 1
    match hint with
    | 0 => s.setLines key (l :: others)
    | 1 => s
    | 2 => s.setLines key ({ l with keep := true } :: others)
    | _ => (if l.dirty then s.count (cCacheWb d) 1 else s).setLines key others
  | some l, some (off, bs) =>
    let s := s.count (cCacheHit d) 1
    match hint with
    | 1 => s.setLines key (lines.map (fun m => if m.line = line && m.dirty then
        { m with stale := m.stale.take off ++ (bs ++ m.stale.drop (off + bs.length)) } else m))
    | 3 => (if l.dirty then s.count (cCacheWb d) 1 else s).setLines key others
    | _ => s.setLines key ({ l with
        dirty := true, keep := l.keep || hint == 2, stale := if l.dirty then l.stale else old } :: others)
  | none, none =>
    let s := s.count (cCacheMiss d) 1
    if hint = 1 || hint = 3 || s.cacheQuotaFull line then s
    else s.fillLine d key lines ⟨line, false, hint == 2, []⟩
  | none, some _ =>
    let s := s.count (cCacheMiss d) 1
    if hint = 1 || hint = 3 || s.cacheQuotaFull line then s
    else s.fillLine d key lines ⟨line, true, hint == 2, old⟩

/-- The lines that a range of HBM touches, with the bytes written to each when data is given. -/
def lineSpans : Nat → Nat → Nat → List (Nat × Nat × Nat)
  | 0, _, _ => []
  | k + 1, h, len => if len = 0 then [] else
    let n := min len (256 - h % 256)
    (h / 256, h % 256, n) :: lineSpans k (h + n) (len - n)

/-- R311: whether the partition in front of an HBM byte serves: the job has one, and region 3 of its die is not fenced. -/
def State.partServes (s : State) (h : Nat) : Bool := s.job.cache ≠ 0 && !s.fenced (0x43 + 4 * (h / stackSpan / 2))

/-- R307, R309: a read of HBM passes through the partition of the die that owns the stack. -/
def State.touchRead (s : State) (h len hint : Nat) : State :=
  if !s.partServes h then s
  else (lineSpans (len / 256 + 2) h len).foldl (fun s l => s.touchLine l.1 hint none) s

/-- The lines written by a write of HBM. -/
def State.touchWrite (s : State) (h hint : Nat) (bs : List Byte) : State :=
  if !s.partServes h then s
  else ((lineSpans (bs.length / 256 + 2) h bs.length).foldl
    (fun (p : State × List Byte) l => (p.1.touchLine l.1 hint (some (l.2.1, p.2.take l.2.2)), p.2.drop l.2.2)) (s, bs)).1

/-- A write of HBM through the partition. -/
def State.writeHbm (s : State) (h hint : Nat) (bs : List Byte) : State :=
  let s := s.touchWrite h hint bs
  s.setHbm (putBlock zeroByte h bs s.hbm)

/-- Writes back the dirty lines of a die that satisfy a condition; they stay valid and clean. -/
def State.writeBackLines (s : State) (d : Nat) (cond : PartLine → Bool) : State :=
  let mine := s.parts.filter (fun p => p.1 / 2 ^ 32 = d)
  let n := (mine.map (fun p => (p.2.filter (fun l => l.dirty && cond l)).length)).sum
  let clean (l : PartLine) : PartLine := if l.dirty && cond l then { l with dirty := false, stale := [] } else l
  let s := { s with parts := s.parts.map (fun (p : Nat × List PartLine) => if p.1 / 2 ^ 32 = d then (p.1, p.2.map clean) else p) }
  s.count (cCacheWb d) n

/-- Invalidates the lines of a die that satisfy a condition. -/
def State.dropLines (s : State) (d : Nat) (cond : PartLine → Bool) : State :=
  let kept := s.parts.map (fun (p : Nat × List PartLine) =>
    if p.1 / 2 ^ 32 = d then (p.1, p.2.filter (fun l => !cond l)) else p)
  { s with parts := kept.filter (fun p => !p.2.isEmpty) }

/-- R311: invalidates a die's partition without writing it back: HBM under dirty lines is stale again. -/
def State.loseLines (s : State) (d : Nat) : State :=
  let dirty := (s.parts.filter (fun p => p.1 / 2 ^ 32 = d)).flatMap (fun p => p.2.filter (·.dirty))
  let s := dirty.foldl (fun s l => s.setHbm (putBlock zeroByte (l.line * 256) l.stale s.hbm)) s
  s.dropLines d (fun _ => true)

/-! ### Reads and writes by local address -/

/-- R326, R325: an access to a resident TIERED page: its place in the order of use, and `DIRTY` after a write. -/
def State.usePage (s : State) (p : Nat) (write : Bool) : State :=
  let pg := s.page p
  let st := if write && pg.state == .clean then PageState.dirty else pg.state
  let s := s.setPage p { pg with state := st, used := s.und.order, rewritten := pg.rewritten || (write && pg.state == .writeback) }
  { s with und := { s.und with order := s.und.order + 1 } }

/-- A TIERED page at a Canopy address (DEDUCED, log 94). -/
def State.tieredAt (s : State) (a : Nat) : Bool :=
  a < 0x400000000000 && (match s.segmentAt a with
    | some g => g.cls = 2
    | none => false)

/-- What a read of a local range does to the partition and to the order of page use. -/
def State.noteRead (s : State) (a len hint : Nat) : State :=
  (pieces a len).foldl (fun s p => match s.place p.1 with
    | .hbm h =>
      let s := s.touchRead h p.2 hint
      if s.tieredAt p.1 then s.usePage (p.1 / pageSize) false else s
    | _ => s) s

/-- R309: reads of several ranges. -/
def State.noteReads (s : State) (rs : List (Nat × Nat)) (hint : Nat) : State :=
  rs.foldl (fun (s : State) r => s.noteRead r.1 r.2 hint) s

/-- R408, R420: the entries of the owner table from one index on, as they are before a write of this cycle; the first of several writes of
a cycle counts. -/
def State.keepOwners (s : State) (lo n : Nat) : State :=
  let old := if s.fab.ownerOld.1 = s.cc then s.fab.ownerOld.2 else []
  let now := (List.range n).map (fun i => (lo + i, leNat (s.readLocal (s.job.ownTable + 4 * (lo + i)) 4)))
  { s with fab := { s.fab with ownerOld := (s.cc, now.foldl (fun t e => if (Tab.find e.1 t).isSome then t else Tab.put e.1 e.2 t) old) } }

/-- R408: a write to the owner table drops the lines of its entries (64 to a line) from the caches of all routers (DEDUCED, log 102). -/
def State.dropOwnerLines (s : State) (a len : Nat) : State :=
  let t := s.job.ownTable
  if a + len ≤ t || t + 4 * (15360 + s.job.canopySize / granule) ≤ a then s
  else
    let lo := (a - t) / 256
    let hi := (a + len - 1 - t) / 256
    let s := s.keepOwners ((a - t) / 4) ((a + len - 1 - t) / 4 - (a - t) / 4 + 1)
    { s with fab := { s.fab with routers := s.fab.routers.map (fun (p : Nat × Router) =>
        (p.1, { p.2 with ownerLines := p.2.ownerLines.filter (fun l => !(lo ≤ l && l ≤ hi)) })) } }

/-- One piece of a write, which lies within one page. -/
def State.writePiece (s : State) (a hint : Nat) (bs : List Byte) : State :=
  let s := s.dropOwnerLines a bs.length
  match s.place a with
  | .sram b => s.setSram (putBlock zeroByte b bs s.sram)
  | .hbm h =>
    let s := s.writeHbm h hint bs
    if s.tieredAt a then s.usePage (a / pageSize) true else s
  | _ => s

/-- A write of a local range; what lies in absent, fenced or missing places is not written (R31, R32, R328). -/
def State.writeLocal (s : State) (a hint : Nat) (bs : List Byte) : State :=
  ((pieces a bs.length).foldl
    (fun (p : State × List Byte) q => (p.1.writePiece q.1 hint (p.2.take q.2), p.2.drop q.2)) (s, bs)).1

/-- R328: `STAGE_MISS` and `STAGE_MISS_W`. -/
def cStageMiss : Nat := ctrKey 10 0 0
def cStageMissW : Nat := ctrKey 10 0 1

/-! ### Near SRAM and the accumulator of a cluster -/

/-- Bytes of a cluster's own near SRAM. -/
def State.near (s : State) (n off len : Nat) : List Byte := getBlock zeroByte (nearBase n + off) len s.sram

/-- Entries of an accumulator slot (R131): a tile of 128 rows and 128 columns. -/
def slotEntries : Nat := 16384

/-- Index of an accumulator entry over all slots (R131). -/
def accIndex (slot e : Nat) : Nat := slot * 16384 + e

/-- The 32 bits of accumulator entries from an index on. -/
def Cluster.accBits (c : Cluster) (idx len : Nat) : List Nat := getBlock 0 idx len c.acc

/-- Whether a slot is marked INT32 (R131). -/
def Cluster.isInt (c : Cluster) (slot : Nat) : Bool := c.accInt.getLsbD slot

/-- Writes accumulator entries. -/
def Cluster.writeAcc (c : Cluster) (idx : Nat) (vals : List Nat) : Cluster := { c with acc := putBlock 0 idx vals c.acc }

/-- Sets the type mark of a slot. -/
def Cluster.mark (c : Cluster) (slot : Nat) (int : Bool) : Cluster :=
  { c with accInt := if int then c.accInt ||| BitVec.twoPow 32 slot else c.accInt &&& ~~~ BitVec.twoPow 32 slot }

/-- `ACC_ZERO` on the slots of a mask: +0.0, marked FP32 (R123, R131). -/
def Cluster.zeroSlots (c : Cluster) (mask : Nat) : Cluster :=
  (maskBits 32 mask).foldl (fun c s => { c.mark s false with acc := eraseBlock (accIndex s 0) 16384 c.acc }) c

end Sys2Proof.Machine
end

