-- ==== Sys2Proof/Machine/Operands.lean ====
section
/-! DEFINITION. The operand forms of cluster operations: near SRAM and accumulator operands (R135, R599), MX planes
(R90, R101, R151), format conversion on reading and writing (R107, R131), and what an operation that issues does
(R50, R116, R598). -/

namespace Sys2Proof.Machine

/-- What becomes of a cluster operation when it is read for issue. -/
inductive Plan where
  /-- A descriptor, mask, slot or format out of its range: image fault (R116), or kernel fault in a Clearing (R148). -/
  | bad
  /-- A failed check of a metadata record (R156): check code and address of the record. -/
  | badMeta (check addr : Nat)
  /-- An access of the program that memory refuses (R31, R32): address and status. -/
  | refuse (addr status : Nat)
  /-- The operation: units and slots claimed (R598), duration, effects at issue and at the end. -/
  | ok (units slots : Nat) (dur : Nat) (now : List Eff) (done : List Eff) (accOnly : Bool)
  deriving DecidableEq, Repr

/-- Values read, slots touched, and the events of conversions on the way (R108). -/
structure Operand where
  vals : List Val := []
  slots : Nat := 0
  sat : Nat := 0
  inv : Nat := 0
  deriving DecidableEq, Repr

/-- Value of an accumulator entry in the type an operation reads (R131): INT32 or FP32. -/
def accVal (isInt wantInt : Bool) (bits : Nat) : Val × Bool × Bool :=
  match isInt, wantInt with
  | false, false => (fp32.decode bits, false, false)
  | true, true => (Fmt.i32.decode bits, false, false)
  | true, false => (fp32.round (Fmt.i32.decode bits), false, false)
  | false, true =>
    let c := Fmt.i32.encode .rne (fp32.decode bits)
    (Fmt.i32.decode c.code, c.sat, c.invalid)

/-- Encodes an accumulator value in its type. -/
def accEncode (int : Bool) (v : Val) : Nat :=
  if int then (Fmt.i32.encode .rne v).code else fp32.encode .rne v

/-- The entries of a slot as bits of the other type, for an operation that changes its mark (R131) (DEDUCED, log 37). -/
def retype (fromInt toInt : Bool) (bits : Nat) : Nat :=
  if fromInt = toInt then bits
  else if toInt then (Fmt.i32.encode .rne (fp32.decode bits)).code
  else fp32.encode .rne (Fmt.i32.decode bits)

/-- R131: an operation that writes part of a slot marks the whole slot; the other entries are converted (DEDUCED, log 37). -/
def retypeSlot (c : Cluster) (n slot : Nat) (toInt : Bool) : List Eff :=
  if c.isInt slot = toInt then []
  else [.acc n (accIndex slot 0) ((c.accBits (accIndex slot 0) 16384).map (retype (c.isInt slot) toInt)),
    .accMark n slot toInt]

/-- Mask of the slots that `len` entries from index `idx` touch. -/
def slotsOf (idx len : Nat) : Nat :=
  let lo := idx / 16384
  let hi := (idx + len - 1) / 16384
  (2 ^ (hi - lo + 1) - 1) * 2 ^ lo

/-- Values of accumulator entries from index `idx` on, read as FP32 or INT32. -/
def readAcc (c : Cluster) (wantInt : Bool) (idx len : Nat) : Operand :=
  let vs := (c.accBits idx len).zipIdx.map (fun p => accVal (c.isInt ((idx + p.2) / 16384)) wantInt p.1)
  { vals := vs.map (·.1), slots := slotsOf idx len
    sat := (vs.filter (·.2.1)).length, inv := (vs.filter (·.2.2)).length }

/-- Blocks of an MX operand of `count` elements (R599): blocks in a row, and in all. -/
def mxBlocks (count rowlen : Nat) : Nat × Nat :=
  let rl := if rowlen = 0 then count else rowlen
  (ceilDiv rl 32, count / rl * ceilDiv rl 32)

/-- Bytes of an element plane of `nb` MX blocks. -/
def mxElemBytes (f : Fmt) (nb : Nat) : Nat := nb * 32 * f.bits / 8

/-- R599: where the scale plane of an MX operand at `off` starts: at the next 32-byte boundary. -/
def scalePlane (f : Fmt) (off nb : Nat) : Nat := alignUp 32 (off + mxElemBytes f nb)

/-- R599: where the sidecar plane of an MX operand at `off` starts: at the next 32-byte boundary. -/
def sidePlane (f : Fmt) (off nb : Nat) : Nat := alignUp 32 (scalePlane f off nb + nb)

/-- First near-SRAM offset after the planes of an operand at `off` (R599). -/
def operandEnd (f : Fmt) (off count rowlen : Nat) (side : Bool) : Nat :=
  if f.isMx then
    let nb := (mxBlocks count rowlen).2
    if side then sidePlane f off nb + 3 * nb else scalePlane f off nb + nb
  else off + ceilDiv (count * f.bits) 8

/-- Piece plane `i` of an operand: every piece plane starts at the next 32-byte boundary (R124). -/
def pieceAt (base plane i : Nat) : Nat := if i = 0 then base else alignUp 32 (base + plane + (i - 1) * alignUp 32 plane)

/-- An operand address (R135). -/
inductive OpAddr where
  | near (off : Nat)
  | acc (idx : Nat)
  deriving DecidableEq, Repr

/-- R135, R599: the operand address of a field, if the operand lies within near SRAM or the accumulator. -/
def opAddr (a : Nat) (f : Fmt) (count rowlen : Nat) (side : Bool) : Option OpAddr :=
  if bitAt a 31 then
    if bitsOf a 21 10 ≠ 0 || bitsOf a 14 2 ≠ 0 then none
    else
      let idx := accIndex (bitsOf a 16 5) (bitsOf a 0 14)
      if idx + count ≤ 32 * 16384 then some (.acc idx) else none
  else if bitsOf a 25 6 ≠ 0 then none
  else if operandEnd f (bitsOf a 0 25) count rowlen side ≤ nearSize then some (.near (bitsOf a 0 25))
  else none

/-- Values of the rows of MX blocks, fill elements left out (R99, R599). -/
def mxRowValues (f : Fmt) (rl per : Nat) (elems : List Nat) (scales : List Nat) (sides : List (List Byte)) : List Val :=
  ((chunks 32 elems).zipIdx.map (fun p =>
    let vs := blockValues f p.1 (scales.getD p.2 0) (sides[p.2]?)
    vs.take (min 32 (rl - 32 * (p.2 % per))))).flatten

/-- R599: reads a source operand. -/
def State.readOperand (s : State) (n : Nat) (a : OpAddr) (f : Fmt) (count rowlen : Nat) (side : Bool) : Operand :=
  match a with
  | .acc idx => readAcc (s.cluster n) f.isInt idx count
  | .near off =>
    if f.isMx then
      let (per, nb) := mxBlocks count rowlen
      let rl := if rowlen = 0 then count else rowlen
      let elems := unpackCodes f.bits (s.near n off (mxElemBytes f nb))
      let scales := (s.near n (scalePlane f off nb) nb).map (·.toNat)
      let sides := if side then chunks 3 (s.near n (sidePlane f off nb) (3 * nb)) else []
      { vals := mxRowValues f rl per elems scales sides }
    else
      { vals := ((unpackCodes f.bits (s.near n off (ceilDiv (count * f.bits) 8))).take count).map f.decode }

/-- What a write of an operand does: its effects, slots touched and events (R108). -/
structure Written where
  effs : List Eff := []
  slots : Nat := 0
  sat : Nat := 0
  inv : Nat := 0
  deriving DecidableEq, Repr

/-- Stochastic rounding of an operation (R103, R104): seed s, or none for R102. -/
abbrev Stoch := Option Word

/-- Rounding mode of element `i`. -/
def modeAt (st : Stoch) (i : Nat) : RoundMode :=
  match st with
  | none => .rne
  | some seed => .stoch (stochValue seed i)

/-- The MX blocks of a list of values laid out in rows (R599), with the rounding mode of each element index. -/
def mxEncodeRows (f : Fmt) (topnote : Bool) (rl : Nat) (st : Stoch) (vals : List Val) : List MxBlock :=
  ((chunks rl vals).zipIdx.map (fun r =>
    (chunks 32 r.1).zipIdx.map (fun b =>
      encodeBlock f topnote b.1 ((List.range b.1.length).map (fun j => modeAt st (r.2 * rl + 32 * b.2 + j)))))).flatten

/-- R103: formats that a stochastic conversion may write. -/
def stochFmt (f : Fmt) : Bool := f.isMx || f == .b16 || f == .h16

/-- R599: writes a destination operand (DEDUCED, log 36). -/
def State.writeOperand (s : State) (n : Nat) (a : OpAddr) (f : Fmt) (rowlen : Nat) (topnote : Bool) (st : Stoch)
    (vals : List Val) : Written :=
  let count := vals.length
  let st := if stochFmt f then st else none
  match a with
  | .acc idx =>
    let cs := vals.map (f.encode .rne)
    let c := s.cluster n
    let slots := maskBits 32 (slotsOf idx count)
    { effs := slots.flatMap (fun k => retypeSlot c n k f.isInt) ++ [.acc n idx (cs.map (·.code))]
      slots := slotsOf idx count
      sat := (cs.filter (·.sat)).length, inv := (cs.filter (·.invalid)).length }
  | .near off =>
    if f.isMx then
      let nb := (mxBlocks count rowlen).2
      let blocks := mxEncodeRows f topnote (if rowlen = 0 then count else rowlen) st vals
      { effs := [.sram (nearBase n + off) (packCodes f.bits (blocks.flatMap (·.codes))),
          .sram (nearBase n + scalePlane f off nb) (blocks.map (fun b => BitVec.ofNat 8 b.scale))] ++
          (if topnote then [.sram (nearBase n + sidePlane f off nb) (blocks.flatMap (·.side))] else []) }
    else
      let cs := vals.zipIdx.map (fun p => f.encode (modeAt st p.2) p.1)
      let bs := packCodes f.bits (cs.map (·.code))
      let bs := if f.bits = 4 && count % 2 = 1 then
          bs.dropLast ++ [(bs.getLastD 0) ||| (leNat (s.near n (off + count / 2) 1) / 16 * 16 : Nat)]
        else bs
      { effs := [.sram (nearBase n + off) bs]
        sat := (cs.filter (·.sat)).length, inv := (cs.filter (·.invalid)).length }

/-- R131: writes 32-bit entries as they stand from index `idx` on, with the type of the slots they lie in. -/
def rawEntries (c : Cluster) (n idx : Nat) (int : Bool) (codes : List Nat) : List Eff :=
  (maskBits 32 (slotsOf idx codes.length)).flatMap (fun k => retypeSlot c n k int) ++ [.acc n idx codes]

/-- R151: writes a plain operand row by row, each row padded to a whole byte, as in a DENSE data block. -/
def denseRows (n off : Nat) (f : Fmt) (rl : Nat) (st : Stoch) (vals : List Val) : Written :=
  let st := if stochFmt f then st else none
  let cs := vals.zipIdx.map (fun p => f.encode (modeAt st p.2) p.1)
  { effs := [.sram (nearBase n + off) ((chunks rl (cs.map (·.code))).flatMap (packCodes f.bits))]
    sat := (cs.filter (·.sat)).length, inv := (cs.filter (·.invalid)).length }

/-- R104: POS of a cluster: its die, and the item's place while a Clearing item runs on it. -/
def State.posOf (s : State) (n : Nat) : Nat :=
  match (s.cluster n).item with
  | none => n / 16 * 2 ^ 20
  | some it => 2 ^ 31 + n / 16 * 2 ^ 20 + it.region * 2 ^ 16 + it.index

/-- R104: the seed of a stochastic conversion of a cluster. -/
def State.stochOf (s : State) (n opSeed : Nat) (on : Bool) : Stoch :=
  if on then some (stochSeed s.job.seed opSeed (s.posOf n)) else none

/-- Counter effects of saturating results and invalid operations (R108). -/
def eventEffs (n sat inv : Nat) : List Eff := [.count (cSat n) sat, .count (cInvalid n) inv]

/-- Bytes of the 32-byte descriptor of a cluster slot (R115), if it lies in near SRAM. -/
def State.descriptor (s : State) (n : Nat) (arg : BitVec 40) : Option (List Byte) :=
  let off := bitsOf arg.toNat 0 20 * 32
  if off + 32 ≤ nearSize then some (s.near n off 32) else none

/-- The cores of a cluster with one changed. -/
def setCore (c : Cluster) (core : Nat) (f : Core → Core) : Vector Core 4 :=
  c.cores.mapIdx (fun i k => if i = core then f k else k)

/-- Bits [39:28] of a cluster slot are reserved (R115). -/
def slotReserved (arg : BitVec 40) : Bool := bitsOf arg.toNat 28 12 != 0

/-- `UNITS` of a cluster slot. -/
def slotUnits (arg : BitVec 40) : Nat := bitsOf arg.toNat 20 8

/-- The claim mask of units: array, vector units, MIU, gather engine, output compressor (R146, R598). -/
def uArray : Nat := 1
def uVector (mask : Nat) : Nat := 2 * mask
def uMiu : Nat := 512
def uGather : Nat := 1024
def uCompress : Nat := 2048

end Sys2Proof.Machine
end

