-- ==== Sys2Proof/Machine/MailboxBase.lean ====
section
/-! DEFINITION. Mailboxes (R462 to R468): statuses, headers and completion. -/

namespace Sys2Proof.Machine

/-! ### Completion statuses (R468) -/

def sOk : Nat := 0
def sSeqStale : Nat := 1
def sBadCmd : Nat := 2
def sBadLen : Nat := 3
def sBadField : Nat := 4
def sBadState : Nat := 5
def sBusy : Nat := 6
def sAborted : Nat := 7
def sHostXferFail : Nat := 8
def sImageRefused : Nat := 0x10
def sContextRefused : Nat := 0x11
def sLayoutRefused : Nat := 0x12
def sPoolRefused : Nat := 0x13
def sWorkTooLong : Nat := 0x14
def sTickRefused : Nat := 0x15
def sQuotaRefused : Nat := 0x16
def sOutputRefused : Nat := 0x17
def sCmdlistRefused : Nat := 0x18
def sFramesRefused : Nat := 0x19
def sFwAuthFail : Nat := 0x20
def sUndReadOnly : Nat := 0x21
def sCkptFailed : Nat := 0x22
def sNoSource : Nat := 0x23
def sNotPermitted : Nat := 0x24

/-! ### The mailbox memory -/

/-- Byte offset of a mailbox in the `MBOX` block. -/
def mbBase (mb : Nat) : Nat := 4096 * mb

/-- Bytes of a mailbox. -/
def State.mbBytes (s : State) (mb off n : Nat) : List Byte := getBlock zeroByte (mbBase mb + off) n s.host.mailbox

/-- Writes bytes of a mailbox. -/
def State.putMb (s : State) (mb off : Nat) (bs : List Byte) : State :=
  s.setHost { s.host with mailbox := putBlock zeroByte (mbBase mb + off) bs s.host.mailbox }

/-- R467, R517: a load or restore that ends without its effect returns the job to the state before the command (DEDUCED, log 52). -/
def State.stateBack (s : State) (a : Accepted) : State :=
  if s.host.long.any (fun l => l.req.mb = a.mb) && (s.job.state == .loading || s.job.state == .restoring) then
    s.setJobState s.job.before
  else s

/-- R464: Heartwood completes a command: result, `DETAIL` and `DONE_TIME`, the `POST` bit, then the completion word, then the
vector. -/
def State.complete (s : State) (a : Accepted) (status detail : Nat) (result : List Byte) : State :=
  let s := s.stateBack a
  let s := s.putMb a.mb 0x840 result
  let s := s.putMb a.mb 24 (leBytes 8 detail ++ leBytes 8 s.time)
  let s := s.setHost { s.host with
    post := s.host.post &&& ~~~ BitVec.twoPow 32 a.mb
    accepted := s.host.accepted.filter (fun b => b.mb ≠ a.mb)
    long := s.host.long.filter (fun l => l.req.mb ≠ a.mb)
    xfers := s.host.xfers.filter (fun x => x.req.mb ≠ a.mb) }
  let s := s.putMb a.mb 16 (leBytes 4 a.seq ++ leBytes 2 status ++ leBytes 2 result.length)
  (s.addTrace 3 1 (leBytes 1 a.mb ++ leBytes 2 a.cmd ++ leBytes 4 a.seq ++ leBytes 2 status)).raise a.mb

/-- The long command ends. -/
def State.finishLong (s : State) (status detail : Nat) (result : List Byte) : State :=
  match s.host.long with
  | none => s
  | some l => s.complete l.req status detail result

/-- The long command, if it has a command code. -/
def State.longIs (s : State) (cmd : Nat) : Option LongCmd := s.host.long.filter (fun l => l.req.cmd = cmd)

/-- Changes the long command. -/
def State.setLong (s : State) (l : LongCmd) : State := s.setHost { s.host with long := some l }

/-- R464: the header and request of a posted mailbox, as accepted. -/
def State.requestOf (s : State) (mb : Nat) : Accepted :=
  let h := s.mbBytes mb 0 16
  { mb := mb, owner := field h 0 4, seq := field h 4 4, cmd := field h 8 2, len := field h 10 2
    request := s.mbBytes mb 0x40 (min 2048 (field h 10 2)) }

/-- R466: every posted mailbox completes `ABORTED` (DEDUCED, log 55). -/
def State.abortPosted (s : State) : State :=
  let s := (maskBits 32 s.host.post.toNat).foldl (fun (s : State) mb =>
    let a := (s.host.accepted.find? (fun b => b.mb = mb)).getD (s.requestOf mb)
    s.complete a sAborted 0 []) s
  s.setHost { s.host with accepted := [], long := none, xfers := [] }

/-- SB_STATUS as 16 bytes (R505). -/
def State.sbStatus (s : State) : List Byte :=
  let b := s.seed
  leBytes 8 b.gen.toNat ++ leBytes 6 b.step.toNat ++
    leBytes 1 (b2n b.copying.isSome + 2 * b2n b.priOk + 4 * b2n b.secOk + 8 * b2n b.isLocal + 16 * b.lastEnd.toNat) ++ [0]

/-- A cut that comes to nothing, or a generation that is abandoned, with its `LAST_END`: it is reported (R600), a waiting
`SNAPSHOT_NOW` completes `ABORTED` (R512), and a checkpoint that waits for the generation fails (R522). -/
def State.endCut (s : State) (lastEnd : Nat) : State :=
  let s := { s with seed := { s.seed with copying := none, lastEnd := BitVec.ofNat 4 lastEnd } }
  let s := s.report 0x44 s.sbStatus
  match s.host.long with
  | none => s
  | some l =>
    if l.req.cmd = 0x40 then s.finishLong sAborted 0 []
    else if l.req.cmd = 0x42 && l.phase = 2 then s.finishLong sCkptFailed (l.note % 2) []
    else s

/-- R354: a checkpoint being written is abandoned. -/
def State.abandonCheckpoint (s : State) : State :=
  match s.longIs 0x42 with
  | some l => { s with seed := { s.seed with pulling := none } }.finishLong sCkptFailed (l.note % 2) []
  | none => s

/-- The long command of a job that is held: a stop that waits for its mark, a snapshot or checkpoint that waits for its cut,
and a restore complete `ABORTED` (R496; the others by the model's choice) (DEDUCED, log 55). -/
def State.abortWaiting (s : State) : State :=
  match s.host.long with
  | none => s
  | some l =>
    if (l.req.cmd = 0x12 && l.phase = 1) || l.req.cmd = 0x41 || (l.req.cmd = 0x40 && s.seed.copying.isNone) ||
        (l.req.cmd = 0x42 && l.phase = 0) then
      let s := { s with seed := { s.seed with pulling := none } }
      s.finishLong sAborted 0 []
    else s

end Sys2Proof.Machine
end

