-- ==== Sys2Proof/Machine/Hold.lean ====
section
/-! DEFINITION. Writes that land (R50), what a hold of the job does (R480), the faults that hold it (R31, R58, R148,
R156, R260) and the message-signalled interrupts that leave when they may (R461). -/

namespace Sys2Proof.Machine

/-- Changes the oldest part of a collective on a die that meets a condition. -/
def updateFirst (cond : CollInst → Bool) (f : CollInst → CollInst) : List CollInst → List CollInst
  | [] => []
  | i :: l => if cond i then f i :: l else i :: updateFirst cond f l

/-- R424: a cluster's contribution joins the oldest instance of its descriptor that has none of it yet. -/
def State.contribute (s : State) (n cdesc : Nat) (bs : List Byte) : State :=
  let l := updateFirst (fun i => i.die = n / 16 && i.cdesc = cdesc && (Tab.find (n % 16) i.contrib).isNone)
    (fun i => { i with contrib := Tab.put (n % 16) bs i.contrib }) s.coll.insts
  { s with coll := { s.coll with insts := l } }

/-- R424: the `DST` of a cluster joins the oldest instance of its descriptor that has none of it yet. -/
def State.bindDst (s : State) (n cdesc dst : Nat) : State :=
  let l := updateFirst (fun i => i.die = n / 16 && i.cdesc = cdesc && (Tab.find (n % 16) i.dsts).isNone)
    (fun i => { i with dsts := Tab.put (n % 16) dst i.dsts }) s.coll.insts
  { s with coll := { s.coll with insts := l } }

/-- Accumulator entries converted to a collective's data format (R424); 0 moves them as bytes. -/
def accContribution (dfmt : Nat) (c : Cluster) (idx count : Nat) : List Byte × Nat × Nat :=
  if dfmt = 0 then (packCodes 32 (c.accBits idx count), 0, 0)
  else
    let f := (Fmt.ofCode dfmt).getD .f32
    let o := readAcc c f.isInt idx count
    let cs := o.vals.map (f.encode .rne)
    (packCodes f.bits (cs.map (·.code)), o.sat + (cs.filter (·.sat)).length, o.inv + (cs.filter (·.invalid)).length)

/-- R424: the contribution in the slots of a mask, in ascending slot order. -/
def State.slotContribution (s : State) (n mask dfmt : Nat) : List Byte × Nat × Nat :=
  let parts := (maskBits 32 mask).map (fun k => accContribution dfmt (s.cluster n) (accIndex k 0) 16384)
  (parts.flatMap (·.1), (parts.map (·.2.1)).sum, (parts.map (·.2.2)).sum)

/-- R50: one write of an operation lands. -/
def State.apply (s : State) (e : Eff) : State :=
  match e with
  | .sram a bs => s.setSram (putBlock zeroByte a bs s.sram)
  | .mem a hint bs => s.writeLocal a hint bs
  | .touch a len hint => s.noteRead a len hint
  | .acc n idx vals => s.setCluster n ((s.cluster n).writeAcc idx vals)
  | .accMark n slot int => s.setCluster n ((s.cluster n).mark slot int)
  | .count key k => s.count key k
  | .addCounter a admits drops =>
    let old := getBlock zeroByte a 8 s.sram
    s.setSram (putBlock zeroByte a
      (leBytes 4 (satAdd 32 (field old 0 4) admits) ++ leBytes 4 (satAdd 32 (field old 4 4) drops)) s.sram)
  | .collDst n cdesc dst => s.bindDst n cdesc dst
  | .post n cdesc bs => s.contribute n cdesc bs
  | .postAcc n cdesc mask len dfmt =>
    let c := s.slotContribution n mask dfmt
    let s := (s.count (cSat n) c.2.1).count (cInvalid n) c.2.2
    s.contribute n cdesc (c.1.take len)

/-- Writes land in order. -/
def State.applyAll (s : State) (es : List Eff) : State := es.foldl State.apply s

/-- R142, R300: the ranked writes that have landed in this cycle. -/
def State.landedNow (s : State) : List LandedWrite := if s.landed.cc = s.cc then s.landed.writes else []

/-- The bytes of a write at `a`, with those of another write in place of their own where the two meet. -/
def overlay (a : Nat) (bs : List Byte) (w : LandedWrite) : List Byte :=
  let lo := max a w.addr
  let hi := min (a + bs.length) (w.addr + w.bytes.length)
  if hi ≤ lo then bs else bs.take (lo - a) ++ ((w.bytes.drop (lo - w.addr)).take (hi - lo) ++ bs.drop (hi - a))

/-- A write with what higher-ranked writes have left in its place. -/
def Eff.under (ws : List LandedWrite) : Eff → Eff
  | .sram a bs => .sram a (ws.foldl (overlay a) bs)
  | .mem a hint bs => .mem a hint (ws.foldl (overlay a) bs)
  | e => e

/-- The bytes that a write leaves. -/
def Eff.landed (agents rank : Nat) : Eff → Option LandedWrite
  | .sram a bs => some ⟨agents, rank, a, bs⟩
  | .mem a _ bs => some ⟨agents, rank, a, bs⟩
  | _ => none

/-- R142, R300: the writes of an operation land; where one of a higher rank has landed in this cycle, its bytes remain. -/
def State.landRanked (s : State) (agents rank : Nat) (es : List Eff) : State :=
  let above := s.landedNow.filter (fun w => w.agents = agents && w.rank > rank)
  let es := es.map (Eff.under (sortBy (fun a b => a.rank ≤ b.rank) above.reverse))
  let t := s.applyAll es
  { t with landed := { cc := s.cc, writes := es.filterMap (Eff.landed agents rank) ++ s.landedNow } }

/-- R480: a write in flight at a hold may or may not land (DESIGN CHOICE, log 17). -/
def State.maybeApply (s : State) (e : Eff) : State :=
  let s := s.spend
  if Config.inFlightLands s.free then s.apply e else s

/-- R218, R480: the writes of an operation in flight at a hold may or may not land, each by itself (DESIGN CHOICE, log 17). -/
def State.landOrNot (s : State) (es : List Eff) : State := es.foldl State.maybeApply s

/-- R480: the operations of a cluster in flight end or are abandoned. -/
def State.dropClusterOps (s : State) (n : Nat) : State :=
  let s := (s.cluster n).ops.foldl (fun s o => s.landOrNot o.effects) s
  let c := s.cluster n
  s.setCluster n { c with ops := [], item := none, cores := c.cores.map (fun (k : Core) =>
    { k with running := false, waiting := none, outstanding := 0 }) }

/-- R480: the operations of a Sillage in flight end or are abandoned. -/
def State.dropSillageOps (s : State) (d : Nat) : State :=
  let u := Tab.get {} d s.sill
  let s := (u.choice ++ u.exch).foldl (fun s o => s.landOrNot o.effects) s
  { s with sill := Tab.put d { u with choice := [], exch := [], rows := [], counts := [], sent := [], arriving := [] } s.sill }

/-- Whether a packet is Seedbank traffic, which no operation of the job sends. -/
def Origin.isSnap : Origin → Bool
  | .snap _ _ => true
  | _ => false

/-- R480: operations in flight end or are abandoned; their writes may or may not land, and packets of theirs that still wait at
their source are not sent. The sequencers stop (DESIGN CHOICE, log 17). -/
def State.abandon (s : State) : State :=
  let s := (s.clusters.map (·.1)).foldl State.dropClusterOps s
  let s := (s.sill.map (·.1)).foldl State.dropSillageOps s
  let s := (s.copies.flatMap (·.2)).foldl (fun s o => s.landOrNot o.effects) s
  { s with copies := [], fab := { s.fab with queues := [], queued := s.fab.queued.filter (fun (q : Queued) => q.origin.isSnap) }
           seqs := s.seqs.map (fun (p : Nat × Seq) => (p.1, { p.2 with window := none, sync := none })) }

/-- R478: the states from which a fence of a used function holds the job. -/
def JobState.holdable : JobState → Bool
  | .loaded | .waitArm | .running | .stopped | .restoring => true
  | _ => false

/-- R480: the job enters `HELD` because of the recorded fault; the hold is reported with the whole record (DEDUCED, log 8; DEDUCED, log 43). -/
def State.hold (s : State) (r : FaultRec) : State :=
  if s.job.state.holdable then
    let s := s.abandon
    let s := s.record { r with action := r.action ||| 1 }
    let s := s.setJobState .held
    (s.report 0x41 ((s.fence.ring.head?.map FaultRec.bytes).getD [])).abortWaiting
  else s.record r

/-- R58: image fault at bundle `i` of the body that die `d` runs (DEDUCED, log 41). -/
def State.imageFaultAt (s : State) (d i : Nat) : State :=
  s.hold { kind := 1, die := d, detail := leBytes 4 (s.seq d).body ++ leBytes 4 i }

/-- R58: image fault at the bundle that die `d` is at. -/
def State.imageFault (s : State) (d : Nat) : State := s.imageFaultAt d (s.seq d).bundle

/-- R148: kernel fault of a core: kernel index and word index (DEDUCED, log 41). -/
def State.kernelFault (s : State) (n core kernel word : Nat) : State :=
  s.hold { kind := 2, unit := unitLocator n 2 core, die := n / 16
           detail := leBytes 1 core ++ leBytes 2 kernel ++ leBytes 2 word }

/-- R156: metadata fault of an operation of a cluster: opcode, check code and address of the record. -/
def State.metaFault (s : State) (n op check addr : Nat) : State :=
  s.hold { kind := 3, unit := unitLocator n 6 0, die := n / 16, check := check, detail := leBytes 1 op ++ leBytes 8 addr }

/-- R31, R32: program address fault of a die: status and address (DEDUCED, log 40). -/
def State.addrFault (s : State) (d status addr : Nat) : State :=
  s.hold { kind := 4, die := d, check := status, detail := leBytes 8 addr }

/-- R260: integrity fault of a Sillage unit: descriptor, source index and check (DEDUCED, log 39). -/
def State.integrityFault (s : State) (d unit check xd src : Nat) : State :=
  (s.count (ctrKey 4 d 12) 1).hold { kind := 5, func := 0x50 + d, unit := unit, die := d, check := check
                                     detail := leBytes 2 xd ++ leBytes 1 src }

/-- R461: a vector that is pending leaves once no mask holds it. -/
def State.flushVector (s : State) (v : Nat) : State :=
  if s.host.pba.getLsbD v then
    (s.setHost { s.host with pba := s.host.pba &&& ~~~ BitVec.twoPow 64 v }).sendVector v
  else s

/-- R461: every pending vector that may leave, leaves (DEDUCED, log 64). -/
def State.flushVectors (s : State) : State := (List.range 38).foldl State.flushVector s

/-- R478: whether a job is in a state that no fence of a used function leaves it in. -/
def State.mustHold (s : State) : Bool := s.job.state.holdable && (s.fence.fenced &&& s.fence.used) != 0

/-- What follows every event in the same cycle: a job whose used set holds a fenced function is held (R478), changed
sensors are told (R571), and pending vectors that may leave do so (R461) (DESIGN CHOICE, log 7; DEDUCED, log 41). -/
def State.settle (s : State) : State :=
  let s := if s.mustHold then
      s.hold { kind := 12, check := 1
               func := ((List.range 116).find? (fun f => (s.fence.fenced &&& s.fence.used).getLsbD f)).getD 0xFF }
    else s
  s.tellSensors.flushVectors

/-- The outcome of a command that has its effect (DEDUCED, log 8). -/
def done (s : State) : Result := .next s.settle

end Sys2Proof.Machine
end

