-- ==== Sys2Proof/Machine/Matrix.lean ====
section
/-! DEFINITION. The matrix array (R110 to R133): products and their order, split modes (R111 to R113), `ACC_ZERO`
and `ACC_READ`. -/

namespace Sys2Proof.Machine

/-- One pass of a product (R113): piece and format of each operand, and the accumulator part it adds into. -/
structure Pass where
  pa : Nat
  fa : Fmt
  pb : Nat
  fb : Fmt
  part : Nat
  deriving DecidableEq, Repr

/-- How a pair of operand formats is multiplied (R85, R111, R113). -/
structure Mode where
  passes : List Pass
  split16 : Bool := false
  halfCycles : Nat := 2
  deriving DecidableEq, Repr

/-- An 8-bit integer format, a 4-bit integer format, a 16-bit floating format. -/
def Fmt.int8 (f : Fmt) : Bool := f == .i8 || f == .u8
def Fmt.int4 (f : Fmt) : Bool := f == .i4 || f == .u4
def Fmt.half (f : Fmt) : Bool := f == .b16 || f == .h16

/-- R85, R111: the mode of a format pair, or none if the pair is forbidden. c of R127 is in half cycles. INT16 × INT8
keeps R113's part H for the high pieces (UNVERIFIED, log 118). -/
def modeOf (a b : Fmt) : Option Mode :=
  let one (c : Nat) : Option Mode := some { passes := [⟨0, a, 0, b, 0⟩], halfCycles := c }
  if a.isMx && b.isMx then one (if a == .mx4 && b == .mx4 then 1 else 2)
  else if a.int8 && b.int8 then one 2
  else if a.int4 && b.int4 then one 1
  else if a.half && b.half then one 4
  else match a, b with
    | .f32, .f32 => some { passes := [⟨2, .b16, 0, .b16, 0⟩, ⟨1, .b16, 1, .b16, 0⟩, ⟨0, .b16, 2, .b16, 0⟩,
        ⟨1, .b16, 0, .b16, 0⟩, ⟨0, .b16, 1, .b16, 0⟩, ⟨0, .b16, 0, .b16, 0⟩], halfCycles := 4 }
    | .f32, .b16 => some { passes := [⟨2, .b16, 0, .b16, 0⟩, ⟨1, .b16, 0, .b16, 0⟩, ⟨0, .b16, 0, .b16, 0⟩], halfCycles := 4 }
    | .i16, .i16 => some { passes := [⟨1, .u8, 1, .u8, 0⟩, ⟨1, .u8, 0, .i8, 1⟩, ⟨0, .i8, 1, .u8, 1⟩, ⟨0, .i8, 0, .i8, 2⟩], split16 := true }
    | .i16, .i8 => some { passes := [⟨1, .u8, 0, .i8, 0⟩, ⟨0, .i8, 0, .i8, 2⟩], split16 := true }
    | _, _ => none

/-- Whether a product accumulates in INT32 (R131). -/
def intProduct (a : Fmt) : Bool := a.isInt

/-- A group of 32 positions of one row along the reduction dimension (R110). -/
abbrev Group := List Val

/-- A plane of rows of `k` elements (a multiple of 32), each row as its groups. -/
def State.readGroups (s : State) (n : Nat) (f : Fmt) (elem scale : Nat) (side : Option Nat) (rows k : Nat) :
    List (List Group) :=
  let cnt := rows * k
  let codes := chunks 32 (unpackCodes f.bits (s.near n elem (cnt * f.bits / 8)))
  let groups :=
    if f.isMx then
      let nb := cnt / 32
      let scales := (s.near n scale nb).map (·.toNat)
      let sides := match side with
        | some o => (chunks 3 (s.near n o (3 * nb))).map some
        | none => List.replicate nb none
      (codes.zip (scales.zip sides)).map (fun p => blockValues f p.1 p.2.1 p.2.2)
    else codes.map (fun c => c.map f.decode)
  chunks (k / 32) groups

/-- R110: the exact sum of a group's products from +0 on (R119, R105), rounded once to FP32 (integer sums stay
exact), and its invalid operations. -/
def groupValue (int : Bool) (xs ys : Group) : Val × Nat :=
  let r := (xs.zip ys).foldl (fun (acc : Val × Nat) p =>
    let m := p.1.mul p.2
    (acc.1.add m, acc.2 + b2n (invalidMul p.1 p.2) + b2n (invalidAdd acc.1 m))) (.num false 0 0, 0)
  (if int then r.1 else fp32.round r.1, r.2)

/-- One addition of a group value to an accumulator entry (R110, R107): value, saturations, invalid operations. -/
def accAdd (int : Bool) (acc : Val × Nat × Nat) (g : Val × Nat) : Val × Nat × Nat :=
  if int then
    let c := Fmt.i32.satInt (acc.1.roundToInt + g.1.roundToInt)
    (Fmt.i32.decode c.code, acc.2.1 + b2n c.sat, acc.2.2)
  else (fAdd acc.1 g.1, acc.2.1, acc.2.2 + g.2 + b2n (invalidAdd acc.1 g.1))

/-- The groups of one output element: row groups of A against row groups of B, in ascending order (R119). -/
def dotGroups (int : Bool) (acc : Val × Nat × Nat) (xs ys : List Group) : Val × Nat × Nat :=
  (xs.zip ys).foldl (fun a p => accAdd int a (groupValue int p.1 p.2)) acc

/-- A product's results in one accumulator slot: the writes, and the events. -/
structure SlotResult where
  effs : List Eff
  sat : Nat
  inv : Nat
  deriving DecidableEq, Repr

/-- Writes `vals` from the start of a slot in a type, with the slot's other entries and its mark (R131). -/
def slotWrite (c : Cluster) (n slot : Nat) (int : Bool) (vals : List Val) : List Eff :=
  retypeSlot c n slot int ++ [.acc n (accIndex slot 0) (vals.map (accEncode int)), .accMark n slot int]

/-- The accumulator entries a product starts from: stored values, or +0 (R123). -/
def startVals (c : Cluster) (int zero : Bool) (slot rows : Nat) : Operand :=
  if zero then { vals := List.replicate (rows * 128) (.num false 0 0) }
  else readAcc c int (accIndex slot 0) (rows * 128)

/-- Fields of an `MMUL` descriptor (R124). -/
structure MmulDesc where
  aElem : Nat
  aScale : Nat
  aSide : Nat
  bElem : Nat
  bScale : Nat
  bSide : Nat
  m : Nat
  kt : Nat
  nt : Nat
  acc : Nat
  fa : Fmt
  fb : Fmt
  topA : Bool
  topB : Bool
  mode : Mode
  deriving DecidableEq, Repr

/-- Slots that output tile `t` of a product lands in, for each part used. -/
def tileSlot (acc : Nat) (split16 : Bool) (t part : Nat) : Nat := if split16 then acc + 3 * t + part else acc + t

/-- Bytes of an A operand piece plane and of a B operand piece plane. -/
def aPlane (d : MmulDesc) (f : Fmt) : Nat := d.m * 128 * d.kt * f.bits / 8
def bPlane (d : MmulDesc) (f : Fmt) : Nat := d.kt * d.nt * 16384 * f.bits / 8

/-- R124, R125, R126: the descriptor's fields, if in range. -/
def State.mmulFields (b : List Byte) : Option MmulDesc :=
  match Fmt.ofCode (field b 29 1 % 16), Fmt.ofCode (field b 29 1 / 16) with
  | some fa, some fb =>
    match modeOf fa fb with
    | none => none
    | some mode =>
      let fl := field b 30 1
      let d : MmulDesc :=
        { aElem := field b 0 4, aScale := field b 4 4, aSide := field b 8 4, bElem := field b 12 4
          bScale := field b 16 4, bSide := field b 20 4, m := field b 24 2, kt := field b 26 1, nt := field b 27 1
          acc := field b 28 1, fa := fa, fb := fb, topA := bitAt fl 1, topB := bitAt fl 2, mode := mode }
      let last := tileSlot d.acc mode.split16 (d.nt - 1) (if mode.split16 then 2 else 0)
      let np (f : Fmt) : Nat := if f == .f32 then 3 else if f == .i16 then 2 else 1
      let pa := (mode.passes.headD ⟨0, fa, 0, fb, 0⟩).fa
      let pb := (mode.passes.headD ⟨0, fa, 0, fb, 0⟩).fb
      let blkA := d.m * 4 * d.kt
      let blkB := d.kt * d.nt * 512
      if d.m = 0 || d.m > 128 || d.kt = 0 || d.kt > 64 || d.nt = 0 || d.nt > 32 || d.acc > 31 || last > 31 ||
          fl % 2 ≠ 0 || fl / 8 ≠ 0 || field b 31 1 ≠ 0 || (d.topA && !fa.isMx) || (d.topB && !fb.isMx) ||
          pieceAt d.aElem (aPlane d pa) (np fa - 1) + aPlane d pa > nearSize ||
          pieceAt d.bElem (bPlane d pb) (np fb - 1) + bPlane d pb > nearSize ||
          (fa.isMx && d.aScale + blkA > nearSize) || (fb.isMx && d.bScale + blkB > nearSize) ||
          (d.topA && d.aSide + 3 * blkA > nearSize) || (d.topB && d.bSide + 3 * blkB > nearSize) then none
      else some d
  | _, _ => none

/-- Groups of the A rows for a pass. -/
def State.aGroups (s : State) (n : Nat) (d : MmulDesc) (p : Pass) : List (List Group) :=
  s.readGroups n p.fa (pieceAt d.aElem (aPlane d p.fa) p.pa) d.aScale (if d.topA then some d.aSide else none) d.m (128 * d.kt)

/-- Groups of the 128 rows of weight tile (k, t) for a pass (R124). -/
def State.bTile (s : State) (n : Nat) (d : MmulDesc) (p : Pass) (t k : Nat) : List (List Group) :=
  let no := t * d.kt + k
  s.readGroups n p.fb (pieceAt d.bElem (bPlane d p.fb) p.pb + no * (16384 * p.fb.bits / 8)) (d.bScale + 512 * no)
    (if d.topB then some (d.bSide + 3 * 512 * no) else none) 128 128

/-- Adds one pass over all K tiles into the entries of output tile `t` (row-major, 128 to a row). -/
def State.addPass (s : State) (n : Nat) (d : MmulDesc) (int : Bool) (t : Nat) (accs : List (Val × Nat × Nat)) (p : Pass) :
    List (Val × Nat × Nat) :=
  let a := s.aGroups n d p
  (List.range d.kt).foldl (fun accs k =>
    let b := s.bTile n d p t k
    let pairs := a.flatMap (fun row => b.map (fun br => ((row.drop (4 * k)).take 4, br)))
    accs.zipWith (fun acc q => dotGroups int acc q.1 q.2) pairs) accs

/-- One slot of a product (R126). -/
def State.productSlot (s : State) (n : Nat) (d : MmulDesc) (zero : Bool) (t part : Nat) : SlotResult :=
  let c := s.cluster n
  let int := intProduct d.fa
  let slot := tileSlot d.acc d.mode.split16 t part
  let st := startVals c int zero slot d.m
  let out := (d.mode.passes.filter (·.part = part)).foldl (s.addPass n d int t) (st.vals.map (·, 0, 0))
  { effs := slotWrite c n slot int (out.map (·.1))
    sat := st.sat + (out.map (·.2.1)).sum, inv := st.inv + (out.map (·.2.2)).sum }

/-- Parts that a mode uses. -/
def modeParts (m : Mode) : List Nat := ([0, 1, 2]).filter (fun k => m.passes.any (·.part = k))

/-- R127: duration of a product of `u` weight tiles. -/
def mmulTime (halfCycles m u : Nat) : Nat := ceilDiv (halfCycles * (128 + (u - 1) * max m 128 + m)) 2 + 259

/-- The output tiles of a product, each with its slots' results. -/
def State.productTiles (s : State) (n : Nat) (d : MmulDesc) (zero : Bool) : List SlotResult :=
  (List.range d.nt).flatMap (fun t => (modeParts d.mode).map (fun p => s.productSlot n d zero t p))

/-- Mask of the slots that a product writes (R598). -/
def productSlots (d : MmulDesc) : Nat :=
  ((List.range d.nt).flatMap (fun t => (modeParts d.mode).map (fun p => 2 ^ tileSlot d.acc d.mode.split16 t p))).sum

/-- Duration of a product. -/
def productTime (d : MmulDesc) : Nat := mmulTime d.mode.halfCycles d.m (d.mode.passes.length * d.nt * d.kt)

/-- Effects and events of slot results together. -/
def joinResults (n : Nat) (rs : List SlotResult) : List Eff :=
  rs.flatMap (·.effs) ++ eventEffs n (rs.map (·.sat)).sum (rs.map (·.inv)).sum

/-- `MMUL` and `MMUL_Z` (R123). -/
def State.planProduct (s : State) (n : Nat) (arg : BitVec 40) (zero : Bool) : Plan :=
  match s.descriptor n arg with
  | none => .bad
  | some b =>
    match State.mmulFields b with
    | none => .bad
    | some d =>
      if slotReserved arg || slotUnits arg ≠ 0 then .bad
      else .ok uArray (productSlots d) (productTime d) [] (joinResults n (s.productTiles n d zero)) false

def planMmul (s : State) (n : Nat) (arg : BitVec 40) : Plan := s.planProduct n arg false
def planMmulZ (s : State) (n : Nat) (arg : BitVec 40) : Plan := s.planProduct n arg true

/-- Effects of zeroing the slots of a mask (R123): +0.0 in every entry, marked FP32. -/
def zeroEffs (n mask : Nat) : List Eff :=
  (maskBits 32 mask).flatMap (fun k => [.acc n (accIndex k 0) (List.replicate slotEntries 0), .accMark n k false])

/-- `ACC_ZERO` (R123, R124). -/
def planAccZero (s : State) (n : Nat) (arg : BitVec 40) : Plan :=
  match s.descriptor n arg with
  | none => .bad
  | some b =>
    let mask := field b 0 4
    if slotReserved arg || slotUnits arg ≠ 0 || mask = 0 || field b 4 28 ≠ 0 then .bad
    else .ok 0 mask 1 [] (zeroEffs n mask) true

/-- Groups of three consecutive slots from the lowest set bit upward, or none if the mask breaks them (R124). -/
def slotTriples : Nat → Nat → Nat → Option (List Nat)
  | 0, _, _ => some []
  | k + 1, i, mask =>
    if i ≥ 32 then some []
    else if !bitAt mask i then slotTriples k (i + 1) mask
    else if bitAt mask (i + 1) && bitAt mask (i + 2) && i + 2 < 32 then
      (slotTriples k (i + 3) mask).map (i :: ·)
    else none

/-- The combined value of the parts of an entry: H × 2^16 + M × 2^8 + L (R113), for both INT16 modes (UNVERIFIED,
log 118). -/
def combineParts (l m h : Val) : Int := h.roundToInt * 65536 + m.roundToInt * 256 + l.roundToInt

/-- `ACC_READ` (R123, R124, R131) (DEDUCED, log 83). -/
def planAccRead (s : State) (n : Nat) (arg : BitVec 40) : Plan :=
  match s.descriptor n arg with
  | none => .bad
  | some b =>
    let mask := field b 0 4
    let dst := field b 12 4
    let out := field b 29 1
    let c := s.cluster n
    if slotReserved arg || slotUnits arg ≠ 0 || mask = 0 || out > 3 || field b 4 8 ≠ 0 || field b 16 13 ≠ 0 ||
        field b 30 2 ≠ 0 then .bad
    else if out ≤ 1 then
      let ops := (maskBits 32 mask).map (fun k => readAcc c (out == 1) (accIndex k 0) 16384)
      let bytes := ops.flatMap (fun o => packCodes 32 (o.vals.map (accEncode (out == 1))))
      if dst + bytes.length > nearSize then .bad
      else .ok 0 mask (popBits 32 mask * 128) [] ([.sram (nearBase n + dst) bytes] ++
        eventEffs n (ops.map (·.sat)).sum (ops.map (·.inv)).sum) true
    else
      match slotTriples 32 0 mask with
      | none => .bad
      | some ts =>
        let size := ts.length * 16384 * (if out = 2 then 8 else 4)
        if dst + size > nearSize then .bad
        else
          let part (k : Nat) : Operand := readAcc c true (accIndex k 0) 16384
          let bytes := ts.flatMap (fun k =>
            ((part k).vals.zip ((part (k + 1)).vals.zip (part (k + 2)).vals)).flatMap (fun p =>
              let v := combineParts p.1 p.2.1 p.2.2
              if out = 2 then leBytes 8 (v % (2 ^ 64 : Nat)).toNat else leBytes 4 (fp32.encode .rne (.ofInt v))))
          let ops := (maskBits 32 mask).map part
          .ok 0 mask (popBits 32 mask * 128) [] ([.sram (nearBase n + dst) bytes] ++
            eventEffs n (ops.map (·.sat)).sum (ops.map (·.inv)).sum) true

end Sys2Proof.Machine
end

