-- ==== Sys2Proof/Machine/Sparse.lean ====
section
/-! DEFINITION. The sparse path (R149 to R185): metadata records and their checks, `TMUL`, `SSMUL`, `SDDMM`,
`VALMAP`, `PSELECT`, `PMUL` and the output compressor. -/

namespace Sys2Proof.Machine

/-- A metadata record (R150) and the local address it was read from. -/
structure TileRec where
  addr : Nat
  base : Nat
  fmtByte : Nat
  form : Nat
  scaled : Bool
  topnote : Bool
  mapped : Bool
  formHigh : Nat
  rows : Nat
  cols : Nat
  nnz : Nat
  nslots : Nat
  work : Nat
  perm : Nat
  layer : Nat
  rsv : Nat
  bytes : Nat
  crcOk : Bool
  deriving DecidableEq, Repr

/-- R150: the fields of a record's 32 bytes. -/
def tileRec (addr : Nat) (b : List Byte) : TileRec :=
  let fb := field b 9 1
  { addr := addr, base := field b 0 8, fmtByte := field b 8 1, form := fb % 4, scaled := bitAt fb 2
    topnote := bitAt fb 3, mapped := bitAt fb 4, formHigh := fb / 32, rows := field b 10 1, cols := field b 11 1
    nnz := field b 12 2, nslots := field b 14 2, work := field b 16 2, perm := field b 18 2, layer := field b 20 2
    rsv := field b 22 2, bytes := field b 24 4, crcOk := (crc32c (b.take 28)).toNat == field b 28 4 }

/-- The format of a record. -/
def TileRec.fmt (r : TileRec) : Fmt := (Fmt.ofCode (r.fmtByte % 16)).getD .f32

/-- CSR form. -/
def TileRec.csr (r : TileRec) : Bool := r.form == 1

/-- Number of 32-element blocks (R151). -/
def TileRec.blocks (r : TileRec) : Nat := if r.csr then r.nslots / 32 else r.rows * ceilDiv r.cols 32

/-- Sizes of the planes in the order of R151: PERM, ROWPTR, INDEX, VALUE, SCALE, SIDE, MAP. -/
def TileRec.planes (r : TileRec) : List Nat :=
  let w := r.fmt.bits
  let value := if r.csr then alignUp 32 (ceilDiv (r.nslots * w) 8)
    else if r.scaled then alignUp 32 (r.blocks * 32 * w / 8) else alignUp 32 (r.rows * ceilDiv (r.cols * w) 8)
  [if r.perm = 0 then 0 else 128,
   if r.csr then alignUp 32 (2 * (r.rows + 1)) else 0,
   if r.csr then alignUp 32 r.nslots else 0,
   value,
   if r.scaled then alignUp 32 r.blocks else 0,
   if r.topnote then alignUp 32 (3 * r.blocks) else 0,
   if r.mapped then alignUp 32 (2 * r.nslots) else 0]

/-- Offset of plane `i` within the data block. -/
def TileRec.planeAt (r : TileRec) (i : Nat) : Nat := (r.planes.take i).sum

/-- R152: formats that a CSR tile may have. -/
def csrFmt (f : Fmt) : Bool := f.isMx || f.int8 || f.half || f == .f32

/-- Checks 1 to 5 of R155; `ok` is check 3 of the operation. -/
def TileRec.check (r : TileRec) (n : Nat) (ok : Bool) : Option Nat :=
  if !r.crcOk then some 1
  else if r.base / 2 ^ 48 ≠ 0 || r.base % 32 ≠ 0 || r.fmtByte ≥ 15 || r.form > 1 || r.formHigh ≠ 0 || r.rows = 0 ||
      r.rows > 128 || r.cols = 0 || r.cols > 128 || r.nnz > (if r.csr then 16384 else r.rows * r.cols) ||
      (!r.csr && (r.nslots ≠ 0 || r.work ≠ 0)) || r.layer > 255 || r.rsv ≠ 0 || (r.scaled != r.fmt.isMx) ||
      (r.topnote && !r.fmt.isMx) then some 2
  else if (r.csr && !csrFmt r.fmt) || !ok then some 3
  else if r.bytes ≠ r.planes.sum then some 4
  else if r.base < nearBase n || r.base + r.bytes > nearBase n + nearSize then some 5
  else none

/-- A tile's contents: original row of each stored row, the rest of the permutation plane, row pointers, slots of each stored row (column or fill, and
value), and the map plane. -/
structure Tile where
  perm : List Nat
  permTail : List Nat
  rowPtr : List Nat
  index : List Nat
  rows : List (List (Option Nat × Val))
  map : List Nat
  deriving DecidableEq, Repr

/-- Bytes of plane `i` of a tile. -/
def State.planeBytes (s : State) (r : TileRec) (i : Nat) : List Byte :=
  getBlock zeroByte (r.base + r.planeAt i) (r.planes.getD i 0) s.sram

/-- Values of all slots of a CSR tile, or of all blocks of a DENSE MX tile, in plane order. -/
def State.planeValues (s : State) (r : TileRec) : List Val :=
  let codes := unpackCodes r.fmt.bits (s.planeBytes r 3)
  if r.scaled then
    let scales := ((s.planeBytes r 4).take r.blocks).map (·.toNat)
    let sides := if r.topnote then (chunks 3 ((s.planeBytes r 5).take (3 * r.blocks))).map some
      else List.replicate r.blocks none
    ((chunks 32 (codes.take (32 * r.blocks))).zip (scales.zip sides)).flatMap
      (fun p => blockValues r.fmt p.1 p.2.1 p.2.2)
  else codes.map r.fmt.decode

/-- Reads a tile's planes (R151, R152). -/
def State.readTile (s : State) (r : TileRec) : Tile :=
  let plane := (s.planeBytes r 0).map (·.toNat)
  let perm := if r.perm = 0 then List.range r.rows else plane.take r.rows
  let tail := if r.perm = 0 then [] else plane.drop r.rows
  if r.csr then
    let rp := ((chunks 2 (s.planeBytes r 1)).map leNat).take (r.rows + 1)
    let ix := ((s.planeBytes r 2).take r.nslots).map (·.toNat)
    let slots := (ix.zip (s.planeValues r)).map (fun p => (if p.1 = 255 then none else some p.1, p.2))
    let rows := (List.range r.rows).map (fun i =>
      (slots.drop (rp.getD i 0)).take (rp.getD (i + 1) 0 - rp.getD i 0))
    { perm := perm, permTail := tail, rowPtr := rp, index := ix, rows := rows
      map := if r.mapped then ((chunks 2 (s.planeBytes r 6)).map leNat).take r.nslots else [] }
  else
    let rows :=
      if r.scaled then (chunks (32 * ceilDiv r.cols 32) (s.planeValues r)).map (·.take r.cols)
      else (chunks (ceilDiv (r.cols * r.fmt.bits) 8) (s.planeBytes r 3)).map
        (fun b => ((unpackCodes r.fmt.bits b).take r.cols).map r.fmt.decode)
    { perm := perm, permTail := tail, rowPtr := [], index := []
      rows := (rows.take r.rows).map (fun l => l.zipIdx.map (fun p => (some p.2, p.1))), map := [] }

/-- Each element is at most its successor. -/
def ascending (strict : Bool) : List Nat → Bool
  | a :: b :: l => (if strict then a < b else a ≤ b) && ascending strict (b :: l)
  | _ => true

/-- R153: the work figure of rows with the given slot counts. -/
def workOf (counts : List Nat) : Nat := ((chunks 8 counts).map (fun g => 8 * (g.foldl max 0))).sum

/-- Checks 6 to 9 of R155: fill only pads a row up to a multiple of P (R152). -/
def Tile.check (t : Tile) (r : TileRec) : Option Nat :=
  let counts := t.rows.map (·.length)
  let cols (row : List (Option Nat × Val)) : List Nat := row.filterMap (·.1)
  let unit := if r.scaled then 32 else 1
  if r.csr && (t.rowPtr.headD 0 ≠ 0 || !ascending false t.rowPtr || t.rowPtr.getLastD 0 ≠ r.nslots ||
      counts.any (fun c => c % unit ≠ 0)) then some 6
  else if r.csr && (t.rows.any (fun row => !ascending true (cols row) || (cols row).any (· ≥ r.cols) ||
      (row.dropWhile (·.1.isSome)).any (·.1.isSome) || row.length ≠ alignUp unit (cols row).length) ||
      ((t.rows.map (fun row => (cols row).length)).sum ≠ r.nnz)) then some 7
  else if r.csr && workOf counts ≠ r.work then some 8
  else if r.perm ≠ 0 && (sortBy (fun a b => a ≤ b) t.perm ≠ List.range r.rows || t.permTail.any (· ≠ 255)) then some 9
  else none

/-- A tile read and checked: the tile, or the failed check and the record's address. -/
def State.takeTile (s : State) (n off : Nat) (ok : TileRec → Bool) : Except (Nat × Nat) (TileRec × Tile) :=
  let r := tileRec (nearBase n + off) (s.near n off 32)
  match r.check n (ok r) with
  | some c => .error (c, r.addr)
  | none =>
    let t := s.readTile r
    match t.check r with
    | some c => .error (c, r.addr)
    | none => .ok (r, t)

/-- R158: products per CORE cycle of one format; of its table's formats only (`vectorFmt`). -/
def rateOf (f : Fmt) : Nat :=
  if f.isMx || f.int8 then 8192 else if f.half then 4096 else 2048

/-- R84, R158: formats that the vector units multiply on sparse-class operations. -/
def vectorFmt (f : Fmt) : Bool := f.isMx || f.int8 || f.half || f == .f32

/-- R85 without a split mode, as `TMUL` and `PMUL` require. -/
def plainPair (a b : Fmt) : Bool :=
  match modeOf a b with
  | some m => m.passes.length == 1
  | none => false

/-- Format pairs of the products on the vector units: R158's formats, paired by R85 without a split or two FP32
operands. -/
def sparsePair (a b : Fmt) : Bool := vectorFmt a && vectorFmt b && (plainPair a b || (a == .f32 && b == .f32))

/-- Half cycles of R127 of a pair. -/
def halfOf (a b : Fmt) : Nat :=
  match modeOf a b with
  | some m => m.halfCycles
  | none => 4

/-- A stored row spread over 128 positions; absent and fill positions are +0 (R161). -/
def spreadRow (row : List (Option Nat × Val)) : List Val :=
  row.foldl (fun l p => match p.1 with
    | some k => l.set k p.2
    | none => l) (List.replicate 128 (.num false 0 0))

/-- The accumulator entries of one slot while a product of tiles adds into them: value, events, conversion events and
whether any tile touched the entry. -/
structure Entry where
  val : Val
  sat : Nat := 0
  inv : Nat := 0
  csat : Bool := false
  cinv : Bool := false
  touched : Bool := false
  deriving DecidableEq, Repr

/-- The entries of a slot that a product starts from. -/
def startEntries (c : Cluster) (int zero : Bool) (slot : Nat) : List Entry :=
  if zero then List.replicate 16384 { val := .num false 0 0 }
  else (c.accBits (accIndex slot 0) 16384).map (fun b =>
    let v := accVal (c.isInt slot) int b
    { val := v.1, csat := v.2.1, cinv := v.2.2 })

/-- Adds group values to an entry (R110, R119). -/
def Entry.addGroups (int : Bool) (e : Entry) (gs : List (Val × Nat)) : Entry :=
  let r := gs.foldl (accAdd int) (e.val, e.sat, e.inv)
  { e with val := r.1, sat := r.2.1, inv := r.2.2, touched := true }

/-- Stored row that holds an original row. -/
def invPerm (perm : List Nat) (orig : Nat) : Option Nat := perm.findIdx? (· = orig)

/-- R163: adds to every entry the group values of its pair of stored rows. -/
def addTile (int : Bool) (ta tb : Tile) (gs : Nat → Nat → List (Val × Nat)) (es : List Entry) : List Entry :=
  let ia := (List.range 128).map (invPerm ta.perm)
  let ib := (List.range 128).map (invPerm tb.perm)
  (es.zip (ia.flatMap (fun i => ib.map (fun j => (i, j))))).map (fun p =>
    match p.2.1, p.2.2 with
    | some i, some j => p.1.addGroups int (gs i j)
    | _, _ => p.1)

/-- Writes and events of the entries of a slot. -/
def entryResult (c : Cluster) (n slot : Nat) (int : Bool) (es : List Entry) : SlotResult :=
  { effs := slotWrite c n slot int (es.map (·.val))
    sat := (es.map (·.sat)).sum + (es.filter (fun e => e.touched && e.csat)).length
    inv := (es.map (·.inv)).sum + (es.filter (fun e => e.touched && e.cinv)).length }

/-- R161: group values of the dense path, from rows spread over 128 positions. -/
def denseGroups (int : Bool) (ra rb : List Val) : List (Val × Nat) :=
  ((chunks 32 ra).zip (chunks 32 rb)).map (fun p => groupValue int p.1 p.2)

/-- R152, R162: a stored row's slots by block: slot j of the tile belongs to block j / 32. -/
def slotBlocks {α : Type} (start : Nat) (row : List α) : List (List α) :=
  if row.isEmpty then [] else row.take (32 - start % 32) :: chunks 32 (row.drop (32 - start % 32))

/-- R162: block values of the sparse path: the blocks of a stored row of B, which starts at slot `start`, against the
dense row of A. -/
def sparseGroups (int : Bool) (ra : List Val) (start : Nat) (rb : List (Option Nat × Val)) : List (Val × Nat) :=
  (slotBlocks start rb).map (fun blk =>
    let ps := blk.filterMap (fun p => p.1.map (fun k => (ra.getD k (.num false 0 0), p.2)))
    groupValue int (ps.map (·.1)) (ps.map (·.2)))

/-- R167: matched products of two stored rows, ascending; fill slots stop a run. The fuel is the sum of the lengths. -/
def matchRows : Nat → List (Option Nat × Val) → List (Option Nat × Val) → List (Val × Val)
  | 0, _, _ => []
  | k + 1, (some i, x) :: as, (some j, y) :: bs =>
    if i = j then (x, y) :: matchRows k as bs
    else if i < j then matchRows k as ((some j, y) :: bs) else matchRows k ((some i, x) :: as) bs
  | _, _, _ => []

/-- R167: group values of `SSMUL`: matches in consecutive groups of 32. -/
def matchGroups (int : Bool) (ra rb : List (Option Nat × Val)) : List (Val × Nat) :=
  (chunks 32 (matchRows (ra.length + rb.length) ra rb)).map (fun g => groupValue int (g.map (·.1)) (g.map (·.2)))

/-- Fields of a `TMUL` descriptor (R159). -/
structure TmulDesc where
  aMeta : Nat
  aStride : Nat
  bMeta : Nat
  bStride : Nat
  m : Nat
  kt : Nat
  nt : Nat
  acc : Nat
  zero : Bool
  cutoff : Nat
  deriving DecidableEq, Repr

/-- R159: the descriptor's fields, if in range; `cut` tells whether `CUTOFF` is used. -/
def tmulFields (b : List Byte) (cut : Bool) : Option TmulDesc :=
  let fl := field b 17 1
  let co := field b 18 2
  let st (v : Nat) : Nat := 32 * (if v = 0 then 1 else v)
  let d : TmulDesc :=
    { aMeta := field b 0 4, aStride := st (field b 4 2), bStride := st (field b 6 2), bMeta := field b 8 4
      m := field b 12 2, kt := field b 14 1, nt := field b 15 1, acc := field b 16 1, zero := bitAt fl 0
      cutoff := if co = 0 then 300 else co }
  if d.m = 0 || d.m > 128 || d.kt = 0 || d.kt > 64 || d.nt = 0 || d.nt > 32 || d.acc + d.nt > 32 || fl / 2 ≠ 0 ||
      co > (if cut then 500 else 0) || field b 20 12 ≠ 0 ||
      d.aMeta + (d.kt - 1) * d.aStride + 32 > nearSize || d.bMeta + (d.kt * d.nt - 1) * d.bStride + 32 > nearSize then none
  else some d

/-- The tiles of an operation, in order, or the first failed check. -/
def State.takeTiles (s : State) (n : Nat) (offs : List Nat) (ok : TileRec → Bool) :
    Except (Nat × Nat) (List (TileRec × Tile)) :=
  offs.mapM (fun o => s.takeTile n o ok)

/-- Record offsets of the A and B tiles. -/
def TmulDesc.aOffs (d : TmulDesc) : List Nat := (List.range d.kt).map (fun k => d.aMeta + k * d.aStride)
def TmulDesc.bOffs (d : TmulDesc) : List Nat := (List.range (d.kt * d.nt)).map (fun t => d.bMeta + t * d.bStride)

/-- R159: check 10 of a product of tiles: the address of the first record that disagrees. -/
def shapeFault (d : TmulDesc) (as bs : List (TileRec × Tile)) : Option Nat :=
  match as.find? (fun a => a.1.rows ≠ d.m) with
  | some a => some a.1.addr
  | none =>
    (bs.zipIdx.find? (fun p =>
      match as[p.2 % d.kt]? with
      | some a => a.1.cols ≠ p.1.1.cols
      | none => false)).map (·.1.1.addr)

/-- R160: whether tile `i` takes the sparse path, with its times d and t in half cycles (R164). -/
structure PathChoice where
  sparse : Bool
  d2 : Nat
  t2 : Nat
  deriving DecidableEq, Repr

/-- R160, R164: the choice for tile `i` of `u`. -/
def pathChoice (d : TmulDesc) (u i : Nat) (a b : TileRec) : PathChoice :=
  let hc := halfOf a.fmt b.fmt
  let d2 := if i + 1 < u then hc * max d.m 128 else hc * d.m
  let t2 := 2 * (ceilDiv (d.m * b.work) (min (rateOf a.fmt) (rateOf b.fmt)) + 32)
  { sparse := b.csr && !a.csr && b.nnz * 1000 < d.cutoff * (b.rows * b.cols) && t2 ≤ d2, d2 := d2, t2 := t2 }

/-- Slot times of R164 in half cycles: a sparse tile covers the load of a dense tile after it. -/
def slotTimes (hc : Nat) : List PathChoice → List Nat
  | [] => []
  | [p] => [if p.sparse then p.t2 else p.d2]
  | p :: q :: l => (if p.sparse then (if q.sparse then p.t2 else max p.t2 (128 * hc)) else p.d2) :: slotTimes hc (q :: l)

/-- A plan from a possibly failed check. -/
def planOrFault (p : Except (Nat × Nat) Plan) : Plan :=
  match p with
  | .ok q => q
  | .error e => .badMeta e.1 e.2

/-- Whether a product of tiles accumulates in INT32. -/
def tilesInt (as : List (TileRec × Tile)) : Bool :=
  match as.head? with
  | some a => intProduct a.1.fmt
  | none => false

/-- The entries of output tile `t` of a product of tiles, from the group values of each tile. -/
def State.tileEntries (s : State) (n : Nat) (d : TmulDesc) (as bs : List (TileRec × Tile))
    (gs : Nat → Bool → Tile → Tile → Nat → Nat → List (Val × Nat)) (t : Nat) : List Entry :=
  let int := tilesInt as
  (List.range d.kt).foldl (fun es k =>
    match as[k]?, bs[t * d.kt + k]? with
    | some a, some b => addTile int a.2 b.2 (gs (t * d.kt + k) int a.2 b.2) es
    | _, _ => es) (startEntries (s.cluster n) int d.zero (d.acc + t))

/-- A product of tiles: the slots, from the group values of each tile. -/
def State.tileProduct (s : State) (n : Nat) (d : TmulDesc) (as bs : List (TileRec × Tile))
    (gs : Nat → Bool → Tile → Tile → Nat → Nat → List (Val × Nat)) : List SlotResult :=
  (List.range d.nt).map (fun t => entryResult (s.cluster n) n (d.acc + t) (tilesInt as) (s.tileEntries n d as bs gs t))

/-- Mask of `nt` slots from `acc` on. -/
def slotRun (acc nt : Nat) : Nat := (2 ^ nt - 1) * 2 ^ acc

/-- Group values of a tile pair on the path chosen for it. -/
def tmulGroups (choices : List PathChoice) (i : Nat) (int : Bool) (a b : Tile) (ra rb : Nat) : List (Val × Nat) :=
  let rowA := spreadRow (a.rows.getD ra [])
  if (choices.getD i ⟨false, 0, 0⟩).sparse then sparseGroups int rowA (b.rowPtr.getD rb 0) (b.rows.getD rb [])
  else denseGroups int rowA (spreadRow (b.rows.getD rb []))

/-- A `TMUL` checked and formed: the descriptor, duration, and slot results with the counters of R166. -/
def State.tmulParts (s : State) (n : Nat) (b : List Byte) :
    Option (Except (Nat × Nat) (TmulDesc × Nat × List SlotResult × List Eff)) :=
  match tmulFields b true with
  | none => none
  | some d => some (do
      let as ← s.takeTiles n d.aOffs (fun _ => true)
      let bs ← s.takeTiles n d.bOffs (fun r => as.all (fun a => plainPair a.1.fmt r.fmt))
      match shapeFault d as bs with
      | some addr => .error (10, addr)
      | none =>
        let u := d.kt * d.nt
        let choices := bs.zipIdx.map (fun p =>
          match as[p.2 % d.kt]? with
          | some a => pathChoice d u p.2 a.1 p.1.1
          | none => ⟨false, 0, 0⟩)
        let hc := match as.head?, bs.head? with
          | some a, some b => halfOf a.1.fmt b.1.fmt
          | _, _ => 2
        let times := slotTimes hc choices
        let saved := ((choices.map (·.d2)).sum - times.sum) / 2
        let sp := (choices.filter (·.sparse)).length
        .ok (d, ceilDiv (128 * hc + times.sum) 2 + 259, s.tileProduct n d as bs (tmulGroups choices),
          [.count (cSparseTiles n) sp, .count (cDenseTiles n) (u - sp), .count (cSavedCc n) saved]))

/-- `TMUL` (R159 to R166). -/
def planTmul (s : State) (n : Nat) (arg : BitVec 40) : Plan :=
  match s.descriptor n arg with
  | none => .bad
  | some b =>
    if slotReserved arg || slotUnits arg ≠ 0 then .bad
    else match s.tmulParts n b with
      | none => .bad
      | some r => planOrFault (r.map (fun q =>
          .ok (uArray ||| uVector 255 ||| uMiu) (slotRun q.1.acc q.1.nt) q.2.1
            (if q.1.zero then zeroEffs n (slotRun q.1.acc q.1.nt) else [])
            (joinResults n q.2.2.1 ++ q.2.2.2) false))

/-- `SSMUL` (R167, R168). -/
def planSsmul (s : State) (n : Nat) (arg : BitVec 40) : Plan :=
  match s.descriptor n arg with
  | none => .bad
  | some b =>
    match tmulFields b false with
    | none => .bad
    | some d =>
      if slotReserved arg || slotUnits arg ≠ 0 then .bad
      else planOrFault (do
        let as ← s.takeTiles n d.aOffs (·.csr)
        let bs ← s.takeTiles n d.bOffs (fun r => r.csr && as.all (fun a => sparsePair a.1.fmt r.fmt))
        match shapeFault d as bs with
        | some addr => .error (10, addr)
        | none =>
          let len (row : List (Option Nat × Val)) : Nat := (row.filter (·.1.isSome)).length
          let times := bs.zipIdx.map (fun p =>
            match as[p.2 % d.kt]? with
            | some a => (a.2.rows.flatMap (fun ra => p.1.2.rows.map (fun rb => max 1 (ceilDiv (len ra + len rb) 16)))).sum
            | none => 0)
          let rs := s.tileProduct n d as bs (fun _ int a b i j => matchGroups int (a.rows.getD i []) (b.rows.getD j []))
          .ok (.ok (uVector 255 ||| uMiu) (slotRun d.acc d.nt) (times.sum + 48)
            (if d.zero then zeroEffs n (slotRun d.acc d.nt) else []) (joinResults n rs) false))

/-- `SDDMM` (R176). -/
def planSddmm (s : State) (n : Nat) (arg : BitVec 40) : Plan :=
  match s.descriptor n arg with
  | none => .bad
  | some b =>
    let g := field b 12 4
    let fl := field b 16 1
    if slotReserved arg || slotUnits arg ≠ 0 || fl / 2 ≠ 0 || field b 17 15 ≠ 0 ||
        (field b 0 4 + 32 > nearSize) || (field b 4 4 + 32 > nearSize) || (field b 8 4 + 32 > nearSize) then .bad
    else planOrFault (do
      let y ← s.takeTile n (field b 0 4) (fun r => !r.csr)
      let x ← s.takeTile n (field b 4 4) (fun r => !r.csr && sparsePair y.1.fmt r.fmt)
      let k ← s.takeTile n (field b 8 4) (·.csr)
      if y.1.rows ≠ x.1.rows || y.1.cols ≠ k.1.rows || x.1.cols ≠ k.1.cols then .error (10, k.1.addr)
      else if g + 4 * k.1.nslots > nearSize then .ok .bad
      else
        let at' (t : Tile) (orig col : Nat) : Val :=
          match invPerm t.perm orig with
          | some i => ((t.rows.getD i []).getD col (none, .num false 0 0)).2
          | none => .num false 0 0
        let ms := List.range y.1.rows
        let old := (unpackCodes 32 (s.near n g (4 * k.1.nslots))).map fp32.decode
        let one (nn kk : Nat) (start : Val) : Val × Nat × Nat :=
          (chunks 32 ms).foldl (fun a grp =>
            accAdd false a (groupValue false (grp.map (fun m => at' y.2 m nn)) (grp.map (fun m => at' x.2 m kk))))
            (start, 0, 0)
        let slots := (k.2.rows.zip k.2.perm).flatMap (fun p => p.1.map (fun e => (e.1, p.2)))
        let out := (slots.zip old).map (fun p =>
          match p.1.1 with
          | none => (Val.num false 0 0, 0)
          | some kk =>
            let r := one p.1.2 kk (.num false 0 0)
            if bitAt fl 0 then (fAdd p.2 r.1, r.2.2 + b2n (invalidAdd p.2 r.1)) else (r.1, r.2.2))
        .ok (.ok (uVector 255) 0
          (ceilDiv (y.1.rows * k.1.nslots) (min (rateOf y.1.fmt) (rateOf x.1.fmt)) + 32) []
          (.sram (nearBase n + g) (packCodes 32 (out.map (fun p => fp32.encode .rne p.1))) ::
            eventEffs n 0 (out.map (·.2)).sum) false))

/-- `VALMAP` (R177). -/
def planValmap (s : State) (n : Nat) (arg : BitVec 40) : Plan :=
  match s.descriptor n arg with
  | none => .bad
  | some b =>
    let src := field b 4 4
    let dst := field b 8 4
    if slotReserved arg || slotUnits arg ≠ 0 || field b 12 20 ≠ 0 || field b 0 4 + 32 > nearSize then .bad
    else planOrFault (do
      let t ← s.takeTile n (field b 0 4) (fun r => r.csr && r.mapped)
      if dst + 4 * t.1.nslots > nearSize then .ok .bad
      else
        let word (j : Nat) : List Byte :=
          if j = 0xFFFF || src + 4 * j + 4 > nearSize then [0, 0, 0, 0] else s.near n (src + 4 * j) 4
        .ok (.ok (uVector 255) 0 (ceilDiv t.1.nslots 512 + 24) []
          [.sram (nearBase n + dst) (t.2.map.flatMap word)] false))

/-! ### The predictor -/

def cCmpCsr (l : Nat) : Nat := ctrKey 2 l 1
def cCmpDense (l : Nat) : Nat := ctrKey 2 l 2
def cPredAudit (l : Nat) : Nat := ctrKey 2 l 3
def cPredMiss (l : Nat) : Nat := ctrKey 2 l 4
def cPredCapped (l : Nat) : Nat := ctrKey 2 l 5

/-- The larger of an optional and a number; NaN is ignored (R178). -/
def maxNumber (m : Option Val) (v : Val) : Option Val :=
  if v.isNan then m
  else match m with
    | none => some v
    | some w => if w.lt v then some v else some w

/-- `PSELECT` (R178). -/
def planPselect (s : State) (n : Nat) (arg : BitVec 40) : Plan :=
  match s.descriptor n arg with
  | none => .bad
  | some b =>
    let m := field b 16 2
    let nt := field b 18 1
    let layer := field b 19 1
    let maxAct := field b 20 2
    let dst := field b 4 4
    let delta := fp32.decode (field b 12 4)
    let theta := fp32.decode (field b 8 4)
    let w := 128 * nt
    if slotReserved arg || slotUnits arg ≠ 0 || m = 0 || m > 128 || nt = 0 || nt > 32 || maxAct = 0 || maxAct > w ||
        field b 22 10 ≠ 0 || delta.isNan || belowZero delta || dst + 2 * (maxAct + 1) > nearSize then .bad
    else match opAddr (field b 0 4) .f32 (m * w) 0 false with
      | none => .bad
      | some a =>
        let o := s.readOperand n a .f32 (m * w) 0 false
        let best := (chunks w o.vals).foldl (fun acc row => acc.zipWith maxNumber row) (List.replicate w none)
        let cut := fSub theta delta
        let act := best.zipIdx.filterMap (fun p =>
          match p.1 with
          | some v => if cut.isNan || v.lt cut then none else some (p.2, v)
          | none => none)
        let ranked := sortBy (fun (x y : Nat × Val) => y.2.lt x.2 || (!x.2.lt y.2 && x.1 ≤ y.1)) act
        let kept := sortBy (fun x y => x ≤ y) ((ranked.take maxAct).map (·.1))
        .ok (uVector 255) o.slots (ceilDiv (m * nt) 16 + 40 * nt + 64) []
          [.sram (nearBase n + dst) ((kept.length :: kept).flatMap (leBytes 2)),
           .count (cPredCapped layer) (act.length - kept.length), .count (cSat n) o.sat,
           .count (cInvalid n) (o.inv + b2n (invalidAdd theta delta.neg))] false

/-- Rows of the audit of a tick (R182), repeats removed. -/
def auditRows (tick every m count : Nat) : List Nat :=
  ((List.range count).map (fun i => (tick / every + i) % m)).foldl (fun l r => if l.contains r then l else l ++ [r]) []

/-- Value used in a product at an unlisted reduction position: A reads +0, and a weight that is not finite is not read
(R180). -/
def finiteOrZero (v : Val) : Val := if v.isFinite then v else .num false 0 0

/-- `PMUL` (R180 to R182). -/
def planPmul (s : State) (n : Nat) (arg : BitVec 40) : Plan :=
  match s.descriptor n arg with
  | none => .bad
  | some b =>
    let fl := field b 17 1
    let mode1 := bitAt fl 1
    let st (v : Nat) : Nat := 32 * (if v = 0 then 1 else v)
    let d : TmulDesc :=
      { aMeta := field b 0 4, aStride := st (field b 4 2), bStride := st (field b 6 2), bMeta := field b 8 4
        m := field b 12 2, kt := field b 14 1, nt := field b 15 1, acc := field b 16 1
        zero := !mode1 || bitAt fl 0, cutoff := 0 }
    let maxAct := field b 18 2
    let list := field b 20 4
    let every := field b 24 2
    let arows := field b 26 1
    let layer := field b 27 1
    if slotReserved arg || slotUnits arg ≠ 0 || fl / 4 ≠ 0 || (!mode1 && bitAt fl 0) || field b 28 4 ≠ 0 ||
        d.m = 0 || d.m > 128 || d.kt = 0 || d.kt > 64 || d.nt = 0 || d.nt > 32 || d.acc + d.nt > 32 || arows > 16 ||
        maxAct = 0 || list + 2 * (maxAct + 1) > nearSize ||
        d.aMeta + (d.kt - 1) * d.aStride + 32 > nearSize || d.bMeta + (d.kt * d.nt - 1) * d.bStride + 32 > nearSize then .bad
    else planOrFault (do
      let as ← s.takeTiles n d.aOffs (fun r => !r.csr)
      let bs ← s.takeTiles n d.bOffs (fun r => !r.csr && as.all (fun a => vectorFmt r.fmt && plainPair a.1.fmt r.fmt))
      match shapeFault d as bs with
      | some addr => .error (10, addr)
      | none =>
        let cnt := leNat (s.near n list 2)
        if cnt > maxAct then .error (10, nearBase n + list)
        else
          let named := (chunks 2 (s.near n (list + 2) (2 * cnt))).map leNat
          let rate := match as.head?, bs.head? with
            | some a, some b => min (rateOf a.1.fmt) (rateOf b.1.fmt)
            | _, _ => 8192
          let hc := match as.head?, bs.head? with
            | some a, some b => halfOf a.1.fmt b.1.fmt
            | _, _ => 2
          let work (k : Nat) : Nat := if mode1 then d.m * k * (128 * d.nt) else d.m * (128 * d.kt) * k
          let auditTime (k : Nat) : Nat :=
            if mode1 || every = 0 then 0 else ceilDiv (arows * (128 * d.kt) * (128 * d.nt - k)) rate
          if ceilDiv (work maxAct) rate + 32 + auditTime 0 > mmulTime hc d.m (d.nt * d.kt) then .ok .bad
          else
            let dense (i : Nat) (int : Bool) (a b : Tile) (ra rb : Nat) : List (Val × Nat) :=
              let rowA := spreadRow (a.rows.getD ra [])
              let rowB := spreadRow (b.rows.getD rb [])
              if mode1 then
                let base := i % d.kt * 128
                let pairs := (rowA.zip rowB).zipIdx.map (fun p =>
                  if named.contains (base + p.2) then p.1 else (.num false 0 0, finiteOrZero p.1.2))
                denseGroups int (pairs.map (·.1)) (pairs.map (·.2))
              else if named.contains (i / d.kt * 128 + b.perm.getD rb 0) then denseGroups int rowA rowB
              else []
            let rs := s.tileProduct n d as bs dense
            let audit := !mode1 && every ≠ 0 && s.tick.count.toNat % every = 0
            let rows := if audit then auditRows s.tick.count.toNat every d.m arows else []
            let all (i : Nat) (int : Bool) (a b : Tile) (ra rb : Nat) : List (Val × Nat) :=
              if rows.contains (a.perm.getD ra 0) && !named.contains (i / d.kt * 128 + b.perm.getD rb 0) then
                denseGroups int (spreadRow (a.rows.getD ra [])) (spreadRow (b.rows.getD rb []))
              else []
            let unlisted := (List.range (128 * d.nt)).filter (fun k => !named.contains k)
            let checked := (List.range d.nt).flatMap (s.tileEntries n { d with zero := true } as bs all)
            let missed := (checked.filter (fun e => (Val.num false 0 0).lt e.val)).length
            .ok (.ok (uVector 255) (slotRun d.acc d.nt)
              (ceilDiv (work cnt) rate + 32 + (if audit then auditTime cnt else 0))
              (if d.zero then zeroEffs n (slotRun d.acc d.nt) else [])
              (joinResults n rs ++ (if audit then
                [.count (cPredAudit layer) (rows.length * unlisted.length), .count (cPredMiss layer) missed] else [])) false))

/-! ### The output compressor -/

/-- A record's 32 bytes with their CRC (R150). -/
def recordBytes (base fmt form rows cols nnz slots work perm layer bytes : Nat) : List Byte :=
  let b := leBytes 8 base ++ leBytes 1 fmt ++ leBytes 1 form ++ leBytes 1 rows ++ leBytes 1 cols ++ leBytes 2 nnz ++
    leBytes 2 slots ++ leBytes 2 work ++ leBytes 2 perm ++ leBytes 2 layer ++ leBytes 2 0 ++ leBytes 4 bytes
  b ++ leBytes 4 (crc32c b).toNat

/-- A plane padded to a multiple of 32 bytes. -/
def pad32 (bs : List Byte) : List Byte := bs ++ List.replicate (alignUp 32 bs.length - bs.length) 0

/-- Fields of a `COMPRESS` descriptor (R169). -/
structure CompDesc where
  src : Nat
  stride : Nat
  dst : Nat
  rows : Nat
  cols : Nat
  tiles : Nat
  fo : Fmt
  fi : Fmt
  foCode : Nat
  stoch : Bool
  topnote : Bool
  group : Bool
  denseOnly : Bool
  layer : Nat
  opSeed : Nat
  below : Val
  deriving DecidableEq, Repr

/-- R169: the descriptor's fields, if in range. -/
def compFields (b : List Byte) : Option CompDesc :=
  match Fmt.ofCode (field b 19 1 % 16), Fmt.ofCode (field b 19 1 / 16) with
  | some fo, some fi =>
    let fl := field b 20 1
    let d : CompDesc :=
      { src := field b 0 4, stride := field b 4 4, dst := field b 8 8, rows := field b 16 1, cols := field b 17 1
        tiles := field b 18 1, fo := fo, fi := fi, foCode := field b 19 1 % 16, stoch := bitAt fl 0
        topnote := bitAt fl 1, group := bitAt fl 2, denseOnly := bitAt fl 3, layer := field b 21 1
        opSeed := field b 24 4, below := fp32.decode (field b 28 4) }
    if d.rows = 0 || d.rows > 128 || d.cols = 0 || d.cols > 128 || d.tiles = 0 || d.tiles > 32 || d.stride % 32 ≠ 0 ||
        !(fo.isMx || fo.isFloat) || !(fi.isFloat || fi == .i32) || fl / 16 ≠ 0 || field b 22 2 ≠ 0 ||
        (d.topnote && !fo.isMx) || d.dst % 32 ≠ 0 then none
    else some d
  | _, _ => none

/-- A value a source element is compressed as: small ones are +0 (R169, R170). -/
def compValue (below v : Val) : Val :=
  match v with
  | .num neg m e => if below.isNan || (Val.num false m e).lt below then .num false 0 0 else .num neg m e
  | v => v

/-- R170: a source element that is an entry. -/
def isEntry (v : Val) : Bool := !v.isZero

/-- One tile as the compressor writes it: the data block, the record without its address, and blocks that count in
`VANISH`. -/
structure CompTile where
  data : List Byte
  csr : Bool
  nnz : Nat
  nslots : Nat
  work : Nat
  perm : Nat
  vanish : Nat
  deriving DecidableEq, Repr

/-- Size of a plane-structured block of a tile in a form (R151). -/
def blockSize (d : CompDesc) (csr : Bool) (slots : Nat) (perm : Bool) : Nat :=
  let r : TileRec :=
    { addr := 0, base := 0, fmtByte := d.foCode, form := b2n csr, scaled := d.fo.isMx, topnote := d.topnote
      mapped := false, formHigh := 0, rows := d.rows, cols := d.cols, nnz := 0, nslots := slots, work := 0
      perm := b2n perm, layer := 0, rsv := 0, bytes := 0, crcOk := true }
  r.planes.sum

/-- VALUE, SCALE and SIDE planes of rows of blocks: each block is a list of values with their source positions. -/
def mxPlanes (d : CompDesc) (st : Stoch) (blocks : List (List (Val × Nat))) : List Byte × Nat :=
  let bs := blocks.map (fun b => encodeBlock d.fo d.topnote (b.map (·.1)) (b.map (fun p => modeAt st p.2)))
  (pad32 (packCodes d.fo.bits (bs.flatMap (·.codes))) ++ pad32 (bs.map (fun b => BitVec.ofNat 8 b.scale)) ++
    (if d.topnote then pad32 (bs.flatMap (·.side)) else []), (bs.filter (·.vanish)).length)

/-- The planes of values in a plain format, each row padded to a whole byte. -/
def plainPlane (d : CompDesc) (st : Stoch) (rows : List (List (Val × Nat))) : List Byte :=
  let st := if stochFmt d.fo then st else none
  pad32 (rows.flatMap (fun r => packCodes d.fo.bits (r.map (fun p => (d.fo.encode (modeAt st p.2) p.1).code))))

/-- R170 to R173: one tile from its rows of values with source positions. -/
def compressTile (d : CompDesc) (st : Stoch) (rows : List (List (Val × Nat))) : CompTile :=
  let entries := rows.map (fun r => r.zipIdx.filter (fun p => isEntry p.1.1))
  let nnz := (entries.map (·.length)).sum
  let unit := if d.fo.isMx then 32 else 1
  let counts := entries.map (fun e => alignUp unit e.length)
  let slots := counts.sum
  let dense := blockSize d false 0 false
  let csrSize := blockSize d true slots d.group
  if csrSize < dense && !d.denseOnly then
    let order := if d.group then
        (sortBy (fun (a b : Nat × Nat) => b.1 < a.1 || (a.1 = b.1 && a.2 ≤ b.2)) counts.zipIdx).map (·.2)
      else List.range d.rows
    let sorted := order.map (fun i => entries.getD i [])
    let scounts := order.map (fun i => counts.getD i 0)
    let permPlane := if d.group then (order ++ List.replicate (128 - d.rows) 255).map (BitVec.ofNat 8) else []
    let ptrs := scounts.foldl (fun l c => l ++ [l.getLastD 0 + c]) [0]
    let index := sorted.flatMap (fun e =>
      e.map (fun p => BitVec.ofNat 8 p.2) ++ List.replicate (alignUp unit e.length - e.length) (0xFF#8))
    let vals := if d.fo.isMx then mxPlanes d st (sorted.flatMap (fun e => chunks 32 (e.map (·.1))))
      else (plainPlane d st [sorted.flatMap (fun e => e.map (·.1))], 0)
    { data := permPlane ++ pad32 (ptrs.flatMap (leBytes 2)) ++ pad32 index ++ vals.1
      csr := true, nnz := nnz, nslots := slots, work := workOf scounts, perm := b2n d.group, vanish := vals.2 }
  else
    let vals := if d.fo.isMx then mxPlanes d st (rows.flatMap (chunks 32)) else (plainPlane d st rows, 0)
    { data := vals.1, csr := false, nnz := nnz, nslots := 0, work := 0, perm := 0, vanish := vals.2 }

/-- `COMPRESS` (R169 to R174). -/
def planCompress (s : State) (n : Nat) (arg : BitVec 40) : Plan :=
  match s.descriptor n arg with
  | none => .bad
  | some b =>
    match compFields b with
    | none => .bad
    | some d =>
      let wb := windowBase (n / 16)
      let dense := blockSize d false 0 false
      let last := d.dst + (d.tiles - 1) * d.stride + 32 + dense
      let total := d.tiles * d.rows * d.cols
      let isAcc := bitAt d.src 31
      let addr := if isAcc then opAddr d.src d.fi 1 0 false else opAddr d.src d.fi total 0 false
      match addr with
      | none => .bad
      | some a =>
        let accBad := match a with
          | .acc idx => idx % 16384 ≠ 0 || idx / 16384 + d.tiles > 32
          | .near _ => false
        if slotReserved arg || slotUnits arg ≠ 0 || d.stride < 32 + dense || d.dst < wb || last > wb + 0x1000000000 ||
            accBad then .bad
        else
          let fault := (List.range d.tiles).findSome? (fun t => s.rangeFault (n / 16) (d.dst + t * d.stride) (32 + dense))
          match fault with
          | some f => .refuse f.1 f.2
          | none =>
            let whole := match a with
              | .near _ => chunks (d.tiles * d.cols) (s.readOperand n a d.fi total 0 false).vals
              | .acc _ => []
            let ops (t : Nat) : List Operand :=
              match a with
              | .acc idx => (List.range d.rows).map (fun m =>
                  readAcc (s.cluster n) (d.fi == .i32) (idx + t * 16384 + 128 * m) d.cols)
              | .near _ => []
            let src (t : Nat) : List (List Val) :=
              match a with
              | .acc _ => (ops t).map (·.vals)
              | .near _ => whole.map (fun r => (r.drop (t * d.cols)).take d.cols)
            let rows (t : Nat) : List (List (Val × Nat)) := (src t).zipIdx.map (fun r => r.1.zipIdx.map (fun e =>
              (compValue d.below e.1, t * d.rows * d.cols + r.2 * d.cols + e.2)))
            let st := s.stochOf n d.opSeed (d.stoch && d.fi.isFloat)
            let tiles := (List.range d.tiles).map (fun t => (t, compressTile d st (rows t)))
            let effs := tiles.flatMap (fun p =>
              let at' := d.dst + p.1 * d.stride
              let r := p.2
              let form := b2n r.csr + 4 * b2n d.fo.isMx + 8 * b2n d.topnote
              [Eff.mem (at' + 32) 0 r.data,
               .mem at' 0 (recordBytes (at' + 32) d.foCode form d.rows d.cols r.nnz r.nslots r.work r.perm d.layer
                 r.data.length)])
            let read := (List.range d.tiles).flatMap ops
            .ok uCompress (match a with
                | .acc idx => slotRun (idx / 16384) d.tiles
                | .near _ => 0)
              (d.tiles * (2 * ceilDiv (d.rows * d.cols) 512 + 48)) []
              (effs ++ [.count (cVanish d.layer) (tiles.map (·.2.vanish)).sum,
                .count (cCmpCsr d.layer) (tiles.filter (·.2.csr)).length,
                .count (cCmpDense d.layer) (tiles.filter (fun p => !p.2.csr)).length,
                .count (cSat n) (read.map (·.sat)).sum, .count (cInvalid n) (read.map (·.inv)).sum]) false

end Sys2Proof.Machine
end

