-- ==== Sys2Proof/Machine/Communicate.lean ====
section
/-! DEFINITION. Collective descriptors and tree tables (R427, R428) and the compute-and-communicate operations of a
cluster (R422 to R424). -/

namespace Sys2Proof.Machine

/-- The loaded sections of a type that serve a die. -/
def State.sectionsOf (s : State) (typ d : Nat) : List Section :=
  s.job.sections.filter (fun x => x.typ = typ && (x.die = d || x.die = 255))

/-- The bytes of a die's section of a type. -/
def State.sectionBytes (s : State) (typ d : Nat) : List Byte := ((s.sectionsOf typ d).head?.map (·.bytes)).getD []

/-- A collective descriptor (R427). -/
structure CollDesc where
  kind : Nat
  scope : Nat
  windfall : Bool
  rop : Nat
  dfmt : Nat
  wfmt : Nat
  trees : Nat
  window : Nat
  len : Nat
  chunk : Nat
  nodes : Nat
  tree : Nat
  pta : Nat
  ptaLen : Nat
  rcluster : Nat
  crec : Nat
  deriving DecidableEq, Repr

/-- R427: the fields of a 64-byte entry. -/
def collDescOf (b : List Byte) : CollDesc :=
  { kind := field b 0 1 % 8, scope := field b 1 1 % 8, windfall := bitAt (field b 1 1) 3, rop := field b 2 1
    dfmt := field b 3 1, wfmt := field b 4 1, trees := field b 5 1, window := field b 6 2, len := field b 8 4
    chunk := field b 12 2, nodes := field b 14 2 + 1, tree := field b 16 8, pta := field b 24 8
    ptaLen := field b 32 4, rcluster := field b 36 4 % 64, crec := field b 40 8 }

/-- The collective descriptor of a die, if its table holds the index. -/
def State.collDesc (s : State) (d i : Nat) : Option CollDesc :=
  let t := s.sectionBytes 7 d
  if 64 * i + 64 ≤ t.length then some (collDescOf (byteField t (64 * i) 64)) else none

/-- A tree-table record (R428). -/
structure TreeRec where
  coord : Nat
  die : Nat
  parent : Nat
  clusters : Nat
  deriving DecidableEq, Repr

/-- R428: a tree record of 8 bytes. -/
def treeRecOf (v : Nat) : TreeRec :=
  { coord := bitsOf v 0 16, die := bitsOf v 16 2, parent := bitsOf v 32 16, clusters := bitsOf v 48 16 }

/-- The records of tree `t` of a descriptor. -/
def State.treeOf (s : State) (c : CollDesc) (t : Nat) : List TreeRec :=
  (chunks 8 (s.readLocal (c.tree + t * alignUp 32 (8 * c.nodes)) (8 * c.nodes))).map (fun b => treeRecOf (leNat b))

/-- Node index of a die of this device. -/
def State.nodeIndex (s : State) (tree : List TreeRec) (d : Nat) : Option Nat :=
  tree.findIdx? (fun r => r.coord = s.fab.coord.toNat && r.die = d)

/-- R422: the participating clusters of a die in a descriptor. -/
def State.collClusters (s : State) (d i : Nat) : Nat :=
  match s.collDesc d i with
  | none => 0
  | some c =>
    let tree := s.treeOf c 0
    match s.nodeIndex tree d with
    | none => 0
    | some k => (tree[k]?.map (·.clusters)).getD 0

/-- The 64-byte descriptor of a compute-and-communicate slot (R424), if it lies in near SRAM on a 64-byte boundary. -/
def State.wideDescriptor (s : State) (n : Nat) (arg : BitVec 40) : Option (List Byte) :=
  let off := bitsOf arg.toNat 0 20 * 32
  if off % 64 = 0 && off + 64 ≤ nearSize then some (s.near n off 64) else none

/-- The communication half (R424). -/
structure CommHalf where
  cdesc : Nat
  src : Nat
  dst : Nat
  desc : CollDesc
  deriving DecidableEq, Repr

/-- R424: the communication half, if in range: `SRC` names `LEN` bytes in `DFMT`. -/
def State.commHalf (s : State) (n : Nat) (arg : BitVec 40) (b : List Byte) : Option CommHalf :=
  let cd := field b 32 2
  match s.collDesc (n / 16) cd with
  | none => none
  | some c =>
    if slotReserved arg || slotUnits arg ≠ 0 || field b 34 2 ≠ 0 || field b 44 20 ≠ 0 || field b 40 4 ≥ nearSize then none
    else some { cdesc := cd, src := field b 36 4, dst := field b 40 4, desc := c }

/-- Elements of a contribution. -/
def CollDesc.elems (c : CollDesc) : Nat := if c.dfmt = 10 then c.len / 2 else c.len / 4

/-- R424: what posting `SRC` does, and the slots it touches. -/
def State.postSource (s : State) (n : Nat) (h : CommHalf) : Option (Nat × List Eff) :=
  let f := if h.desc.dfmt = 0 then Fmt.u8 else (Fmt.ofCode h.desc.dfmt).getD .f32
  match opAddr h.src f (if bitAt h.src 31 then h.desc.elems else if h.desc.dfmt = 0 then h.desc.len else h.desc.elems) 0 false with
  | none => none
  | some (.near off) => some (0, [.post n h.cdesc (s.near n off h.desc.len)])
  | some (.acc idx) =>
    let c := accContribution h.desc.dfmt (s.cluster n) idx h.desc.elems
    some (slotsOf idx h.desc.elems, [.post n h.cdesc c.1] ++ eventEffs n c.2.1 c.2.2)

/-- R424: reading a contribution takes 2,048 bytes per cc. -/
def postTime (len : Nat) : Nat := ceilDiv len 2048

/-- `MMUL_POST` and `MMULZ_POST`. -/
def State.planProductPost (s : State) (n : Nat) (arg : BitVec 40) (zero : Bool) : Plan :=
  match s.wideDescriptor n arg with
  | none => .bad
  | some b =>
    match s.commHalf n arg b, State.mmulFields b with
    | some h, some d =>
      if h.src ≠ 0 then .bad
      else .ok uArray (productSlots d) (productTime d + postTime h.desc.len) [.collDst n h.cdesc h.dst]
        (joinResults n (s.productTiles n d zero) ++ [.postAcc n h.cdesc (productSlots d) h.desc.len h.desc.dfmt]) false
    | _, _ => .bad

def planMmulPost (s : State) (n : Nat) (arg : BitVec 40) : Plan := s.planProductPost n arg false
def planMmulzPost (s : State) (n : Nat) (arg : BitVec 40) : Plan := s.planProductPost n arg true

/-- Units of `TMUL` (R157). -/
def uTmul : Nat := uArray + uVector 255 + uMiu

/-- `TMUL_POST`. -/
def planTmulPost (s : State) (n : Nat) (arg : BitVec 40) : Plan :=
  match s.wideDescriptor n arg with
  | none => .bad
  | some b =>
    match s.commHalf n arg b, s.tmulParts n b with
    | some h, some p =>
      if h.src ≠ 0 then .bad
      else match p with
        | .error e => .badMeta e.1 e.2
        | .ok (d, dur, rs, cs) =>
          .ok uTmul (slotRun d.acc d.nt) (dur + postTime h.desc.len)
            ((if d.zero then zeroEffs n (slotRun d.acc d.nt) else []) ++ [.collDst n h.cdesc h.dst])
            (joinResults n rs ++ cs ++ [.postAcc n h.cdesc (slotRun d.acc d.nt) h.desc.len h.desc.dfmt]) false
    | _, _ => .bad

/-- `POST` and `GET`: bytes 0 to 31 are reserved (R423). -/
def State.planPosting (s : State) (n : Nat) (arg : BitVec 40) : Plan :=
  match s.wideDescriptor n arg with
  | none => .bad
  | some b =>
    match s.commHalf n arg b with
    | none => .bad
    | some h =>
      if field b 0 32 ≠ 0 then .bad
      else match s.postSource n h with
        | none => .bad
        | some (slots, es) => .ok 0 slots (postTime h.desc.len) [.collDst n h.cdesc h.dst] es false

def planPost (s : State) (n : Nat) (arg : BitVec 40) : Plan := s.planPosting n arg
def planGet (s : State) (n : Nat) (arg : BitVec 40) : Plan := s.planPosting n arg

/-- `GET_MMUL`: it claims the array and the slots of its product at once; its product runs when the result has come. -/
def planGetMmul (s : State) (n : Nat) (arg : BitVec 40) : Plan :=
  match s.wideDescriptor n arg with
  | none => .bad
  | some b =>
    match s.commHalf n arg b, State.mmulFields b with
    | some h, some d =>
      match s.postSource n h with
      | none => .bad
      | some (_, es) => .ok uArray (productSlots d) (postTime h.desc.len) [.collDst n h.cdesc h.dst] es false
    | _, _ => .bad

/-- `GET_TMUL`. -/
def planGetTmul (s : State) (n : Nat) (arg : BitVec 40) : Plan :=
  match s.wideDescriptor n arg with
  | none => .bad
  | some b =>
    match s.commHalf n arg b, tmulFields b true with
    | some h, some d =>
      match s.postSource n h with
      | none => .bad
      | some (_, es) => .ok uTmul (slotRun d.acc d.nt) (postTime h.desc.len) [.collDst n h.cdesc h.dst] es false
    | _, _ => .bad

/-- The compute half of a `GET` form, once its result has come: `ZERO_START` then (DEDUCED, log 45), duration and writes. -/
def State.planThen (s : State) (n : Nat) (op : Nat) (b : List Byte) : Plan :=
  if op = 0x10 then
    match State.mmulFields b with
    | none => .bad
    | some d => .ok uArray (productSlots d) (productTime d) [] (joinResults n (s.productTiles n d false)) false
  else
    match s.tmulParts n b with
    | none => .bad
    | some (.error e) => .badMeta e.1 e.2
    | some (.ok (d, dur, rs, cs)) => .ok uTmul (slotRun d.acc d.nt) dur
        (if d.zero then zeroEffs n (slotRun d.acc d.nt) else []) (joinResults n rs ++ cs) false

end Sys2Proof.Machine
end

