-- ==== Sys2Proof/Machine/Gather.lean ====
section
/-! DEFINITION. Moves and the gather engine of a cluster (R302 to R305): `NLOAD`, `NSTORE`, `GATHER`, `GATHER_SUM`,
`SCATTER` and `SCATTER_ADD`, with the rates and latencies of R290 and R301. -/

namespace Sys2Proof.Machine

/-- R290: unloaded latency of a read by a unit of cluster `n` (DEDUCED, log 82). -/
def State.latency (s : State) (n a : Nat) : Nat :=
  let far (base dst : Nat) : Nat := base + (match (bridgesOf (dieRoute (n / 16) dst)).length with
    | 0 => 0
    | 1 => 180
    | _ => 300)
  match s.place a with
  | .sram b =>
    let d := (b - 0xF00000000000) / 0x1000000000
    let w := b % 0x1000000000
    if w < 0x20000000 then
      let m := 16 * d + w / nearSize
      far (if m = n then 8 else if m / 4 = n / 4 then 40 else 64) d
    else far (if 4 * d + (w - 0x100000000) / sliceSize = n / 4 then 48 else 72) d
  | .hbm h =>
    let d := h / stackSpan / 2
    far (if (Tab.get [] (s.partKey (h / 256)) s.parts).any (fun l => l.line = h / 256) && s.job.cache ≠ 0 then 80 else 360) d
  | _ => 8

/-- R301: bytes per cc of the path between a die and a place. -/
def State.pathRate (s : State) (d a : Nat) : Nat :=
  let p := s.place a
  let own := match p with
    | .sram b => if b % 0x1000000000 < 0x20000000 then 2048 else 2731
    | .hbm _ => 2458
    | _ => 2048
  match placeDie p with
  | some e => if e = d then own else min own 2500
  | none => own

/-- R24, R300: an address of a program's own transfer; none if it names another device. -/
def State.ownAddr (s : State) (a : Nat) : Option Nat := s.localOf a

/-- Row starts of a move. -/
def rowStarts (base pitch rows : Nat) : List Nat := (List.range rows).map (fun i => base + i * pitch)

/-- Fields of a move descriptor (R302). -/
structure MoveDesc where
  far : Nat
  nearOff : Nat
  len : Nat
  rows : Nat
  hint : Nat
  fpitch : Nat
  npitch : Nat
  deriving DecidableEq, Repr

/-- R302: the descriptor's fields, if in range; `FAR` as a local address. -/
def State.moveFields (s : State) (n : Nat) (arg : BitVec 40) : Option MoveDesc :=
  match s.descriptor n arg with
  | none => none
  | some b =>
    match s.ownAddr (field b 0 8) with
    | none => none
    | some far =>
      let d : MoveDesc := { far := far, nearOff := field b 8 4, len := field b 12 4, rows := field b 16 2
                            hint := field b 18 1, fpitch := field b 20 4, npitch := field b 24 4 }
      let nb := nearBase n
      let own (a : Nat) : Bool := d.len ≠ 0 && a < nb + nearSize && nb < a + d.len
      if slotReserved arg || slotUnits arg ≠ 0 || far % 32 ≠ 0 || d.len % 32 ≠ 0 || d.rows = 0 || d.hint > 3 ||
          field b 19 1 ≠ 0 || field b 28 4 ≠ 0 ||
          d.nearOff + (d.rows - 1) * d.npitch + d.len > nearSize ||
          (rowStarts far d.fpitch d.rows).any own then none
      else some d

/-- Pages that a list of ranges touches and that are not resident, each once (R328). -/
def State.missedPages (s : State) (ranges : List (Nat × Nat)) : List Nat :=
  (ranges.flatMap (fun r => s.missingPages r.1 r.2)).eraseDups

/-- First fault of a list of ranges. -/
def State.rangesFault (s : State) (src : Nat) (ranges : List (Nat × Nat)) : Option (Nat × Nat) :=
  ranges.findSome? (fun r => s.rangeFault src r.1 r.2)

/-- R302: duration of a move. -/
def State.moveTime (s : State) (n : Nat) (d : MoveDesc) : Nat :=
  40 + ceilDiv (d.rows * d.len) (min 2048 (s.pathRate (n / 16) d.far))

/-- `NLOAD` (R302). -/
def planNload (s : State) (n : Nat) (arg : BitVec 40) : Plan :=
  match s.moveFields n arg with
  | none => .bad
  | some d =>
    let ranges := (rowStarts d.far d.fpitch d.rows).map (·, d.len)
    match s.rangesFault (n / 16) ranges with
    | some f => .refuse f.1 f.2
    | none =>
      let writes := ranges.zipIdx.map (fun r => Eff.sram (nearBase n + d.nearOff + r.2 * d.npitch) (s.readLocal r.1.1 d.len))
      .ok uGather 0 (s.moveTime n d)
        (.count cStageMiss (s.missedPages ranges).length :: ranges.map (fun r => Eff.touch r.1 r.2 d.hint)) writes false

/-- `NSTORE` (R302). -/
def planNstore (s : State) (n : Nat) (arg : BitVec 40) : Plan :=
  match s.moveFields n arg with
  | none => .bad
  | some d =>
    let ranges := (rowStarts d.far d.fpitch d.rows).map (·, d.len)
    match s.rangesFault (n / 16) ranges with
    | some f => .refuse f.1 f.2
    | none =>
      let writes := ranges.zipIdx.map (fun r => Eff.mem r.1.1 d.hint (s.near n (d.nearOff + r.2 * d.npitch) d.len))
      .ok uGather 0 (s.moveTime n d) [.count cStageMissW (s.missedPages ranges).length] writes false

/-- Fields of a gather descriptor (R303). -/
structure GatherDesc where
  table : Nat
  index : Nat
  nearOff : Nat
  count : Nat
  rowBytes : Nat
  hint : Nat
  fmt : Nat
  bag : Nat
  tableId : Nat
  nrows : Nat
  deriving DecidableEq, Repr

/-- R303: the descriptor's fields, if in range; `fmts` are the formats and `bags` whether `BAG` is used, `out` the
bytes of near SRAM that the dense rows take. -/
def State.gatherFields (s : State) (n : Nat) (arg : BitVec 40) (fmts : List Nat) (bags : Bool) : Option GatherDesc :=
  match s.descriptor n arg with
  | none => none
  | some b =>
    match s.ownAddr (field b 0 8) with
    | none => none
    | some table =>
      let d : GatherDesc := { table := table, index := field b 8 4, nearOff := field b 12 4, count := field b 16 4
                              rowBytes := field b 20 2, hint := field b 22 1, fmt := field b 23 1, bag := field b 24 2
                              tableId := field b 26 2, nrows := field b 28 4 }
      let width := if d.fmt = 12 then 4 else 2
      let out := if bags then d.count / (max d.bag 1) * (4 * (d.rowBytes / width)) else d.count * d.rowBytes
      if slotReserved arg || slotUnits arg ≠ 0 || table % 32 ≠ 0 || d.count = 0 || d.count > 65536 || d.rowBytes < 32 ||
          d.rowBytes > 4096 || d.rowBytes % 32 ≠ 0 || d.hint > 3 || !fmts.contains d.fmt ||
          (if bags then d.bag = 0 || d.count % d.bag ≠ 0 else d.bag ≠ 0) ||
          d.index + 4 * d.count > nearSize || d.nearOff + out > nearSize then none
      else some d

/-- The indices of a gather. -/
def State.gatherIndices (s : State) (n : Nat) (d : GatherDesc) : List Nat :=
  (chunks 4 (s.near n d.index (4 * d.count))).map leNat

/-- R305, R329: the default row that stands for a missed row of a table. -/
def State.defaultRow (s : State) (id bytes : Nat) : List Byte :=
  match Tab.find id s.und.tables with
  | some t => s.readLocal t.dflt bytes
  | none => List.replicate bytes 0

/-- Address of a table row. -/
def GatherDesc.rowAt (d : GatherDesc) (i : Nat) : Nat := d.table + i * d.rowBytes

/-- Ranges of the rows in range. -/
def GatherDesc.ranges (d : GatherDesc) (ix : List Nat) : List (Nat × Nat) :=
  (ix.filter (· < d.nrows)).map (fun i => (d.rowAt i, d.rowBytes))

/-- R305: a table row as a gather reads it. -/
def State.gatherRow (s : State) (d : GatherDesc) (i : Nat) : List Byte :=
  if d.nrows ≤ i then List.replicate d.rowBytes 0
  else if (s.missingPages (d.rowAt i) d.rowBytes).isEmpty then s.readLocal (d.rowAt i) d.rowBytes
  else s.defaultRow d.tableId d.rowBytes

/-- R574: `STAGE_MISS` of a table's gathers. -/
def cTableMiss (id : Nat) : Nat := ctrKey 9 id 0

/-- R305, R329: the default row of a table is read once for each of its missed rows. -/
def State.defaultReads (s : State) (d : GatherDesc) (misses : Nat) : List Eff :=
  match Tab.find d.tableId s.und.tables with
  | some t => List.replicate misses (.touch t.dflt d.rowBytes d.hint)
  | none => []

/-- What a gather counts and touches when it issues. -/
def State.gatherNow (s : State) (n : Nat) (d : GatherDesc) (ix : List Nat) : List Eff :=
  let miss := (ix.filter (fun i => i < d.nrows && !(s.missingPages (d.rowAt i) d.rowBytes).isEmpty)).length
  [.count (cGatherOor n) (ix.filter (d.nrows ≤ ·)).length, .count cStageMiss miss] ++
    (if d.tableId = 0 then [] else [.count (cTableMiss d.tableId) miss]) ++
    (d.ranges ix).map (fun r => .touch r.1 r.2 d.hint) ++ s.defaultReads d miss

/-- R305: duration of a gather operation. -/
def State.gatherTime (s : State) (n : Nat) (d : GatherDesc) : Nat := 64 + d.count + s.latency n d.table

/-- `GATHER`. -/
def planGather (s : State) (n : Nat) (arg : BitVec 40) : Plan :=
  match s.gatherFields n arg [0] false with
  | none => .bad
  | some d =>
    let ix := s.gatherIndices n d
    match s.rangesFault (n / 16) (d.ranges ix) with
    | some f => .refuse f.1 f.2
    | none =>
      .ok uGather 0 (s.gatherTime n d) (s.gatherNow n d ix)
        [.sram (nearBase n + d.nearOff) (ix.flatMap (s.gatherRow d))] false

/-- The elements of a row in a format. -/
def rowElems (fmt : Nat) (row : List Byte) : List Val :=
  let f := if fmt = 10 then Fmt.b16 else if fmt = 11 then .h16 else .f32
  (unpackCodes f.bits row).map f.decode

/-- `GATHER_SUM`: each bag starts at +0.0 and adds its rows in index order (R304). -/
def planGatherSum (s : State) (n : Nat) (arg : BitVec 40) : Plan :=
  match s.gatherFields n arg [10, 11, 12] true with
  | none => .bad
  | some d =>
    let ix := s.gatherIndices n d
    match s.rangesFault (n / 16) (d.ranges ix) with
    | some f => .refuse f.1 f.2
    | none =>
      let width := if d.fmt = 12 then 4 else 2
      let zero := List.replicate (d.rowBytes / width) ((Val.num false 0 0, 0) : Val × Nat)
      let sums := (chunks d.bag ix).map (fun bag => bag.foldl (fun acc i =>
        acc.zipWith (fun a v => (fAdd a.1 v, a.2 + b2n (invalidAdd a.1 v))) (rowElems d.fmt (s.gatherRow d i))) zero)
      .ok uGather 0 (s.gatherTime n d) (s.gatherNow n d ix)
        [.sram (nearBase n + d.nearOff) (packCodes 32 (sums.flatMap (fun r => r.map (fun v => fp32.encode .rne v.1)))),
         .count (cInvalid n) (sums.flatMap (fun r => r.map (·.2))).sum] false

/-- What a scatter counts when it issues. -/
def State.scatterNow (s : State) (n : Nat) (d : GatherDesc) (ix : List Nat) : List Eff :=
  [.count (cGatherOor n) (ix.filter (d.nrows ≤ ·)).length,
   .count cStageMissW (ix.filter (fun i => i < d.nrows && !(s.missingPages (d.rowAt i) d.rowBytes).isEmpty)).length]

/-- `SCATTER`: rows are written in index order (R304). -/
def planScatter (s : State) (n : Nat) (arg : BitVec 40) : Plan :=
  match s.gatherFields n arg [0] false with
  | none => .bad
  | some d =>
    let ix := s.gatherIndices n d
    match s.rangesFault (n / 16) (d.ranges ix) with
    | some f => .refuse f.1 f.2
    | none =>
      let rows := chunks d.rowBytes (s.near n d.nearOff (d.count * d.rowBytes))
      let writes := (ix.zip rows).filterMap (fun p =>
        if d.nrows ≤ p.1 || !(s.missingPages (d.rowAt p.1) d.rowBytes).isEmpty then none
        else some (Eff.mem (d.rowAt p.1) d.hint p.2))
      .ok uGather 0 (s.gatherTime n d) (s.scatterNow n d ix) writes false

/-- `SCATTER_ADD`: updates apply in index order (R304). -/
def planScatterAdd (s : State) (n : Nat) (arg : BitVec 40) : Plan :=
  match s.gatherFields n arg [12] false with
  | none => .bad
  | some d =>
    let ix := s.gatherIndices n d
    match s.rangesFault (n / 16) (d.ranges ix) with
    | some f => .refuse f.1 f.2
    | none =>
      let rows := chunks d.rowBytes (s.near n d.nearOff (d.count * d.rowBytes))
      let live := (ix.zip rows).filter (fun p => p.1 < d.nrows && (s.missingPages (d.rowAt p.1) d.rowBytes).isEmpty)
      let out := live.foldl (fun (acc : Tab (List Val) × Nat) p =>
        let old := (Tab.find p.1 acc.1).getD (rowElems 12 (s.readLocal (d.rowAt p.1) d.rowBytes))
        let add := rowElems 12 p.2
        (Tab.put p.1 (old.zipWith fAdd add) acc.1,
         acc.2 + (old.zipWith (fun a b => b2n (invalidAdd a b)) add).sum)) ([], 0)
      .ok uGather 0 (s.gatherTime n d)
        (s.scatterNow n d ix ++ live.map (fun p => .touch (d.rowAt p.1) d.rowBytes d.hint))
        (out.1.map (fun p => Eff.mem (d.rowAt p.1) d.hint (packCodes 32 (p.2.map (fp32.encode .rne)))) ++
          [.count (cInvalid n) out.2]) false

end Sys2Proof.Machine
end

