-- ==== Sys2Proof/Machine/Vector.lean ====
section
/-! DEFINITION. The vector operations of a cluster (R134 to R142) and the fused kernels, forward (R139, R140) and
backward (R267, R275 to R280): each operation as a function of its descriptor. -/

namespace Sys2Proof.Machine

/-- The fields of a vector descriptor (R135). -/
structure VecDesc where
  src0 : Nat
  src1 : Nat
  src2 : Nat
  dst : Nat
  count : Nat
  rowlen : Nat
  fs : Fmt
  fd : Fmt
  stoch : Bool
  topnote : Bool
  descend : Bool
  side : Bool
  opSeed : Nat
  imm : Val
  units : Nat
  deriving DecidableEq, Repr

/-- R135, R116: the vector descriptor of a slot, if every field is in range. -/
def State.vecDesc (s : State) (n : Nat) (arg : BitVec 40) : Option VecDesc :=
  match s.descriptor n arg with
  | none => none
  | some b =>
    let fmt := field b 22 1
    let flags := field b 23 1
    match Fmt.ofCode (fmt % 16), Fmt.ofCode (fmt / 16) with
    | some fs, some fd =>
      let v : VecDesc :=
        { src0 := field b 0 4, src1 := field b 4 4, src2 := field b 8 4, dst := field b 12 4, count := field b 16 4
          rowlen := field b 20 2, fs := fs, fd := fd, stoch := bitAt flags 0, topnote := bitAt flags 1
          descend := bitAt flags 2, side := bitAt flags 3, opSeed := field b 24 4, imm := fp32.decode (field b 28 4)
          units := slotUnits arg }
      if slotReserved arg || v.units = 0 || flags / 16 ≠ 0 || v.count = 0 || v.count > 16777216 ||
          (v.rowlen ≠ 0 && v.count % v.rowlen ≠ 0) || (v.topnote && !fd.isMx) || (v.side && !fs.isMx) then none
      else some v
    | _, _ => none

/-- R84, R134: formats of vector arithmetic. -/
def arithFmt (f : Fmt) : Bool := f.isFloat || f == .i8 || f == .u8 || f == .i16 || f == .i32

/-- The lanes of one unit for arithmetic in a format (R134). -/
def lanesOf (f : Fmt) : Nat :=
  match f with
  | .b16 | .h16 => 512
  | .i8 | .u8 => 1024
  | _ => 256

/-- R599: an accumulator destination takes FP32 or INT32 only. -/
def dstOk (a : OpAddr) (f : Fmt) : Bool :=
  match a with
  | .acc _ => f == .f32 || f == .i32
  | .near _ => true

/-- Duration of an elementwise operation (R134). -/
def elemTime (count u lanes latency : Nat) : Nat := ceilDiv count (u * lanes) + latency

/-- The sources of each element, in source order. -/
def zipSources (count : Nat) (srcs : List (List Val)) : List (List Val) :=
  srcs.foldl (fun acc vs => acc.zipWith (fun l v => l ++ [v]) vs) (List.replicate count [])

/-- An elementwise operation with sources `srcs` and the function of one element: value, and whether it was invalid (DEDUCED, log 36). -/
def State.elementwise (s : State) (n : Nat) (v : VecDesc) (srcs : List Nat) (lanes latency : Nat) (stoch : Bool)
    (f : List Val → Val × Bool) : Plan :=
  match srcs.mapM (fun a => opAddr a v.fs v.count v.rowlen v.side),
        opAddr v.dst v.fd v.count v.rowlen v.topnote with
  | some as, some d =>
    if !dstOk d v.fd then .bad
    else
      let ops := as.map (fun a => s.readOperand n a v.fs v.count v.rowlen v.side)
      let rows := (zipSources v.count (ops.map (·.vals))).map f
      let w := s.writeOperand n d v.fd v.rowlen v.topnote (s.stochOf n v.opSeed stoch) (rows.map (·.1))
      let slots := (ops.map (·.slots)).foldl (· ||| ·) w.slots
      let sat := (ops.map (·.sat)).sum + w.sat
      let inv := (ops.map (·.inv)).sum + w.inv + (rows.filter (·.2)).length
      .ok (uVector v.units) slots (elemTime v.count (popBits 8 v.units) lanes latency) []
        (w.effs ++ eventEffs n sat inv) false
  | _, _ => .bad

/-- Elementwise arithmetic with two or three sources (R136). -/
def State.vecArith (s : State) (n : Nat) (arg : BitVec 40) (k : Nat) (f : VecDesc → List Val → Val × Bool) : Plan :=
  match s.vecDesc n arg with
  | none => .bad
  | some v =>
    if !arithFmt v.fs || !arithFmt v.fd then .bad
    else s.elementwise n v ([v.src0, v.src1, v.src2].take k) (lanesOf v.fs) 12 false (f v)

/-- First, second and third source of an element. -/
def a0 (l : List Val) : Val := l.getD 0 .nan
def a1 (l : List Val) : Val := l.getD 1 .nan
def a2 (l : List Val) : Val := l.getD 2 .nan

def planVadd (s : State) (n : Nat) (arg : BitVec 40) : Plan :=
  s.vecArith n arg 2 (fun _ l => ((a0 l).add (a1 l), invalidAdd (a0 l) (a1 l)))

def planVmul (s : State) (n : Nat) (arg : BitVec 40) : Plan :=
  s.vecArith n arg 2 (fun _ l => ((a0 l).mul (a1 l), invalidMul (a0 l) (a1 l)))

def planVfma (s : State) (n : Nat) (arg : BitVec 40) : Plan :=
  s.vecArith n arg 3 (fun _ l =>
    (((a0 l).mul (a1 l)).add (a2 l), invalidMul (a0 l) (a1 l) || invalidAdd ((a0 l).mul (a1 l)) (a2 l)))

def planVmin (s : State) (n : Nat) (arg : BitVec 40) : Plan :=
  s.vecArith n arg 2 (fun _ l => (vMinOf (a0 l) (a1 l), false))

def planVmax (s : State) (n : Nat) (arg : BitVec 40) : Plan :=
  s.vecArith n arg 2 (fun _ l => (vMaxOf (a0 l) (a1 l), false))

def planVscale (s : State) (n : Nat) (arg : BitVec 40) : Plan :=
  s.vecArith n arg 1 (fun v l => ((a0 l).mul v.imm, invalidMul (a0 l) v.imm))

/-- R112: the pieces of an FP32 value, in the order of R124, and the invalid differences met on the way. -/
def floatPieces (a : Val) : List Val × Nat :=
  if a.isFinite then
    let p0 := bf16.round a
    let d1 := a.sub p0
    let p1 := bf16.round d1
    ([p0, p1, bf16.round (d1.sub p1)], b2n (invalidAdd a p0.neg) + b2n (invalidAdd d1 p1.neg))
  else ([a, .num false 0 0, .num false 0 0], 0)

/-- R112: the pieces of an INT16 value: bits [15:8], signed, and bits [7:0]. -/
def intPieces (a : Val) : List Val := [.ofInt (a.roundToInt / 256), .ofInt (a.roundToInt % 256)]

/-- R112: whether a conversion forms the pieces of the split modes: from near SRAM to near SRAM, of a split format into
itself (DESIGN CHOICE, log 121). -/
def formsPieces (v : VecDesc) : Bool :=
  v.fs == v.fd && (v.fs == .f32 || v.fs == .i16) && !bitAt v.src0 31 && !bitAt v.dst 31

/-- R112, R124: a conversion that stores the pieces of its source, one plane for each piece, always under R102. -/
def State.splitPieces (s : State) (n : Nat) (v : VecDesc) : Plan :=
  let int := v.fs == .i16
  let fmts : List Fmt := if int then [.i8, .u8] else [.b16, .b16, .b16]
  let plane := ceilDiv (v.count * (if int then 8 else 16)) 8
  match opAddr v.src0 v.fs v.count v.rowlen false, opAddr v.dst (if int then .i8 else .b16) v.count 0 false with
  | some a, some (.near d) =>
    if pieceAt d plane (fmts.length - 1) + plane > nearSize then .bad
    else
      let vals := (s.readOperand n a v.fs v.count v.rowlen false).vals
      let ps := vals.map (fun x => if int then (intPieces x, 0) else floatPieces x)
      .ok (uVector v.units) 0 (elemTime v.count (popBits 8 v.units) 256 16) []
        (fmts.zipIdx.map (fun f => .sram (nearBase n + pieceAt d plane f.2)
            (packCodes f.1.bits (ps.map (fun p => (f.1.encode .rne (p.1.getD f.2 .nan)).code)))) ++
          eventEffs n 0 (ps.map (·.2)).sum) false
  | _, _ => .bad

/-- R136 `VCVT`: conversion (R107, R95 to R101, R103), or the pieces of R112. -/
def planVcvt (s : State) (n : Nat) (arg : BitVec 40) : Plan :=
  match s.vecDesc n arg with
  | none => .bad
  | some v =>
    if formsPieces v then s.splitPieces n v
    else s.elementwise n v [v.src0] (if v.topnote then 128 else 256) (if v.topnote then 20 else 16)
      (v.stoch && v.fs.isFloat) (fun l => (a0 l, false))

/-- The special functions (R138): the FP32 result, rounded to the destination. -/
def State.vecSpecial (s : State) (n : Nat) (arg : BitVec 40) (f : Val → Val) (inv : Val → Bool) : Plan :=
  match s.vecDesc n arg with
  | none => .bad
  | some v =>
    if !v.fs.isFloat || !v.fd.isFloat then .bad
    else s.elementwise n v [v.src0] 64 24 false (fun l => (fp32.round (f (a0 l)), inv (a0 l)))

def planVexp (s : State) (n : Nat) (arg : BitVec 40) : Plan := s.vecSpecial n arg vExp (fun _ => false)
def planVlog (s : State) (n : Nat) (arg : BitVec 40) : Plan := s.vecSpecial n arg vLog belowZero
def planVrcp (s : State) (n : Nat) (arg : BitVec 40) : Plan := s.vecSpecial n arg vRcp (fun _ => false)
def planVrsqrt (s : State) (n : Nat) (arg : BitVec 40) : Plan := s.vecSpecial n arg vRsqrt belowZero

/-! ### Row reductions -/

/-- A value with the invalid operations met on the way. -/
abbrev Counted := Val × Nat

def cAdd (a b : Counted) : Counted := (fAdd a.1 b.1, a.2 + b.2 + b2n (invalidAdd a.1 b.1))

/-- R137: FP32 row sum. -/
def rowSum (row : List Val) : Counted := (rowReduce cAdd (row.map (·, 0))).getD (.num false 0 0, 0)

/-- R137, R107: INT32 row sum: value and saturations. -/
def rowSumInt (row : List Val) : Int × Nat :=
  let f (a b : Int × Nat) : Int × Nat :=
    let c := max (-2147483648) (min 2147483647 (a.1 + b.1))
    (c, a.2 + b.2 + b2n (c ≠ a.1 + b.1))
  (rowReduce f (row.map (fun v => (v.roundToInt, 0)))).getD (0, 0)

/-- R137: row maximum. -/
def rowMax (row : List Val) : Val := (rowReduce vMaxOf row).getD .nan

/-- A row operation that gives one element for each row (R134, R137): value, saturations and invalid operations. -/
def State.vecRows (s : State) (n : Nat) (arg : BitVec 40) (f : VecDesc → List Val → Val × Nat × Nat) : Plan :=
  match s.vecDesc n arg with
  | none => .bad
  | some v =>
    if v.rowlen = 0 || !arithFmt v.fs || !arithFmt v.fd then .bad
    else
      let rho := v.count / v.rowlen
      match opAddr v.src0 v.fs v.count v.rowlen v.side, opAddr v.dst v.fd rho 0 v.topnote with
      | some a, some d =>
        if !dstOk d v.fd then .bad
        else
          let o := s.readOperand n a v.fs v.count v.rowlen v.side
          let rs := (chunks v.rowlen o.vals).map (f v)
          let w := s.writeOperand n d v.fd 0 false none (rs.map (·.1))
          let u := popBits 8 v.units
          .ok (uVector v.units) (o.slots ||| w.slots)
            (ceilDiv rho u * ceilDiv v.rowlen (lanesOf v.fs) + 12) []
            (w.effs ++ eventEffs n (o.sat + w.sat + (rs.map (·.2.1)).sum) (o.inv + w.inv + (rs.map (·.2.2)).sum)) false
      | _, _ => .bad

def planVrsum (s : State) (n : Nat) (arg : BitVec 40) : Plan :=
  s.vecRows n arg (fun v row =>
    if v.fs.isInt then let r := rowSumInt row; (.ofInt r.1, r.2, 0)
    else let r := rowSum row; (r.1, 0, r.2))

def planVrmax (s : State) (n : Nat) (arg : BitVec 40) : Plan :=
  s.vecRows n arg (fun _ row => (rowMax row, 0, 0))

/-! ### Sort and merge (R141, R109) -/

/-- R109: whether `a` may stand before `b` in the order asked for: NaN after every number. -/
def sortLe (descend : Bool) (a b : Val) : Bool :=
  if b.isNan then true
  else if a.isNan then false
  else if descend then !a.lt b else !b.lt a

/-- R141: sorts one row of (key, payload) pairs, stably. -/
def sortRow (descend : Bool) (row : List (Nat × Val × Nat)) : List (Nat × Val × Nat) :=
  sortBy (fun a b => sortLe descend a.2.1 b.2.1) row

/-- R141: the kind of key that a source format names: FP32, INT32, or UINT32, which R125 gives no code of its own and
UINT8 stands for (DESIGN CHOICE, log 122). -/
def sortKeyFmt (f : Fmt) : Bool := f == .f32 || f == .i32 || f == .u8

/-- Value of a key of a sort from its 32 bits. -/
def sortKey (f : Fmt) (code : Nat) : Val := if f == .u8 then .ofNat code else f.decode code

/-- Bits of a key as a sort writes it: a NaN is canonical (R88). -/
def sortCode (f : Fmt) (code : Nat) : Nat := if f == .f32 then fp32.encode .rne (fp32.decode code) else code

/-- The 32-bit words of a sort's operand: near-SRAM words, or accumulator entries as they stand. -/
def State.sortWords (s : State) (n : Nat) (a : OpAddr) (count : Nat) : List Nat :=
  match a with
  | .near off => unpackCodes 32 (s.near n off (4 * count))
  | .acc idx => (s.cluster n).accBits idx count

/-- The keys of a sort: accumulator entries are read in the keys' type (R131, R599). -/
def State.sortKeys (s : State) (n : Nat) (a : OpAddr) (f : Fmt) (count : Nat) : List Nat × Operand :=
  match a with
  | .near _ => (s.sortWords n a count, {})
  | .acc idx =>
    let o := readAcc (s.cluster n) (f != .f32) idx count
    (o.vals.map (accEncode (f != .f32)), o)

/-- R141: writes the sorted keys at the destination and the payload at the next 32-byte boundary after them (DESIGN
CHOICE, log 122). -/
def State.sortWrite (s : State) (n : Nat) (a : OpAddr) (f : Fmt) (keys pays : List Nat) : Written :=
  match a with
  | .near d => { effs := [.sram (nearBase n + d) (packCodes 32 keys),
      .sram (nearBase n + alignUp 32 (d + 4 * keys.length)) (packCodes 32 pays)] }
  | .acc idx =>
    let c := s.cluster n
    let at' := alignUp 8 (idx + keys.length)
    { effs := rawEntries c n idx (f != .f32) keys ++ rawEntries c n at' (f != .f32) pays
      slots := slotsOf idx (at' + pays.length - idx) }

def planVsort (s : State) (n : Nat) (arg : BitVec 40) : Plan :=
  match s.vecDesc n arg with
  | none => .bad
  | some v =>
    if v.rowlen = 0 || v.rowlen > 256 || !sortKeyFmt v.fs then .bad
    else
      match opAddr v.src0 .i32 v.count 0 false, opAddr v.src2 .i32 v.count 0 false,
            opAddr v.dst .i32 (2 * v.count + 8) 0 false with
      | some k, some p, some d =>
        if !dstOk d v.fd then .bad
        else
          let keys := s.sortKeys n k v.fs v.count
          let pays := s.sortWords n p v.count
          let pslots := match p with
            | .acc idx => slotsOf idx v.count
            | .near _ => 0
          let rows := chunks v.rowlen ((keys.1.zip pays).map (fun q => (sortCode v.fs q.1, sortKey v.fs q.1, q.2)))
          let out := rows.flatMap (sortRow v.descend)
          let w := s.sortWrite n d v.fs (out.map (·.1)) (out.map (·.2.2))
          .ok (uVector v.units) (keys.2.slots ||| pslots ||| w.slots)
            (ceilDiv (v.count / v.rowlen) (popBits 8 v.units) * 40) []
            (w.effs ++ eventEffs n keys.2.sat keys.2.inv) false
      | _, _, _ => .bad

/-- R141: merges two sorted runs; on equal keys the first run's element comes first. The fuel is the total length. -/
def mergeRuns (descend : Bool) : Nat → List Val → List Val → List Val
  | 0, _, _ => []
  | _, [], bs => bs
  | _, as, [] => as
  | k + 1, a :: as, b :: bs =>
    if sortLe descend a b then a :: mergeRuns descend k as (b :: bs) else b :: mergeRuns descend k (a :: as) bs

def planVmerge (s : State) (n : Nat) (arg : BitVec 40) : Plan :=
  match s.vecDesc n arg with
  | none => .bad
  | some v =>
    if v.rowlen = 0 || !arithFmt v.fs || v.fd != v.fs then .bad
    else
      match opAddr v.src0 v.fs v.count v.rowlen false, opAddr v.src1 v.fs v.count v.rowlen false,
            opAddr v.dst v.fd (2 * v.count) 0 false with
      | some a, some b, some d =>
        if !dstOk d v.fd then .bad
        else
          let x := s.readOperand n a v.fs v.count v.rowlen false
          let y := s.readOperand n b v.fs v.count v.rowlen false
          let out := ((chunks v.rowlen x.vals).zip (chunks v.rowlen y.vals)).flatMap
            (fun p => mergeRuns v.descend (2 * v.rowlen) p.1 p.2)
          let w := s.writeOperand n d v.fd 0 false none out
          .ok (uVector v.units) (x.slots ||| y.slots ||| w.slots)
            (ceilDiv (v.count / v.rowlen) (popBits 8 v.units) * (2 * ceilDiv (2 * v.rowlen) 256) + 16) []
            (w.effs ++ eventEffs n (x.sat + y.sat) (x.inv + y.inv)) false
      | _, _, _ => .bad

/-! ### Fused kernels -/

def cMul (a b : Val) : Counted := (fMul a b, b2n (invalidMul a b))
def cSub (a b : Val) : Counted := (fSub a b, b2n (invalidAdd a b.neg))
def cPlus (a b : Val) : Counted := (fAdd a b, b2n (invalidAdd a b))
def cFma (a b c : Val) : Counted := (fFma a b c, b2n (invalidMul a b || invalidAdd (a.mul b) c))
def cRsqrt (a : Val) : Counted := (fp32.round (vRsqrt a), b2n (belowZero a))
def fExp (a : Val) : Val := fp32.round (vExp a)
def fRcp (a : Val) : Val := fp32.round (vRcp a)

/-- Values and total count of a list of counted values. -/
def tally (l : List Counted) : List Val × Nat := (l.map (·.1), (l.map (·.2)).sum)

/-- R140: the FP32 value of 1/n. -/
def invN (n : Nat) : Val := fRcp (.ofNat n)

/-- R139 up to `e_i * r`: unconverted row, and invalid operations. -/
def softmaxRow (x : List Val) : List Val × Nat :=
  let m := rowMax x
  let d := tally (x.map (fun v => cSub v m))
  let e := d.1.map fExp
  let s := rowSum e
  let r := fRcp s.1
  let y := tally (e.map (fun v => cMul v r))
  (y.1, d.2 + s.2 + y.2)

/-- R140: r of the root-mean-square norm, and invalid operations. -/
def rmsR (eps : Val) (x : List Val) : Counted :=
  let sq := tally (x.map (fun v => cMul v v))
  let sum := rowSum sq.1
  let mean := cMul sum.1 (invN x.length)
  let arg := cPlus mean.1 eps
  let r := cRsqrt arg.1
  (r.1, sq.2 + sum.2 + mean.2 + arg.2 + r.2)

/-- R140: one row of `VRMSNORM`. -/
def rmsRow (eps : Val) (g x : List Val) : List Val × Nat :=
  let r := rmsR eps x
  let u := tally (x.map (fun v => cMul v r.1))
  let y := tally (u.1.zipWith cMul g)
  (y.1, r.2 + u.2 + y.2)

/-- R140: mean, x minus mean, and r of the layer norm, with invalid operations. -/
def layerParts (eps : Val) (x : List Val) : List Val × Val × Nat :=
  let inv := invN x.length
  let sum := rowSum x
  let mu := cMul sum.1 inv
  let d := tally (x.map (fun v => cSub v mu.1))
  let sq := tally (d.1.map (fun v => cMul v v))
  let s2 := rowSum sq.1
  let var := cMul s2.1 inv
  let arg := cPlus var.1 eps
  let r := cRsqrt arg.1
  (d.1, r.1, sum.2 + mu.2 + d.2 + sq.2 + s2.2 + var.2 + arg.2 + r.2)

/-- R140: one row of `VLAYERNORM`. -/
def layerRow (eps : Val) (g x : List Val) : List Val × Nat :=
  let p := layerParts eps x
  let u := tally (p.1.map (fun v => cMul v p.2.1))
  let y := tally (u.1.zipWith cMul g)
  (y.1, p.2.2 + u.2 + y.2)

/-- R276: dx of one row from dy and y. -/
def softmaxBack (dy y : List Val) : List Val × Nat :=
  let p := tally (dy.zipWith cMul y)
  let s := rowSum p.1
  let d := tally (dy.map (fun v => cSub v s.1))
  let x := tally (y.zipWith cMul d.1)
  (x.1, p.2 + s.2 + d.2 + x.2)

/-- R278: the gain gradient of one row added to the plane. -/
def addGain (dg dy u : List Val) : List Val × Nat := tally ((dy.zip u).zipWith (fun p g => cFma p.1 p.2 g) dg)

/-- R277 `VRMSNORM_B`, one row: dx, the new gain plane, invalid operations. -/
def rmsBack (eps : Val) (g dg dy x : List Val) : List Val × List Val × Nat :=
  let inv := invN x.length
  let r := rmsR eps x
  let h := tally (dy.zipWith cMul g)
  let u := tally (x.map (fun v => cMul v r.1))
  let hx := tally (h.1.zipWith cMul x)
  let s := rowSum hx.1
  let c := cMul s.1 inv
  let rr := cMul r.1 r.1
  let a := cMul rr.1 c.1
  let f := tally (x.zipWith (fun xi hi => cFma xi.neg a.1 hi) h.1)
  let dx := tally (f.1.map (fun v => cMul v r.1))
  let ng := addGain dg dy u.1
  (dx.1, ng.1, r.2 + h.2 + u.2 + hx.2 + s.2 + c.2 + rr.2 + a.2 + f.2 + dx.2 + ng.2)

/-- R277 `VLAYERNORM_B`, one row: dx, the new gain plane, invalid operations. -/
def layerBack (eps : Val) (g dg dy x : List Val) : List Val × List Val × Nat :=
  let inv := invN x.length
  let p := layerParts eps x
  let r := p.2.1
  let u := tally (p.1.map (fun v => cMul v r))
  let h := tally (dy.zipWith cMul g)
  let sh := rowSum h.1
  let a := cMul sh.1 inv
  let hu := tally (h.1.zipWith cMul u.1)
  let s := rowSum hu.1
  let b := cMul s.1 inv
  let k := tally (h.1.map (fun v => cSub v a.1))
  let f := tally (u.1.zipWith (fun ui ki => cFma ui.neg b.1 ki) k.1)
  let dx := tally (f.1.map (fun v => cMul v r))
  let ng := addGain dg dy u.1
  (dx.1, ng.1, p.2.2 + u.2 + h.2 + sh.2 + a.2 + hu.2 + s.2 + b.2 + k.2 + f.2 + dx.2 + ng.2)

/-- R275, R84: what the source format of a fused kernel must be: one of vector arithmetic, unless every source lies in
the accumulator, which is read as FP32. -/
def kernelSource (f : Fmt) (as : List OpAddr) : Bool :=
  arithFmt f || as.all (fun a => match a with
    | .acc _ => true
    | .near _ => false)

/-- R275: a source of a fused kernel: an accumulator source is read as FP32, any other in its format. -/
def State.kernelOperand (s : State) (n : Nat) (a : OpAddr) (f : Fmt) (count : Nat) : Operand :=
  match a with
  | .acc idx => readAcc (s.cluster n) false idx count
  | .near _ => s.readOperand n a f count 0 false

/-- Rows, written operand and events of a fused kernel without a gain gradient. -/
def State.fusedRows (s : State) (n : Nat) (v : VecDesc) (srcs : List (Nat × Bool)) (time : Nat → Nat)
    (f : List (List Val) → List Val × Nat) : Plan :=
  let cnt (whole : Bool) : Nat := if whole then v.count else v.rowlen
  match srcs.mapM (fun a => opAddr a.1 v.fs (cnt a.2) v.rowlen false), opAddr v.dst v.fd v.count v.rowlen v.topnote with
  | some as, some d =>
    if v.rowlen = 0 || !kernelSource v.fs as || !dstOk d v.fd then .bad
    else
      let ops := (as.zip srcs).map (fun a => (s.kernelOperand n a.1 v.fs (cnt a.2.2), a.2.2))
      let rows := (List.range (v.count / v.rowlen)).map (fun r =>
        f (ops.map (fun o => if o.2 then (o.1.vals.drop (r * v.rowlen)).take v.rowlen else o.1.vals)))
      let w := s.writeOperand n d v.fd v.rowlen v.topnote (s.stochOf n v.opSeed v.stoch) (rows.flatMap (·.1))
      let slots := (ops.map (·.1.slots)).foldl (· ||| ·) w.slots
      .ok (uVector v.units) slots (ceilDiv (v.count / v.rowlen) (popBits 8 v.units) * time (ceilDiv v.rowlen 256)) []
        (w.effs ++ eventEffs n (w.sat + (ops.map (·.1.sat)).sum)
          (w.inv + (rows.map (·.2)).sum + (ops.map (·.1.inv)).sum)) false
  | _, _ => .bad

/-- The vector descriptor handed to a kernel. -/
def State.withVec (s : State) (n : Nat) (arg : BitVec 40) (f : VecDesc → Plan) : Plan :=
  match s.vecDesc n arg with
  | none => .bad
  | some v => f v

def planVsoftmax (s : State) (n : Nat) (arg : BitVec 40) : Plan :=
  s.withVec n arg (fun v => s.fusedRows n v [(v.src0, true)] (fun k => 6 * k + 48)
    (fun l => softmaxRow (l.getD 0 [])))

def planVrmsnorm (s : State) (n : Nat) (arg : BitVec 40) : Plan :=
  s.withVec n arg (fun v => s.fusedRows n v [(v.src0, true), (v.src2, false)] (fun k => 4 * k + 48)
    (fun l => rmsRow v.imm (l.getD 1 []) (l.getD 0 [])))

def planVlayernorm (s : State) (n : Nat) (arg : BitVec 40) : Plan :=
  s.withVec n arg (fun v => s.fusedRows n v [(v.src0, true), (v.src2, false)] (fun k => 6 * k + 60)
    (fun l => layerRow v.imm (l.getD 1 []) (l.getD 0 [])))

def planVsoftmaxB (s : State) (n : Nat) (arg : BitVec 40) : Plan :=
  s.withVec n arg (fun v => s.fusedRows n v [(v.src0, true), (v.src1, true)] (fun k => 5 * k + 40)
    (fun l => softmaxBack (l.getD 0 []) (l.getD 1 [])))

def planVsoftmaxBr (s : State) (n : Nat) (arg : BitVec 40) : Plan :=
  s.withVec n arg (fun v => s.fusedRows n v [(v.src0, true), (v.src2, true)] (fun k => 11 * k + 88)
    (fun l =>
      let y := softmaxRow (l.getD 1 [])
      let r := softmaxBack (l.getD 0 []) y.1
      (r.1, r.2 + y.2)))

/-- R278: start of the gain-gradient plane: the first 32-byte boundary after the dx output, all its planes included
(DEDUCED, log 123). -/
def gainOffset (v : VecDesc) (d : Nat) : Nat := alignUp 32 (operandEnd v.fd d v.count v.rowlen v.topnote)

/-- The norm kernels with a gain gradient (R277, R278, R279). -/
def State.fusedNormB (s : State) (n : Nat) (arg : BitVec 40) (time : Nat → Nat)
    (f : Val → List Val → List Val → List Val → List Val → List Val × List Val × Nat) : Plan :=
  s.withVec n arg (fun v =>
    match opAddr v.src0 v.fs v.count v.rowlen false, opAddr v.src1 v.fs v.count v.rowlen false,
          opAddr v.src2 v.fs v.rowlen 0 false, opAddr v.dst v.fd v.count v.rowlen v.topnote with
    | some a, some b, some c, some (.near d) =>
      let go := gainOffset v d
      if v.rowlen = 0 || !kernelSource v.fs [a, b, c] || go + 4 * v.rowlen > nearSize then .bad
      else
        let dy := s.kernelOperand n a v.fs v.count
        let x := s.kernelOperand n b v.fs v.count
        let g := s.kernelOperand n c v.fs v.rowlen
        let dg0 := (unpackCodes 32 (s.near n go (4 * v.rowlen))).map fp32.decode
        let rows := (chunks v.rowlen dy.vals).zip (chunks v.rowlen x.vals)
        let out := rows.foldl (fun (p : List Val × List Val × Nat) r =>
          let q := f v.imm g.vals p.2.1 r.1 r.2
          (p.1 ++ q.1, q.2.1, p.2.2 + q.2.2)) ([], dg0, 0)
        let w := s.writeOperand n (.near d) v.fd v.rowlen v.topnote (s.stochOf n v.opSeed v.stoch) out.1
        let rho := v.count / v.rowlen
        let t := time (ceilDiv v.rowlen 256)
        .ok (uVector v.units) (dy.slots ||| x.slots ||| g.slots)
          (max (ceilDiv rho (popBits 8 v.units) * t) (rho * ceilDiv v.rowlen 256) + t) []
          (w.effs ++ [.sram (nearBase n + go) (packCodes 32 (out.2.1.map (fp32.encode .rne)))] ++
            eventEffs n (w.sat + dy.sat + x.sat + g.sat) (w.inv + out.2.2 + dy.inv + x.inv + g.inv)) false
    | _, _, _, _ => .bad)

def planVrmsnormB (s : State) (n : Nat) (arg : BitVec 40) : Plan := s.fusedNormB n arg (fun k => 8 * k + 72) rmsBack
def planVlayernormB (s : State) (n : Nat) (arg : BitVec 40) : Plan := s.fusedNormB n arg (fun k => 11 * k + 84) layerBack

/-- Rows of a matrix turned into its columns. -/
def transposeRows (c : Nat) (rows : List (List Val)) : List (List Val) :=
  (List.range c).map (fun j => rows.map (fun r => r.getD j .nan))

/-- R267, R151: one output of `VDUAL` at `d`, rows of `rl` elements. -/
def State.dualWrite (s : State) (n d : Nat) (v : VecDesc) (rl : Nat) (st : Stoch) (vals : List Val) : Written :=
  if v.fd.isMx then s.writeOperand n (.near d) v.fd rl v.topnote st vals else denseRows n d v.fd rl st vals

/-- R267, R151: whether an output of `VDUAL` at an address lies in near SRAM; its offset. -/
def dualAddr (v : VecDesc) (a rows rl : Nat) : Option Nat :=
  match opAddr a v.fd v.count rl v.topnote with
  | some (.near d) =>
    if !v.fd.isMx && d + rows * ceilDiv (rl * v.fd.bits) 8 > nearSize then none else some d
  | _ => none

/-- R267, R268: `VDUAL`. -/
def planVdual (s : State) (n : Nat) (arg : BitVec 40) : Plan :=
  s.withVec n arg (fun v =>
    let r := v.count / v.rowlen
    match opAddr v.src0 v.fs v.count 0 false, dualAddr v v.dst r v.rowlen, dualAddr v v.src1 v.rowlen r with
    | some a, some d, some t =>
      if v.rowlen = 0 || v.rowlen > 128 || r > 128 || !(v.fs.isFloat || bitAt v.src0 31) then .bad
      else
        let o := s.kernelOperand n a v.fs v.count
        let rows := chunks v.rowlen o.vals
        let st := v.stoch
        let w := s.dualWrite n d v v.rowlen (s.stochOf n v.opSeed st) o.vals
        let wt := s.dualWrite n t v r (s.stochOf n ((v.opSeed + 1) % 2 ^ 32) st) (transposeRows v.rowlen rows).flatten
        let u := popBits 8 v.units
        .ok (uVector v.units) o.slots
          (if v.topnote then ceilDiv v.count (64 * u) + 28 else ceilDiv v.count (128 * u) + 24) []
          (w.effs ++ wt.effs ++ eventEffs n (w.sat + wt.sat + o.sat) (w.inv + wt.inv + o.inv)) false
    | _, _, _ => .bad)

end Sys2Proof.Machine
end

