-- ==== Sys2Proof/Machine/Frames.lean ====
section
/-! DEFINITION. How the granules of the HBM stacks are divided (R321): device area, translation map, hosted areas (R507) and
job frames (R322, R323), and the layout table of the Canopy range (R318, R319). -/

namespace Sys2Proof.Machine

def State.stack (s : State) (k : Nat) : Stack := Tab.get {} k s.hbmStacks
def State.setStack (s : State) (k : Nat) (v : Stack) : State := { s with hbmStacks := Tab.put k v s.hbmStacks }

/-! ### Granules of a stack -/

/-- The `i`-th lowest number that an ascending list does not hold. -/
def skipping (holes : List Nat) (i : Nat) : Nat := holes.foldl (fun a r => if r ≤ a then a + 1 else a) i

/-- Granules of the device area of a stack (R321: 1 GiB). -/
def deviceCount : Nat := 512

/-- R321, R343: granules of the translation map in a stack. -/
def State.mapCount (s : State) (k : Nat) : Nat := if k < 6 then 0 else ceilDiv (256 * s.und.formatted) granule

/-- The retired granules of a stack, ascending. -/
def State.retiredOf (s : State) (k : Nat) : List Nat := sortBy (fun (a b : Nat) => a ≤ b) (s.stack k).retired

/-- R313, R321: granules of a stack that are not retired. -/
def State.goodCount (s : State) (k : Nat) : Nat := stackGranules - (s.retiredOf k).length

/-- R321: granule `i` of the device area of a stack, its lowest first (DEDUCED, log 66). -/
def State.deviceGranule (s : State) (k i : Nat) : Nat := skipping (s.retiredOf k) (s.goodCount k - deviceCount + i)

/-- An entry of an area's list for which no granule is left (R515). -/
def unmapped : Nat := 0xFFFFFFFF

/-- Stack and granule of an entry of a hosted area (R507). -/
def areaStack (e : Nat) : Nat := e / 65536
def areaGranule (e : Nat) : Nat := e % 65536

/-- Granules of a stack that no job frame may take: retired and hosted ones, ascending. -/
def State.takenGranules (s : State) (k : Nat) : List Nat :=
  let hosted := ((s.seed.areas.flatMap (·.2)).filter (fun e => e ≠ unmapped && areaStack e = k)).map areaGranule
  sortBy (fun (a b : Nat) => a ≤ b) ((s.stack k).retired ++ hosted.filter (fun g => !(s.stack k).retired.contains g))

/-- R321: granules of a stack that job frames can take. -/
def State.roomFor (s : State) (k : Nat) : Nat :=
  stackGranules - (s.takenGranules k).length - deviceCount - s.mapCount k

/-! ### Frames in the order of their assignment -/

/-- Granules given out so far, by stack. -/
abbrev Taken := List Nat

/-- R322, R323: takes `n` granules, the `i`-th from the first stack of `order i` with room: the HBM keys, or none where they do
not fit. -/
def takeGranules (room : Nat → Nat) (key : Nat → Nat → Nat) (order : Nat → List Nat) : Nat → Nat → Taken → List Nat →
    Option (Taken × List Nat)
  | 0, _, t, acc => some (t, acc.reverse)
  | n + 1, i, t, acc =>
    match (order i).find? (fun k => t.getD k 0 < room k) with
    | none => none
    | some k => takeGranules room key order n (i + 1) (modifyNth (· + 1) k t) (key k (t.getD k 0) :: acc)

/-- HBM key of the `j`-th lowest job-frame granule of a stack. -/
def State.frameKey (s : State) (k j : Nat) : Nat := k * stackSpan + skipping (s.takenGranules k) j * granule

/-- R322: the granules of the `PINNED` segments in table order; the index of the first that does not fit (DEDUCED, log 49). -/
def State.pinSegments (s : State) (room : Nat → Nat) : Nat → List Segment → Taken → Tab Nat → Except Nat (Taken × Tab Nat)
  | _, [], t, m => .ok (t, m)
  | i, g :: l, t, m =>
    if g.cls ≠ 1 then s.pinSegments room (i + 1) l t m
    else
      let ks := maskBits 8 g.stackMask
      match takeGranules room s.frameKey (fun j => [ks.getD (j % max 1 ks.length) 8]) (g.size / granule) 0 t [] with
      | none => .error i
      | some (t, keys) =>
        let cells := keys.zipIdx.map (fun p => (g.base / granule + p.2, p.1))
        s.pinSegments room (i + 1) l t (m.filter (fun e => e.1 < g.base / granule) ++
          (cells ++ m.filter (fun e => g.base / granule ≤ e.1)))

/-- R323: granules of an account's tiered share: its HBM quota minus its `PINNED` bytes. -/
def State.shareOf (s : State) (segs : List Segment) (a : Nat) : Nat :=
  (Tab.get {} a s.und.quotas).hbm - ((segs.filter (fun g => g.cls = 1 && g.account = a)).map (·.size)).sum / granule

/-- Frames of a granule (R323). -/
def granuleFrames : Nat := 128

/-- R323: the shares, account by account, round-robin over the stacks; the index of the account's first segment where a share
does not fit (DEDUCED, log 49). -/
def State.tieShares (s : State) (room : Nat → Nat) (segs : List Segment) : Nat → List Nat → Taken → Tab (List Nat) →
    Except Nat (Tab (List Nat))
  | _, [], _, m => .ok m
  | i, a :: l, t, m =>
    let n := s.shareOf segs a
    let first := (segs.findIdx? (fun g => g.cls = 2 && g.account = a)).getD 0
    if n = 0 then .error first
    else match takeGranules room s.frameKey (fun j => (List.range 8).map (fun x => (j + x) % 8)) n i t [] with
      | none => .error first
      | some (t, keys) =>
        let frames := keys.flatMap (fun k => (List.range granuleFrames).map (fun f => k + pageSize * f))
        s.tieShares room segs (i + n) l t (Tab.put a frames m)

/-- R322 to R324: all frames of a layout: the `PINNED` granules and the free frames of each account, or the index of the first
segment that does not fit (DEDUCED, log 49). -/
def State.assignFrames (s : State) (segs : List Segment) : Except Nat (Tab Nat × Tab (List Nat)) :=
  let rooms := (List.range 8).map s.roomFor
  let room (k : Nat) : Nat := rooms.getD k 0
  let tiered := (List.range 16).filter (fun a => segs.any (fun g => g.cls = 2 && g.account = a))
  match s.pinSegments room 0 segs [0, 0, 0, 0, 0, 0, 0, 0] [] with
  | .error i => .error i
  | .ok (t, frames) =>
    match s.tieShares room segs 0 tiered t [] with
    | .error i => .error i
    | .ok free => .ok (frames, free)

/-- R507: `n` hosted areas of `each` granules: round-robin over stacks 2 to 7, each from the highest granule below the map
down (DEDUCED, log 49). -/
def State.placeAreas (s : State) (keys : List Nat) (each : Nat) : Option (Tab (List Nat)) :=
  let top (k : Nat) : Nat := s.goodCount k - deviceCount - s.mapCount k
  let entry (k j : Nat) : Nat := k * 65536 + skipping (s.retiredOf k) (top k - 1 - j)
  let order (i : Nat) : List Nat := (List.range 6).map (fun x => 2 + (i + x) % 6)
  match takeGranules top entry order (keys.length * each) 0 [0, 0, 0, 0, 0, 0, 0, 0] [] with
  | none => none
  | some (_, es) => some (keys.zipIdx.map (fun p => (p.1, (es.drop (p.2 * each)).take each)))

/-! ### The layout table (R318, R319) -/

/-- R318: a segment entry of 32 bytes. -/
def segmentOf (b : List Byte) : Segment :=
  { base := field b 0 8, size := field b 8 8, cls := field b 16 1, account := field b 17 1, stackMask := field b 18 1
    voff := field b 20 8 }

/-- R319: whether an entry by itself is refused. -/
def State.segmentBad (s : State) (b : List Byte) : Bool :=
  let g := segmentOf b
  let q : Quota := Tab.get {} g.account s.und.quotas
  b.length ≠ 32 || field b 19 1 ≠ 0 || field b 28 4 ≠ 0 || g.base % granule ≠ 0 || g.size % granule ≠ 0 || g.size = 0 ||
    g.base + g.size > 0x400000000000 || g.account > 15 ||
    (match g.cls with
      | 1 => g.stackMask = 0 || g.voff ≠ 0
      | 2 => g.stackMask ≠ 0 || g.voff % granule ≠ 0 || !q.active || g.voff + g.size > q.und * granule
      | _ => true)

/-- Whether two segments share an address. -/
def Segment.meets (a b : Segment) : Bool := a.base < b.base + b.size && b.base < a.base + a.size

/-- R319: index of the first entry that is refused, by itself or because it meets an earlier one. -/
def State.layoutRefusal (s : State) (table : List Byte) (count : Nat) : Option Nat :=
  (List.range count).find? (fun i =>
    let b := (table.drop (32 * i)).take 32
    s.segmentBad b || (List.range i).any (fun j => (segmentOf ((table.drop (32 * j)).take 32)).meets (segmentOf b)))

/-- The segments of a layout table. -/
def segmentsOf (table : List Byte) (count : Nat) : List Segment :=
  (List.range count).map (fun i => segmentOf ((table.drop (32 * i)).take 32))

/-- R318: the configured size of the range. -/
def layoutSize (segs : List Segment) : Nat := (segs.map (fun g => g.base + g.size)).foldl max 0

end Sys2Proof.Machine
end

