-- ==== Sys2Proof/Machine/Wake.lean ====
section
/-! DEFINITION. Parts in a power state and their wake-up (R33 to R36, R530 to R533). -/

namespace Sys2Proof.Machine

def State.setPower (s : State) (p : Power) : State := { s with power := p }

/-- Telemetry: wake-ups of a die by an access to its HBM (R533). -/
def cDieWake (d : Nat) : Nat := ctrKey 4 d 61

/-- R530: wake-up of a state in CORE cycles; a unit's clock has the CORE or the SILL frequency, and its 2 cycles end within 2 cc. -/
def wakeCycles : Nat → Nat
  | 1 => 2
  | 2 => 1800
  | 3 => 30000
  | 4 => 720000
  | _ => 0

/-- R530: the break-even of a state. -/
def breakEven : Nat → Nat
  | 2 => 7200
  | 3 => 144000
  | 4 => 3600000
  | _ => 0

/-- R34: deepest state of a part. -/
def deepest : Part → Nat
  | .cluster _ => 2
  | .region _ => 3
  | .die _ => 4
  | _ => 1

/-- Key of a part: kind and index. -/
def stateKey (kind i : Nat) : Nat := kind * 2 ^ 16 + i

def partKeyOf : Part → Nat
  | .unit n u => stateKey 0 (12 * n.val + u.val)
  | .cluster n => stateKey 1 n
  | .region r => stateKey 2 r
  | .die d => stateKey 3 d
  | .cores n => stateKey 4 n
  | .sillChoice d => stateKey 5 d
  | .sillSend d => stateKey 6 d

/-- The units of a Sillage that its slots use (R531). -/
def sillageUnits (d : Nat) : List Nat := [stateKey 5 d, stateKey 6 d]

/-- Die of a part. -/
def stateDie (key : Nat) : Nat :=
  match key / 2 ^ 16 with
  | 0 => key % 2 ^ 16 / 12 / 16
  | 1 => key % 2 ^ 16 / 16
  | 2 => key % 2 ^ 16 / 4
  | 4 => key % 2 ^ 16 / 16
  | _ => key % 2 ^ 16

/-- State that a part is in. -/
def State.partState (s : State) (key : Nat) : Nat := ((Tab.find key s.power.states).map (·.1)).getD 0

/-- The first cycle in which a part accepts work, if it wakes up. -/
def State.readyAt (s : State) (key : Nat) : Nat := Tab.get 0 key s.power.waking

/-- R551: the cycles that a part has spent in its power state up to a cycle are counted. -/
def State.countState (s : State) (key state since now : Nat) : State :=
  s.count (ctrKey 4 (stateDie key) (61 + min state 4)) (now - since)

/-- R36, R530: the stacks of a die refresh themselves while it is in S4. -/
def State.refreshAlone (s : State) (d : Nat) (on : Bool) : State :=
  ([2 * d, 2 * d + 1] : List Nat).foldl (fun (s : State) k =>
    if s.fenced (0x54 + k) then s else s.setStack k { s.stack k with selfRefresh := on }) s

/-- The cycle in which the wake-up of a part began or begins: that of its schedule, if it has come, else this one (R532). -/
def State.wakeStart (s : State) (key : Nat) : Nat := min s.cc ((Tab.find key s.power.wakeAt).getD s.cc)

/-- R530, R532: a part is back in S0, and accepts work once its wake-up has passed. -/
def State.wakeKey (s : State) (key : Nat) : State :=
  match Tab.find key s.power.states with
  | none => s
  | some (t, since) =>
    let start := s.wakeStart key
    let s := s.countState key t since start
    s.setPower { s.power with
      states := Tab.drop key s.power.states, wakeAt := Tab.drop key s.power.wakeAt
      waking := Tab.put key (start + wakeCycles t) (s.power.waking.filter (fun p => p.2 > s.cc)) }

/-- R36, R530: a die wakes from S4, and its stacks leave self-refresh. -/
def State.wakeDie (s : State) (d : Nat) : State :=
  if s.partState (stateKey 3 d) = 4 then (s.wakeKey (stateKey 3 d)).refreshAlone d false else s

/-- R35: a region wakes, and the die in S4 around it. -/
def State.wakeRegion (s : State) (r : Nat) : State := (s.wakeDie (r / 4)).wakeKey (stateKey 2 r)

/-- R35: what lies in a region can wake only with the region that is off around it (DEDUCED, log 67). -/
def State.wakeAround (s : State) (r : Nat) : State := if s.partState (stateKey 2 r) ≥ 3 then s.wakeRegion r else s

/-- R35, R530: a cluster wakes, and with it the region in S3 and the die in S4 around it (DEDUCED, log 67). -/
def State.wakeCluster (s : State) (n : Nat) : State := (s.wakeAround (n / 4)).wakeKey (stateKey 1 n)

/-- The part with a key wakes, and with it what is off around it. -/
def State.wakeUp (s : State) (key : Nat) : State :=
  let i := key % 2 ^ 16
  match key / 2 ^ 16 with
  | 0 => (s.wakeCluster (i / 12)).wakeKey key
  | 1 => s.wakeCluster i
  | 2 => s.wakeRegion i
  | 3 => s.wakeDie i
  | 4 => (s.wakeCluster i).wakeKey key
  | _ => (s.wakeDie i).wakeKey key

/-- R35, R530: a part wakes (DEDUCED, log 67). -/
def State.wakePart (s : State) (p : Part) : State := s.wakeUp (partKeyOf p)

/-- R530: the last cycle that a part or what was off around it still wakes up in. -/
def State.wakeEnd (s : State) (key : Nat) : Nat :=
  let i := key % 2 ^ 16
  let around (n : Nat) : Nat := max (s.readyAt (stateKey 1 n)) (max (s.readyAt (stateKey 2 (n / 4))) (s.readyAt (stateKey 3 (n / 16))))
  match key / 2 ^ 16 with
  | 0 => max (s.readyAt key) (around (i / 12))
  | 1 => around i
  | 2 => max (s.readyAt key) (s.readyAt (stateKey 3 (i / 4)))
  | 4 => max (s.readyAt key) (around i)
  | _ => max (s.readyAt key) (s.readyAt (stateKey 3 i))

/-- R33, R533: the counter of a memory that an access wakes: its region's, or of HBM its die's. -/
def wakeCounter (key : Nat) : Nat :=
  match key / 2 ^ 16 with
  | 1 => cRegionWake (key % 2 ^ 16 / 4)
  | 2 => cRegionWake (key % 2 ^ 16)
  | _ => cDieWake (key % 2 ^ 16)

/-- R33: the power state from which memory does not serve an access: a cluster's near SRAM in S2, a region's slice in S3, a die's
HBM in S4; of a unit, S1. -/
def sleepState (key : Nat) : Nat :=
  match key / 2 ^ 16 with
  | 1 => 2
  | 2 => 3
  | 3 => 4
  | _ => 1

/-- Whether a part is in a state in which it serves nothing. -/
def State.asleep (s : State) (key : Nat) : Bool := s.partState key ≥ sleepState key

/-- R33, R533: an access finds memory in a power state: the memory wakes, and the wait is counted (DEDUCED, log 67). -/
def State.accessKey (s : State) (key : Nat) : State :=
  if s.asleep key then
    let t := s.wakeUp key
    if t.wakeEnd key > t.cc then t.count (wakeCounter key) 1 else t
  else s

/-- R33: the memory in which a place lies: near SRAM of a cluster, slice of a region, HBM of a die. -/
def placeKey : Place → Option Nat
  | .sram a =>
    let d := (a - 0xF00000000000) / 0x1000000000
    let w := a % 0x1000000000
    some (if w < 0x20000000 then stateKey 1 (16 * d + w / nearSize) else stateKey 2 (4 * d + (w - 0x100000000) / sliceSize))
  | .hbm h => some (stateKey 3 (h / stackSpan / 2))
  | _ => none

/-- The memories that a range of local addresses lies in. -/
def State.memoriesOf (s : State) (a len : Nat) : List Nat := ((pieces a len).filterMap (fun p => placeKey (s.place p.1))).eraseDups

/-- R33, R533: accesses to ranges wake the memories that are in a power state, each once. -/
def State.wakeRanges (s : State) (rs : List (Nat × Nat)) : State :=
  if s.power.states.isEmpty then s
  else ((rs.flatMap (fun r => s.memoriesOf r.1 r.2)).eraseDups).foldl State.accessKey s

/-- R33: cycles for which accesses to ranges wait until their memories are awake. -/
def State.wakeWait (s : State) (rs : List (Nat × Nat)) : Nat :=
  if s.power.waking.isEmpty then 0
  else (((rs.flatMap (fun r => s.memoriesOf r.1 r.2)).map s.wakeEnd).foldl max 0) - s.cc

end Sys2Proof.Machine
end

