-- ==== Sys2Proof/Machine/Issue.lean ====
section
/-! DEFINITION. Issue of cluster operations (R50, R51, R116, R598): the opcodes, the claims, and what an operation does
when it issues from the stream or from a kernel; stall cycles (R597). -/

namespace Sys2Proof.Machine

/-- The operation of a cluster opcode (R123, R136, R157, R267, R276, R302, R303, R423); none if its class does not define it. -/
def clusterPlan (op : Nat) : Option (State → Nat → BitVec 40 → Plan) :=
  match op with
  | 0x10 => some planMmul
  | 0x11 => some planMmulZ
  | 0x14 => some planAccZero
  | 0x15 => some planAccRead
  | 0x40 => some planVadd
  | 0x41 => some planVmul
  | 0x42 => some planVfma
  | 0x43 => some planVmin
  | 0x44 => some planVmax
  | 0x45 => some planVscale
  | 0x48 => some planVcvt
  | 0x50 => some planVexp
  | 0x51 => some planVlog
  | 0x52 => some planVrcp
  | 0x53 => some planVrsqrt
  | 0x58 => some planVrsum
  | 0x59 => some planVrmax
  | 0x60 => some planVsort
  | 0x61 => some planVmerge
  | 0x68 => some planVsoftmax
  | 0x69 => some planVrmsnorm
  | 0x6A => some planVlayernorm
  | 0x6B => some planVsoftmaxB
  | 0x6C => some planVsoftmaxBr
  | 0x6D => some planVrmsnormB
  | 0x6E => some planVlayernormB
  | 0x6F => some planVdual
  | 0x70 => some planTmul
  | 0x72 => some planSsmul
  | 0x74 => some planSddmm
  | 0x75 => some planValmap
  | 0x76 => some planPselect
  | 0x77 => some planPmul
  | 0x80 => some planGather
  | 0x81 => some planGatherSum
  | 0x82 => some planScatter
  | 0x83 => some planScatterAdd
  | 0x90 => some planCompress
  | 0xA0 => some planNload
  | 0xA1 => some planNstore
  | 0xB0 => some planMmulPost
  | 0xB1 => some planMmulzPost
  | 0xB2 => some planTmulPost
  | 0xB4 => some planGetMmul
  | 0xB5 => some planGetTmul
  | 0xB8 => some planPost
  | 0xB9 => some planGet
  | _ => none

/-- Compute-and-communicate opcodes (R423). -/
def isCollOp (op : Nat) : Bool := 0xB0 ≤ op && op ≤ 0xBF

/-- Whether a cluster can accept an operation with these claims (R598). -/
def Cluster.accepts (c : Cluster) (units slots : Nat) : Bool :=
  c.ops.all (fun o => (o.units &&& units) = 0 && (o.slots &&& slots) = 0)

/-- What reading a cluster slot for issue finds. -/
inductive Attempt where
  | bad
  | badMeta (check addr : Nat)
  | refuse (addr status : Nat)
  | wait
  | go (op : ClusterOp) (now : List Eff)
  deriving DecidableEq, Repr

/-- The rest of a `GET` form: the collective it waits for and its compute half (R423). -/
def State.getForm (s : State) (n op : Nat) (arg : BitVec 40) : Option Nat × Option (Nat × List Byte) :=
  let b := (s.wideDescriptor n arg).getD []
  match op with
  | 0xB4 => (some (field b 32 2), some (0x10, byteField b 0 32))
  | 0xB5 => (some (field b 32 2), some (0x70, byteField b 0 32))
  | 0xB9 => (some (field b 32 2), none)
  | _ => (none, none)

/-- R50, R51: tries to issue an operation on a cluster; `bare` is cleared inside a Clearing, where R423 forbids the
compute-and-communicate opcodes. -/
def State.attempt (s : State) (n op : Nat) (arg : BitVec 40) (plan : State → Nat → BitVec 40 → Plan) : Attempt :=
  if s.clusterFenced n then .refuse (nearBase n) 2
  else match plan s n arg with
  | .bad => .bad
  | .badMeta c a => .badMeta c a
  | .refuse a st => .refuse a st
  | .ok units slots dur now effs accOnly =>
    if (s.cluster n).accepts units slots then
      let g := s.getForm n op arg
      .go { op := op, units := units, slots := slots, accOnly := accOnly, due := dur, effects := effs
            waitColl := g.1, thenOp := g.2 } now
    else .wait

/-- The units of a cluster that a claim names, as parts. -/
def unitKeys (n units : Nat) : List Nat := (maskBits 12 units).map (fun u => stateKey 0 (12 * n + u))

/-- An operation is accepted: the units it claims wake, its effects at issue are made, and its claims stand until its end, which
its length sets (R530). -/
def State.accept (s : State) (n : Nat) (o : ClusterOp) (now : List Eff) : State :=
  let keys := unitKeys n o.units
  let s := (keys.foldl State.wakeUp s).applyAll now
  let from1 := (keys.map s.wakeEnd).foldl max s.cc
  let c := s.cluster n
  s.setCluster n { c with ops := c.ops ++ [{ o with due := from1 + o.due }] }

/-! ### The stream of a die -/

/-- R256: place of the body that a die builds for a tick: two halves, by tick parity. -/
def bodyKey (d t : Nat) : Nat := 2 * d + t % 2

/-- R45: first bundle and count of a body of a die; in command-list mode of the body built for the tick (R256). -/
def State.bodyOf (s : State) (d : Nat) : Nat × Nat :=
  if s.job.cmdlist then
    match Tab.find (bodyKey d s.tick.count.toNat) s.job.built with
    | some b => if b.1 = s.tick.count.toNat then (0, b.2) else (0, 0)
    | none => (0, 0)
  else
    let t := s.sectionBytes 2 d
    let b := (s.seq d).body
    (field t (16 * b) 4, field t (16 * b + 4) 4)

/-- Local address of bundle 0 of a die's stream (R52, R256). -/
def State.streamBase (s : State) (d : Nat) : Nat :=
  if s.job.cmdlist then windowBase d + 0x100010000 + s.tick.count.toNat % 2 * 0x400000
  else ((s.sectionsOf 1 d).head?.map (·.load)).getD 0

/-- Address of the bundle that a die is at. -/
def State.bundleAddr (s : State) (d : Nat) : Nat := s.streamBase d + ((s.bodyOf d).1 + (s.seq d).bundle) * 128

/-- R52: cycles in which a bundle is fetched: 1 from near SRAM, 2 from the stacked-SRAM window. -/
def State.fetchCycles (s : State) (d : Nat) : Nat := if s.bundleAddr d % 0x1000000000 < 0x20000000 then 1 else 2

/-- R52: the cycle in which the bundle that a die is at has been fetched: after the one before it, and once there is room in the
prefetch of 64 bundles. -/
def State.fetchReady (s : State) (d : Nat) : Nat :=
  let q := s.seq d
  max q.fetchAt (q.recent.getD 63 0) + s.fetchCycles d

/-! ### Stalls -/

/-- R542: freeze duty in force. -/
def State.duty (s : State) : Nat := max s.power.thermalDuty s.power.powerDuty

/-- R542: the first cycle from `t` on that freeze duty leaves free; none at full duty. -/
def State.thawed (s : State) (t : Nat) : Option Nat :=
  if s.duty ≥ 64 then none else some (if t % 64 < s.duty then t - t % 64 + s.duty else t)

/-- R542: cycles before cycle `x` that a freeze duty holds: the first of each window of 64. -/
def frozenBefore (duty x : Nat) : Nat := x / 64 * min duty 64 + min (x % 64) duty

/-- R542: cycles from `a` up to `b` that freeze duty holds. -/
def State.frozenIn (s : State) (a b : Nat) : Nat := frozenBefore s.duty b - frozenBefore s.duty a

/-- The cycles from `a` up to `b` that freeze duty leaves. -/
def State.freeIn (s : State) (a b : Nat) : Nat := b - a - s.frozenIn a b

/-- The cause code by which the model marks a wait for an open window: `Clearing late` from open + `LENGTH` on, and before that
unit back-pressure (R63, R597) (DEDUCED, log 79). -/
def windowWait : Nat := 7

/-- The end of the length of a die's open window. -/
def State.windowDue (s : State) (d : Nat) : Nat := ((s.seq d).window.map (fun w => w.openAt + w.length)).getD 0

/-- Adds stall cycles of a die at a level and cause (R83, R597), and to the body's tally by cause (DEDUCED, log 79). -/
def State.stall (s : State) (d level cause cycles : Nat) : State :=
  if cycles = 0 then s
  else
    let s := (s.count (cStallLevel d level) cycles).count (cStallCause d cause) cycles
    let q := s.seq d
    s.setSeq d { q with stalls := Tab.put cause (Tab.get 0 cause q.stalls + cycles) q.stalls }

/-- The cycles of a wait that neither freeze duty nor fetch takes, by level and cause (R597). -/
def State.stallRest (s : State) (d level cause a b : Nat) : State :=
  if cause = windowWait then
    let due := min b (max a (s.windowDue d))
    (s.stall d 2 0 (s.freeIn a due)).stall d 2 1 (s.freeIn due b)
  else s.stall d level cause (s.freeIn a b)

/-- R597: the cycles from `a` up to `b` in which a bundle of a die is held, for a wait of a level and cause: the cycles of freeze
duty come first, then a `SYNC` wait, then those before the bundle has been fetched. -/
def State.stallSpan (s : State) (d level cause a b : Nat) : State :=
  if b ≤ a then s
  else
    let s := s.stall d 3 2 (s.frozenIn a b)
    let f := if level = 3 && cause = 4 then a else min b (max a (s.fetchReady d))
    (s.stall d 2 5 (s.freeIn a f)).stallRest d level cause f b

/-- The first cycle in which a die's next bundle may issue. -/
def State.issueCycle (s : State) (d : Nat) : Nat := max (s.seq d).freeAt s.cc

/-- R597: the cycles up to `t` in which the bundle of a die has been held are counted, and the reason stays (DEDUCED, log 79). -/
def State.countHeld (s : State) (d t : Nat) : State :=
  match (s.seq d).blocked with
  | none => s
  | some (l, c, since) =>
    let s := s.stallSpan d l c since t
    s.setSeq d { s.seq d with blocked := some (l, c, max since t) }

/-- R51, R597: what holds the bundle of a die at this cycle; the cycles held for another reason are counted (DEDUCED, log 79). -/
def State.holdBundle (s : State) (d level cause : Nat) : State :=
  match (s.seq d).blocked with
  | none => s.setSeq d { s.seq d with blocked := some (level, cause, s.issueCycle d) }
  | some (l, c, _) =>
    if l = level && c = cause then s
    else
      let t := s.issueCycle d
      let s := s.countHeld d t
      s.setSeq d { s.seq d with blocked := some (level, cause, t) }

/-- R51, R597: the bundle of a die issues at cycle `t`: the cycles in which it was held are counted, those from this one on for a
wait of a level and cause (DEDUCED, log 79). -/
def State.endHold (s : State) (d level cause t : Nat) : State :=
  let now := s.issueCycle d
  let s := (s.countHeld d (min now t)).stallSpan d level cause now t
  s.setSeq d { s.seq d with blocked := none }

/-- R51: the bundle of a die issues at a cycle, after at most a wake-up (DEDUCED, log 79). -/
def State.unblock (s : State) (d t : Nat) : State := s.endHold d 1 3 t

/-- R542, R573: the holds of all dies are counted up to now, before freeze duty changes or a tick's record is taken. -/
def State.countHolds (s : State) : State :=
  ([0, 1, 2, 3] : List Nat).foldl (fun (s : State) d => s.countHeld d (max (s.seq d).freeAt s.cc)) s

/-! ### Wake-up at issue (R33, R51, R533) -/

/-- The fence functions that stand for a part while it is looked for what needs it. -/
def partFunctions (key : Nat) : List Nat :=
  let i := key % 2 ^ 16
  match key / 2 ^ 16 with
  | 1 => [i]
  | 2 => [0x40 + i]
  | 3 => [0x54 + 2 * i, 0x55 + 2 * i]
  | _ => []

/-- The state as it would be with the memories of a part fenced. -/
def State.without (s : State) (key : Nat) : State :=
  s.setFence { s.fence with fenced := (partFunctions key).foldl (fun m f => m ||| BitVec.twoPow 116 f) s.fence.fenced }

/-- The parts that serve nothing at cycle `t`: those in a power state, and those that still wake up. -/
def State.sleepers (s : State) (t : Nat) : List Nat :=
  (s.power.states.map (·.1)).filter s.asleep ++ (s.power.waking.filter (fun p => p.2 > t)).map (·.1)

/-- What the parts that a bundle needs and that are in a power state make of it. -/
inductive Waking where
  /-- They wake now, and the bundle waits. -/
  | hold (s : State)
  /-- Those that wake up accept work from a cycle on. -/
  | from1 (s : State) (t : Nat)

/-- R33, R51: the parts in a power state that a bundle needs wake. It waits for them (DEDUCED, log 67). -/
def State.wakeNeeded (s : State) (t : Nat) (needs : Nat → Bool) : Waking :=
  let keys := (s.sleepers t).filter needs
  let u := keys.foldl (fun (s : State) k => if k / 2 ^ 16 = 0 || k / 2 ^ 16 ≥ 4 then s.wakeUp k else s.accessKey k) s
  let ready := (keys.map u.wakeEnd).foldl max t
  if ready > t && keys.any s.asleep then .hold u else .from1 u ready

/-- Whether an attempt is one that memory refuses. -/
def Attempt.refused : Attempt → Bool
  | .refuse _ _ => true
  | _ => false

/-- Whether an operation of a cluster needs a part: one of its units, its cluster, or memory that it touches. -/
def State.attemptNeeds (s : State) (n op : Nat) (arg : BitVec 40) (plan : State → Nat → BitVec 40 → Plan) (key : Nat) : Bool :=
  let a := s.attempt n op arg plan
  if key / 2 ^ 16 = 0 then
    (match a with
      | .go o _ => (unitKeys n o.units).contains key
      | _ => false)
  else (key / 2 ^ 16 ≤ 3 && (key = stateKey 3 (n / 16) || ((s.without key).attempt n op arg plan).refused && !a.refused))

/-- R20, R31: the unit of a cluster that reports what an operation's access finds: the array, the lowest vector unit of `UNITS`, the
MIU, the gather engine, the compressor, else the sequencer (DEDUCED, log 40). -/
def opLocator (n op : Nat) (arg : BitVec 40) : Nat :=
  if op = 0x10 || op = 0x11 || op = 0xB0 || op = 0xB1 || op = 0xB4 then unitLocator n 0 0
  else if 0x40 ≤ op && op < 0x70 then unitLocator n 1 ((maskBits 8 (slotUnits arg)).headD 0)
  else if (0x70 ≤ op && op < 0x80) || op = 0xB2 || op = 0xB5 then unitLocator n 3 0
  else if (0x80 ≤ op && op < 0x90) || op = 0xA0 || op = 0xA1 then unitLocator n 4 0
  else if op = 0x90 then unitLocator n 5 0
  else unitLocator n 6 0

/-- R20, R31, R32: a program address fault of an operation of a cluster. -/
def State.clusterAddrFault (s : State) (n op : Nat) (arg : BitVec 40) (status addr : Nat) : State :=
  s.hold { kind := 4, unit := opLocator n op arg, die := n / 16, check := status, detail := leBytes 8 addr }

/-- The wake-up of the parts that a slot needs is over (R533). -/
def State.awaitUnits (s : State) (t : Nat) : State := if s.power.waking.isEmpty then s else s.reach t

/-- A cluster operation as the only slot of a bundle: it issues, stalls its bundle, or is the fault that its reading
finds. Nothing issues while the job is held (R480) (DESIGN CHOICE, log 80). -/
def State.issueAlone (s : State) (n op : Nat) (arg : BitVec 40) (plan : State → Nat → BitVec 40 → Plan) : State :=
  if s.job.state = .held then s
  else match s.wakeNeeded (s.issueCycle (n / 16)) (s.attemptNeeds n op arg plan) with
  | .hold s => s.holdBundle (n / 16) 1 3
  | .from1 s t =>
    match s.attempt n op arg plan with
    | .bad => s.imageFault (n / 16)
    | .badMeta c a => s.metaFault n op c a
    | .refuse a st => s.clusterAddrFault n op arg st a
    | .wait => s.holdBundle (n / 16) 0 0
    | .go o now => ((s.unblock (n / 16) t).awaitUnits t).accept n o now

/-! ### The meanings -/

def execMmul (n : Fin 64) (arg : BitVec 40) (s : State) : Result := done (s.issueAlone n 0x10 arg planMmul)
def execMmulZ (n : Fin 64) (arg : BitVec 40) (s : State) : Result := done (s.issueAlone n 0x11 arg planMmulZ)
def execAccZero (n : Fin 64) (arg : BitVec 40) (s : State) : Result := done (s.issueAlone n 0x14 arg planAccZero)
def execAccRead (n : Fin 64) (arg : BitVec 40) (s : State) : Result := done (s.issueAlone n 0x15 arg planAccRead)
def execVadd (n : Fin 64) (arg : BitVec 40) (s : State) : Result := done (s.issueAlone n 0x40 arg planVadd)
def execVmul (n : Fin 64) (arg : BitVec 40) (s : State) : Result := done (s.issueAlone n 0x41 arg planVmul)
def execVfma (n : Fin 64) (arg : BitVec 40) (s : State) : Result := done (s.issueAlone n 0x42 arg planVfma)
def execVmin (n : Fin 64) (arg : BitVec 40) (s : State) : Result := done (s.issueAlone n 0x43 arg planVmin)
def execVmax (n : Fin 64) (arg : BitVec 40) (s : State) : Result := done (s.issueAlone n 0x44 arg planVmax)
def execVscale (n : Fin 64) (arg : BitVec 40) (s : State) : Result := done (s.issueAlone n 0x45 arg planVscale)
def execVcvt (n : Fin 64) (arg : BitVec 40) (s : State) : Result := done (s.issueAlone n 0x48 arg planVcvt)
def execVexp (n : Fin 64) (arg : BitVec 40) (s : State) : Result := done (s.issueAlone n 0x50 arg planVexp)
def execVlog (n : Fin 64) (arg : BitVec 40) (s : State) : Result := done (s.issueAlone n 0x51 arg planVlog)
def execVrcp (n : Fin 64) (arg : BitVec 40) (s : State) : Result := done (s.issueAlone n 0x52 arg planVrcp)
def execVrsqrt (n : Fin 64) (arg : BitVec 40) (s : State) : Result := done (s.issueAlone n 0x53 arg planVrsqrt)
def execVrsum (n : Fin 64) (arg : BitVec 40) (s : State) : Result := done (s.issueAlone n 0x58 arg planVrsum)
def execVrmax (n : Fin 64) (arg : BitVec 40) (s : State) : Result := done (s.issueAlone n 0x59 arg planVrmax)
def execVsort (n : Fin 64) (arg : BitVec 40) (s : State) : Result := done (s.issueAlone n 0x60 arg planVsort)
def execVmerge (n : Fin 64) (arg : BitVec 40) (s : State) : Result := done (s.issueAlone n 0x61 arg planVmerge)
def execVsoftmax (n : Fin 64) (arg : BitVec 40) (s : State) : Result := done (s.issueAlone n 0x68 arg planVsoftmax)
def execVrmsnorm (n : Fin 64) (arg : BitVec 40) (s : State) : Result := done (s.issueAlone n 0x69 arg planVrmsnorm)
def execVlayernorm (n : Fin 64) (arg : BitVec 40) (s : State) : Result := done (s.issueAlone n 0x6A arg planVlayernorm)
def execVsoftmaxB (n : Fin 64) (arg : BitVec 40) (s : State) : Result := done (s.issueAlone n 0x6B arg planVsoftmaxB)
def execVsoftmaxBr (n : Fin 64) (arg : BitVec 40) (s : State) : Result := done (s.issueAlone n 0x6C arg planVsoftmaxBr)
def execVrmsnormB (n : Fin 64) (arg : BitVec 40) (s : State) : Result := done (s.issueAlone n 0x6D arg planVrmsnormB)
def execVlayernormB (n : Fin 64) (arg : BitVec 40) (s : State) : Result :=
  done (s.issueAlone n 0x6E arg planVlayernormB)
def execVdual (n : Fin 64) (arg : BitVec 40) (s : State) : Result := done (s.issueAlone n 0x6F arg planVdual)
def execTmul (n : Fin 64) (arg : BitVec 40) (s : State) : Result := done (s.issueAlone n 0x70 arg planTmul)
def execSsmul (n : Fin 64) (arg : BitVec 40) (s : State) : Result := done (s.issueAlone n 0x72 arg planSsmul)
def execSddmm (n : Fin 64) (arg : BitVec 40) (s : State) : Result := done (s.issueAlone n 0x74 arg planSddmm)
def execValmap (n : Fin 64) (arg : BitVec 40) (s : State) : Result := done (s.issueAlone n 0x75 arg planValmap)
def execPselect (n : Fin 64) (arg : BitVec 40) (s : State) : Result := done (s.issueAlone n 0x76 arg planPselect)
def execPmul (n : Fin 64) (arg : BitVec 40) (s : State) : Result := done (s.issueAlone n 0x77 arg planPmul)
def execCompress (n : Fin 64) (arg : BitVec 40) (s : State) : Result := done (s.issueAlone n 0x90 arg planCompress)
def execNload (n : Fin 64) (arg : BitVec 40) (s : State) : Result := done (s.issueAlone n 0xA0 arg planNload)
def execNstore (n : Fin 64) (arg : BitVec 40) (s : State) : Result := done (s.issueAlone n 0xA1 arg planNstore)
def execGather (n : Fin 64) (arg : BitVec 40) (s : State) : Result := done (s.issueAlone n 0x80 arg planGather)
def execGatherSum (n : Fin 64) (arg : BitVec 40) (s : State) : Result := done (s.issueAlone n 0x81 arg planGatherSum)
def execScatter (n : Fin 64) (arg : BitVec 40) (s : State) : Result := done (s.issueAlone n 0x82 arg planScatter)
def execScatterAdd (n : Fin 64) (arg : BitVec 40) (s : State) : Result := done (s.issueAlone n 0x83 arg planScatterAdd)
def execMmulPost (n : Fin 64) (arg : BitVec 40) (s : State) : Result := done (s.issueAlone n 0xB0 arg planMmulPost)
def execMmulzPost (n : Fin 64) (arg : BitVec 40) (s : State) : Result := done (s.issueAlone n 0xB1 arg planMmulzPost)
def execTmulPost (n : Fin 64) (arg : BitVec 40) (s : State) : Result := done (s.issueAlone n 0xB2 arg planTmulPost)
def execGetMmul (n : Fin 64) (arg : BitVec 40) (s : State) : Result := done (s.issueAlone n 0xB4 arg planGetMmul)
def execGetTmul (n : Fin 64) (arg : BitVec 40) (s : State) : Result := done (s.issueAlone n 0xB5 arg planGetTmul)
def execPost (n : Fin 64) (arg : BitVec 40) (s : State) : Result := done (s.issueAlone n 0xB8 arg planPost)
def execGet (n : Fin 64) (arg : BitVec 40) (s : State) : Result := done (s.issueAlone n 0xB9 arg planGet)

end Sys2Proof.Machine
end

