-- ==== Sys2Proof/Machine/Fabric.lean ====
section
/-! DEFINITION. Budrior packets (R369 to R372), routing (R375 to R383), and what a source does with its packets: numbering,
order, holds and the packets it keeps (R387 to R389, R410). -/

namespace Sys2Proof.Machine

/-! ### Counters of R400, R421 and R453 -/

def cPort (p field : Nat) : Nat := ctrKey 6 p field
def cFlitTx (p : Nat) : Nat := cPort p 5
def cFlitRx (p : Nat) : Nat := cPort p 6
def cEscFlit (p : Nat) : Nat := cPort p 7
def cDevice (field : Nat) : Nat := ctrKey 10 0 field
def cRemoteNr : Nat := cDevice 10
def cLdDiscard : Nat := cDevice 12
def cEscDiscard : Nat := cDevice 13
def cUnreach : Nat := cDevice 14
def cHdrDrop : Nat := cDevice 15
def cPayDrop : Nat := cDevice 16
def cTagReject : Nat := cDevice 17
def cE2eResend : Nat := cDevice 18
def cDupDeliver : Nat := cDevice 19
def cDupDrop : Nat := cDevice 20
def cBusySent : Nat := cDevice 21
def cDie (d field : Nat) : Nat := ctrKey 4 d field
def cOrderHold (d : Nat) : Nat := cDie d 42
def cOwnerRefused (d : Nat) : Nat := cDie d 43
def cOwnerMiss (d : Nat) : Nat := cDie d 44
def cOverlapHold (d : Nat) : Nat := cDie d 45
def cAtomApplied (d : Nat) : Nat := cDie d 46
def cAtomReplayed (d : Nat) : Nat := cDie d 47
def cAtomBusy (d : Nat) : Nat := cDie d 48
def cAtomSat (d : Nat) : Nat := cDie d 49

/-! ### CORE cycles of the times that rules name -/

/-- 1.2 GHz: CORE cycles of a number of µs. -/
def usCc (us : Nat) : Nat := us * 1200
def msCc (ms : Nat) : Nat := ms * 1200000

/-! ### Packet types (R370) -/

def tBeacon : Nat := 0x01
def tBeaconReply : Nat := 0x02
def tArm : Nat := 0x03
def tReady : Nat := 0x04
def tBlaze : Nat := 0x08
def tAck : Nat := 0x09
def tMgmtReq : Nat := 0x10
def tMgmtResp : Nat := 0x11
def tLinkEvent : Nat := 0x12
def tLoadReq : Nat := 0x20
def tAtomicReq : Nat := 0x21
def tAtomicReply : Nat := 0x22
def tStore : Nat := 0x80
def tLoadData : Nat := 0x81
def tToken : Nat := 0x82
def tColl : Nat := 0x83
def tSnap : Nat := 0x84

def knownTypes : List Nat :=
  [tBeacon, tBeaconReply, tArm, tReady, tBlaze, tAck, tMgmtReq, tMgmtResp, tLinkEvent, tLoadReq, tAtomicReq, tAtomicReply,
   tStore, tLoadData, tToken, tColl, tSnap]

/-- Data class of a type. -/
def isData (typ : Nat) : Bool := typ ≥ 0x80

/-- Types answered by an `ACK`, and types answered by a reply (R370). -/
def isAcked (typ : Nat) : Bool := typ == tBlaze || typ == tStore || typ == tToken || typ == tColl || typ == tSnap
def isRequest (typ : Nat) : Bool := typ == tLoadReq || typ == tAtomicReq

/-- R369: a body or payload with its padding: 32 bytes of a control packet, whole 64-byte units of a data packet. -/
def padBody (typ : Nat) (b : List Byte) : List Byte :=
  if isData typ then byteField b 0 (max 64 (alignUp 64 b.length)) else byteField b 0 32

/-! ### Link words (R360, R361) -/

/-- R360: the 10-bit CRC of a flit and its tag, bit 0 first (DESIGN CHOICE, log 128). -/
def linkCrc (bits : List Bool) : Nat :=
  bits.foldl (fun c b => if (c / 512 % 2 = 1) != b then c * 2 % 1024 ^^^ 0x233 else c * 2 % 1024) 0x3FF

/-- R360: a link word: a flit and its tag. -/
def linkWord (vc : Nat) (tail upper : Bool) (flit : List Byte) : List Byte :=
  let flit := byteField flit 0 64
  let tag := vc + 8 * b2n tail + 32 * b2n upper
  let bits := flit.flatMap (fun b => (List.range 8).map b.getLsbD) ++ (List.range 6).map tag.testBit
  flit ++ leBytes 2 (tag + 64 * linkCrc bits)

/-- Two spans touch one 32-byte unit. -/
def spansMeet (a b : Nat × Nat) : Bool := a.1 / 32 * 32 < b.1 + b.2 && b.1 / 32 * 32 < a.1 + a.2

end Sys2Proof.Machine

namespace Sys2Proof

open Machine

/-- R369: header bytes 0 to 27. -/
def Pkt.head (p : Pkt) : List Byte :=
  leBytes 2 p.dest.toNat ++ leBytes 2 p.src.toNat ++ leBytes 2 p.jobTag.toNat ++ [p.cls, p.typ, p.flags, p.epoch] ++
    leBytes 2 p.seq.toNat ++ leBytes 2 p.len.toNat ++ [p.status, p.rsv] ++ leBytes 8 p.addr.toNat ++ leBytes 4 p.pcrc.toNat

/-- R369: the header's CRC, over the header with `VC` and `ESC` taken as 0. -/
def Pkt.headCrc (p : Pkt) : BitVec 32 := crc32c { p with cls := p.cls &&& 0xF1#8, flags := p.flags &&& 0xF7#8 }.head

/-- R369: the header's CRC and the payload's CRC hold. -/
def Pkt.hcrcOk (p : Pkt) : Bool := p.hcrc == p.headCrc
def Pkt.pcrcOk (p : Pkt) : Bool := p.pcrc == crc32c p.body

/-- A packet with both CRCs set. -/
def Pkt.sealed (p : Pkt) : Pkt :=
  let p := { p with pcrc := crc32c p.body }
  { p with hcrc := p.headCrc }

/-- R369: flits of a packet. -/
def Pkt.flits (p : Pkt) : Nat := ceilDiv (32 + p.body.length) 64

def Pkt.flag (p : Pkt) (i : Nat) : Bool := p.flags.getLsbD i

/-- R387: packets that wait for the earlier ones to their destination: `ORDERED`, and `MCAST` in the same way (DEDUCED, log 129). -/
def Pkt.ordered (p : Pkt) : Bool := p.flag 0 || p.flag 1

/-- Data bytes that the packet carries. -/
def Pkt.data (p : Pkt) : List Byte := p.body.take p.len.toNat

/-- The memory bytes at the destination that a kept packet writes or reads: start and length (R410). -/
def Pkt.span (p : Pkt) : Option (Nat × Nat) :=
  if p.typ.toNat = tStore then some (p.addr.toNat % 2 ^ 48, p.len.toNat)
  else if p.typ.toNat = tLoadReq then some (p.addr.toNat % 2 ^ 48, field p.body 0 2)
  else if p.typ.toNat = tAtomicReq then some (p.addr.toNat % 2 ^ 48 / 32 * 32, 32)
  else if p.typ.toNat = tSnap then some (2 ^ 48 + p.addr.toNat % 2 ^ 41, p.len.toNat)
  else none

/-- R360, R369: the link words that a packet travels in. -/
def Pkt.linkWords (k : Pkt) : List (List Byte) :=
  let flits := chunks 64 (k.head ++ leBytes 4 k.hcrc.toNat ++ k.body)
  flits.zipIdx.map (fun f => linkWord (bitsOf k.cls.toNat 1 3) (f.2 + 1 = flits.length) k.upper f.1)

/-- Whether the bytes of two packets meet. -/
def Pkt.meets (p q : Pkt) : Bool :=
  match p.span, q.span with
  | some a, some b => spansMeet a b
  | _, _ => false

/-- R410: packets that hold later accesses to their units: a store or an atomic. -/
def Pkt.writes (p : Pkt) : Bool := p.typ.toNat = tStore || p.typ.toNat = tAtomicReq

end Sys2Proof

namespace Sys2Proof.Machine

/-- A packet of this device before numbering: source, epoch and job tag are the device's own (R369). -/
def State.newPkt (s : State) (dest typ flags len addr : Nat) (body : List Byte) : Pkt :=
  { dest := dest, src := s.fab.coord, jobTag := s.fab.jobTag
    cls := if isData typ then 1 else 8, typ := typ, flags := flags, epoch := s.fab.epoch
    seq := 0, len := len, status := 0, rsv := 0, addr := addr, pcrc := 0, hcrc := 0, body := padBody typ body }

/-! ### Routing -/

/-- R357: the die of a port. -/
def portDie (p : Nat) : Nat := if p < 6 then p / 2 + 1 else 0

/-- Torus extent in a dimension, from the value of `FAB_COORD` (R378). -/
def extentOf (fabCoord dim : Nat) : Nat :=
  (if dim = 0 then bitsOf fabCoord 16 6 else if dim = 1 then bitsOf fabCoord 22 6 else bitsOf fabCoord 28 4) + 1

/-- A coordinate's place in a dimension (R23). -/
def coordOf (c dim : Nat) : Nat := if dim = 0 then c / 1024 % 64 else if dim = 1 then c / 16 % 64 else c % 16

/-- `FAB_COORD` as one word. -/
def State.fabCoord (s : State) : Nat := s.fab.coord.toNat + s.fab.extent.toNat * 65536

/-- R358: whether a coordinate is a torus coordinate. -/
def isTorus (fabCoord c : Nat) : Bool := ([0, 1, 2]).all (fun d => coordOf c d < extentOf fabCoord d)

/-- R375: the port code of the productive port in a dimension, if the dimension is productive. -/
def productive (fabCoord c dim : Nat) : Option Nat :=
  let sz := extentOf fabCoord dim
  let δ := (coordOf c dim + sz - coordOf (fabCoord % 65536) dim % sz) % sz
  if δ = 0 then none else some (if 2 * δ ≤ sz then 2 * dim + 1 else 2 * dim + 2)

/-- R376, R379: the dimension-order entry for a coordinate (DEDUCED, log 90). -/
def dimensionOrder (fabCoord c : Nat) : Nat :=
  if !isTorus fabCoord c then 15
  else ((([0, 1, 2] : List Nat).findSome? (productive fabCoord c)).getD 0)

/-- R379: an entry of an escape table (DEDUCED, log 90). -/
def EscTable.entry (t : EscTable) (c : Nat) : Nat := (Tab.find c t.written).getD (dimensionOrder t.base.toNat c)

/-- R399: in the cycle of a commit heads are still routed on the tables before it. -/
def State.escTable (s : State) : EscTable := if s.fab.commitAt == some s.cc then s.fab.escOld else s.fab.escActive
def State.substTable (s : State) : List Host.Cell := if s.fab.commitAt == some s.cc then s.fab.substOld else s.fab.substActive

/-- R380: the valid substitution entry for a coordinate: attaching coordinate and spur port code. -/
def State.substOf (s : State) (c : Nat) : Option (Nat × Nat) :=
  (List.range 16).findSome? (fun i =>
    let v := leNat (getBlock zeroByte (8 * i) 8 s.substTable)
    if bitAt v 63 && bitsOf v 0 16 = c then some (bitsOf v 16 16, bitsOf v 32 4) else none)

/-- R363: whether a port carries packets. -/
def State.portUp (s : State) (p : Nat) : Bool := s.fab.up.getLsbD p && !s.fab.admin.getLsbD p

/-- Where the router sends a head (R375, R376, R382, R383). -/
inductive Route where
  | port (p : Nat)
  | escape (p : Nat)
  | waits (p : Nat)
  | unreachable
  | here
  deriving DecidableEq, Repr

/-- R376: the escape route to a routing target. -/
def State.escRoute (s : State) (target : Nat) : Route :=
  match s.escTable.entry target with
  | 0 => .here
  | 15 => .unreachable
  | c => if c > 8 then .unreachable else if s.portUp (c - 1) then .escape (c - 1) else .waits (c - 1)

/-- R373, R374: free credit of a virtual channel of a port when the next head is routed, at most its buffer at the far end; what frees
it is not seen here (DESIGN CHOICE, log 33). -/
def State.credit (s : State) (p vc : Nat) : Nat := Config.freeCredit s.fab.heads p vc % 33

/-- R374: the adaptive channels of a class. -/
def adaptiveVcs (data : Bool) : List Nat := if data then [0, 1, 2] else [4]

/-- R375: free adaptive credit of a port for a class. -/
def State.portCredit (s : State) (p : Nat) (data : Bool) : Nat := ((adaptiveVcs data).map (s.credit p)).sum

/-- The first of a list whose weight is the greatest. -/
def bestOf (weight : Nat → Nat) : List Nat → Option Nat
  | [] => none
  | a :: l => some (l.foldl (fun b c => if weight c > weight b then c else b) a)

/-- R374, R375: the adaptive channel with most credit. -/
def State.adaptiveVc (s : State) (p : Nat) (data : Bool) : Nat := (bestOf (s.credit p) (adaptiveVcs data)).getD 0

/-- R375: the port codes of the productive ports that are up, ascending. -/
def State.productiveUp (s : State) (target : Nat) : List Nat :=
  (([0, 1, 2] : List Nat).filterMap (productive s.fabCoord target)).filter (fun c => s.portUp (c - 1))

/-- R375: the way of a packet among its productive ports: the one with most free credit; where none has credit, the escape route or
an adaptive channel, whichever frees first (DESIGN CHOICE, log 33). -/
def State.adaptive (s : State) (target : Nat) (cands : List Nat) (data : Bool) : Route :=
  match bestOf (fun c => s.portCredit (c - 1) data) cands with
  | none => s.escRoute target
  | some c =>
    if 0 < s.portCredit (c - 1) data || !Config.escapeFrees s.fab.heads then .port (c - 1)
    else match s.escRoute target with
      | .escape p => .escape p
      | _ => .port (c - 1)

/-- R375 to R383: the route of a packet of a class for a coordinate. -/
def State.route (s : State) (dest : Nat) (onEscape data : Bool) : Route :=
  let (target, spur) := match s.substOf dest with
    | some (a, sp) => (a, some sp)
    | none => (dest, none)
  if target = s.fab.coord.toNat then
    match spur with
    | some sp => if s.portUp (sp - 1) then .port (sp - 1) else .waits (sp - 1)
    | none => .here
  else if onEscape || !isTorus s.fabCoord target then s.escRoute target
  else s.adaptive target (s.productiveUp target) data

/-- The port number that stands for the die network in what leaves the device (DESIGN CHOICE, log 35). -/
def ownNetwork : Nat := 8

/-! ### Leaving on a port -/

/-- R361: link words in a retry buffer. -/
def retryWords : Nat := 3072

/-- R361, R363, R368: a packet goes onto a port's line: its words into the retry buffer, at 0.19 cc a flit, and over the link
(DESIGN CHOICE, log 128). -/
def Port.carry (v : Port) (now : Nat) (k : Pkt) : Port :=
  let free := max (100 * now) v.lineFree + 19 * k.flits
  { v with
    txSeq := v.txSeq + BitVec.ofNat 12 k.flits, sent := (k.linkWords.reverse ++ v.sent).take retryWords, lineFree := free
    wire := (ceilDiv free 100 + ceilDiv v.delay.toNat 64) :: v.wire.filter (fun t => t > now) }

/-- R376: whether a packet takes the upper escape buffer at its next hop: over a dateline link, or in the dimension it came in from an
upper buffer (DEDUCED, log 90). -/
def State.upperBuffer (s : State) (p : Nat) (k : Pkt) : Bool :=
  s.fab.dateline.getLsbD p || (k.flag 3 && k.upper && p < 6 && k.via.any (fun q => q.val < 6 && q.val / 2 = p / 2))

/-- R374, R376, R384: the virtual channel of a head that leaves on a port: escape, VC5 for a directed packet, or the adaptive one with
most credit. -/
def State.onChannel (s : State) (p : Nat) (esc : Bool) (k : Pkt) : Pkt :=
  let data := isData k.typ.toNat
  let vc := if esc then (if data then 3 else 5) else if k.flag 4 then 5 else s.adaptiveVc p data
  { k with
    cls := (k.cls &&& 0xF1#8) ||| BitVec.ofNat 8 (2 * vc), flags := if esc then k.flags ||| 8#8 else k.flags
    via := none, upper := esc && s.upperBuffer p k }

/-- A head leaves on a port (R400). -/
def State.transmit (s : State) (p : Nat) (esc : Bool) (k : Pkt) : State :=
  let k := s.onChannel p esc k
  let s := s.count (cFlitTx p) k.flits
  let s := if esc || k.flag 4 then s.count (cEscFlit p) k.flits else s
  let s := s.setFab { s.fab with
    heads := s.fab.heads + 1, ports := Tab.put p ((Tab.get {} p s.fab.ports).carry s.cc k) s.fab.ports }
  s.send (.packet p k)

/-- R383: a packet is discarded because it cannot be reached. -/
def State.inject (s : State) (k : Pkt) : State :=
  if k.dest = s.fab.coord then s.send (.packet ownNetwork k)
  else match s.route k.dest.toNat (k.flag 3) (isData k.typ.toNat) with
  | .port p => s.transmit p false k
  | .escape p => s.transmit p true k
  | .waits p => s.setFab { s.fab with escWaits := s.fab.escWaits ++ [⟨k, p, s.cc⟩] }
  | .unreachable => s.count cUnreach 1
  | .here => s

/-! ### Completion records and holds of the job -/

/-- R417: notes the end of a packet of a queue (8: scalar cores) in its completion record. -/
def State.noteStatus (s : State) (d q op addr status : Nat) : State :=
  let key := d * 16 + q
  let r := Tab.get {} key s.fab.comps
  let first := status ≠ 0 && status ≠ 5 && r.firstStatus = 0
  let r := { r with
    notResident := r.notResident + b2n (status == 4), busy := r.busy + b2n (status == 5)
    firstStatus := if first then status else r.firstStatus
    firstOp := if first then op else r.firstOp, firstAddr := if first then addr else r.firstAddr }
  s.setFab { s.fab with comps := Tab.put key r s.fab.comps }

/-- R417: an operation or access ends. -/
def State.noteEnd (s : State) (d q : Nat) (failed : Bool) : State :=
  let key := d * 16 + q
  let r := Tab.get {} key s.fab.comps
  s.setFab { s.fab with comps := Tab.put key { r with ended := r.ended + 1, errors := r.errors + b2n failed } s.fab.comps }

/-- R417: the 32 bytes of a completion record. -/
def CompRec.bytes (r : CompRec) : List Byte :=
  leBytes 4 r.ended ++ leBytes 4 r.errors ++ leBytes 1 r.firstStatus ++ leBytes 1 r.firstOp ++ leBytes 6 0 ++
    leBytes 8 r.firstAddr ++ leBytes 4 r.notResident ++ leBytes 4 r.busy

/-- A global address of a result or request (R23). -/
def globalAddr (coord a : Nat) : Nat := coord * 2 ^ 48 + a

/-- R416, R489: a status that holds the job: a program address fault with its address for a reserved or fenced target, else the
completion record (DEDUCED, log 91). -/
def State.remoteFault (s : State) (d q status : Nat) (u addr : Nat) : State :=
  s.hold { kind := if status ≤ 2 then 4 else 10, die := d, check := status, unit := u
           detail := if status ≤ 2 then leBytes 8 addr else (Tab.get {} (d * 16 + q) s.fab.comps).bytes }

/-! ### Sources -/

/-- Key of a source's sequence counter for a destination (R388). -/
def seqKey (die dest : Nat) : Nat := die * 65536 + dest

/-- R410: an earlier store or atomic of the same source holds a later access to one of its 32-byte units. -/
def Kept.holds (k : Kept) (cc die : Nat) (p : Pkt) : Bool :=
  k.die = die && k.pkt.dest = p.dest && (k.pkt.writes || (k.pkt.typ.toNat = tSnap && p.flag 0)) &&
    (!k.answered || (k.again && cc < k.first + msCc 12)) &&
    (k.pkt.meets p || (k.pkt.typ.toNat = tSnap && k.origin == Origin.snap p.dest.toNat 0))

/-- Unanswered packets of a source to a destination. -/
def State.unanswered (s : State) (die dest : Nat) : Nat :=
  (s.fab.kept.filter (fun k => k.die = die && k.pkt.dest.toNat = dest && !k.answered)).length

/-- R387: whether a packet that a source sent before another to the same destination is unanswered. -/
def State.earlierOpen (s : State) (q : Queued) : Bool :=
  s.fab.kept.any (fun k => k.die = q.die && k.pkt.dest = q.pkt.dest && !k.answered && k.no < q.no)

/-- R411: requests of one list. -/
def Origin.sameList : Origin → Origin → Bool
  | .atomic d q _, .atomic e r _ => d = e && q = r
  | _, _ => false

/-- R387, R388, R410, R411: what a packet must wait for at its source: 0 nothing, 1 order, 2 an overlap, 3 the window, 4 an earlier
request of its list. The packets that wait already came before it. -/
def State.mustWait (s : State) (q : Queued) : Nat :=
  let ahead := s.fab.queued.filter (fun r => r.die = q.die && r.pkt.dest = q.pkt.dest)
  if s.fab.kept.any (fun k => k.holds s.cc q.die q.pkt) || ahead.any (fun r => r.pkt.writes && r.pkt.meets q.pkt) then 2
  else if q.pkt.ordered && (s.earlierOpen q || !ahead.isEmpty) then 1
  else if s.unanswered q.die q.pkt.dest.toNat ≥ 4096 then 3
  else if s.fab.queued.any (fun r => r.origin.sameList q.origin) then 4
  else 0

/-- The port that a packet would leave by now; 255 for none. -/
def State.portOf (s : State) (k : Pkt) : Nat :=
  if k.dest = s.fab.coord then ownNetwork
  else match s.route k.dest.toNat (k.flag 3) (isData k.typ.toNat) with
  | .port p => p
  | .escape p => p
  | _ => 255

/-- Whether the escape entry of a destination's routing target is 15 (R416). -/
def State.noRoute (s : State) (dest : Nat) : Bool := s.escTable.entry (((s.substOf dest).map (·.1)).getD dest) = 15

/-- R416: status 6, given at the source to an access of the program that cannot be reached: the job is held. None for other traffic. -/
def State.unreachable (s : State) (q : Queued) : Option State :=
  let addr := globalAddr q.pkt.dest.toNat (q.pkt.addr.toNat % 2 ^ 48)
  let fault (d c op u : Nat) : Option State := some ((s.noteStatus d c op addr 6).remoteFault d c 6 u addr)
  if !s.noRoute q.pkt.dest.toNat then none
  else match q.origin with
    | .put d c => fault d c 1 c
    | .get d c _ _ => fault d c 2 c
    | .atomic d c _ => fault d c 0x3F c
    | .coreLoad n core _ _ _ => fault (n / 16) 8 0xFF (unitLocator n 2 core)
    | .coreStore n core => fault (n / 16) 8 0xFF (unitLocator n 2 core)
    | _ => none

/-- R389: a packet is kept until it is answered. -/
def State.keepPkt (s : State) (q : Queued) (p : Pkt) : State :=
  s.setFab { s.fab with
    kept := s.fab.kept ++ [{ die := q.die, pkt := p, origin := q.origin, first := s.cc, last := s.cc, port := s.portOf p, no := q.no }] }

/-- A packet of an origin leaves; a Blaze by its own port if that is up (R445) (DEDUCED, log 46). -/
def State.leave (s : State) (o : Origin) (p : Pkt) : State :=
  match o with
  | .blaze _ port => if port < 8 && s.portUp port then s.transmit port false p else s.inject p
  | _ => s.inject p

/-- R388, R389, R416: a packet is kept and sent, unless the job's access cannot be reached. -/
def State.launch (s : State) (q : Queued) : State :=
  let p := { q.pkt with epoch := s.fab.epoch }.sealed
  match s.unreachable q with
  | some t => t
  | none => (s.keepPkt q p).leave q.origin p

/-- One waiting packet leaves if it may, else it waits on. -/
def State.pumpOne (s : State) (q : Queued) : State :=
  match s.mustWait q with
  | 0 => s.launch q
  | w => s.setFab { s.fab with queued := s.fab.queued ++ [{ q with why := w }] }

/-- R400, R421, R573: the cycles since the last count in which a source held an `ORDERED` packet, and those in which it held one for an
overlap, each counted once however many packets waited. -/
def State.countWaits (s : State) (waiting : List Queued) : State :=
  ([0, 1, 2, 3] : List Nat).foldl (fun (s : State) d =>
    ([true, false] : List Bool).foldl (fun (s : State) ordered =>
      match ((waiting.filter (fun q => q.die = d && (if ordered then q.pkt.flag 0 else q.why = 2))).map (·.since)).min? with
      | some t => s.count (if ordered then cOrderHold d else cOverlapHold d) (s.cc - t)
      | none => s) s) s

/-- Waiting packets that may leave, leave; the others wait on from here. -/
def State.pump (s : State) : State :=
  let before := s.fab.queued
  let s := (s.setFab { s.fab with queued := [] }).countWaits before
  (before.map (fun (q : Queued) => { q with since := s.cc })).foldl State.pumpOne s

/-- R387, R388: a packet of an acknowledged or answered type takes its number and its place among the packets of the device's
sources. -/
def State.number (s : State) (die : Nat) (p : Pkt) (o : Origin) : State × Queued :=
  let key := seqKey die p.dest.toNat
  let no := Tab.get 0 key s.fab.seqNos
  (s.setFab { s.fab with seqNos := Tab.put key (no + 1) s.fab.seqNos, posted := s.fab.posted + 1 },
   { die := die, pkt := { p with seq := BitVec.ofNat 16 (die * 16384 + no % 16384) }, origin := o, since := s.cc, no := s.fab.posted })

/-- A source sends a packet of an acknowledged or answered type. -/
def State.post (s : State) (die : Nat) (p : Pkt) (o : Origin) : State :=
  let q := s.number die p o
  q.1.pumpOne q.2

/-- R369, R371: the acknowledgement of one packet. -/
def State.sendAck (s : State) (p : Pkt) (status : Nat) : State :=
  let a := s.newPkt p.src.toNat tAck 0 32 0 (leBytes 2 p.seq.toNat ++ leBytes 1 status ++ [0] ++ leBytes 8 1)
  let s := if status = 5 then s.count cBusySent 1 else s
  s.inject { a with jobTag := p.jobTag, status := status }.sealed

/-- A reply to a request (R404, R411): its `SEQ` and status. -/
def State.sendReply (s : State) (p : Pkt) (typ status len : Nat) (body : List Byte) : State :=
  let a := s.newPkt p.src.toNat typ 0 len 0 body
  let s := if status = 5 then s.count cBusySent 1 else s
  s.inject { a with jobTag := p.jobTag, seq := p.seq, status := status }.sealed

/-- Packets that a source no longer needs are forgotten: answered, and no longer holding others (R410). -/
def State.forget (s : State) : State :=
  s.setFab { s.fab with kept := s.fab.kept.filter (fun (k : Kept) =>
    !(k.answered && (!k.again || s.cc ≥ k.first + msCc 12))) }

/-- The kept packet that an answer names: destination that answered and `SEQ`. -/
def State.keptOf (s : State) (dest seq : Nat) : Option Kept :=
  s.fab.kept.find? (fun k => !k.answered && k.pkt.dest.toNat = dest && k.pkt.seq.toNat = seq)

/-- Changes the kept packet with a destination and `SEQ`. -/
def State.updateKept (s : State) (dest seq : Nat) (f : Kept → Kept) : State :=
  s.setFab { s.fab with kept := s.fab.kept.map (fun (k : Kept) =>
    if k.pkt.dest.toNat = dest && k.pkt.seq.toNat = seq && !k.answered then f k else k) }

end Sys2Proof.Machine
end

