-- ==== Sys2Proof/Machine/FabricOps.lean ====
section
/-! DEFINITION. The fabric slot (R396 to R398, R411): `FPUT`, `FGET`, `FATOMIC` and `FWAIT`, and what an answer to one of
their packets does (R416, R417). -/

namespace Sys2Proof.Machine

/-- Fields of a fabric or memory slot (R296, R396). -/
def slotField (arg : BitVec 56) (lo w : Nat) : Nat := bitsOf arg.toNat lo w

/-- What reading a die-level slot for issue finds. -/
inductive SlotPlan where
  | bad
  /-- An access that memory refuses (R31, R32): address, status and the function that the record names. -/
  | refuse (addr status : Nat) (func : Nat := 0xFF)
  | badMeta (check addr : Nat)
  | wait (level : Nat)
  | ok
  deriving DecidableEq, Repr

/-- Key of a queue of a die. -/
def queueKey (d q : Nat) : Nat := d * 16 + q

/-- The 64-byte descriptor of a die-level slot: bad alignment, a place that cannot be read, or its bytes (R296) (DEDUCED, log 86). -/
def State.dieDescriptor (s : State) (d : Nat) (units : Nat) : Except SlotPlan (List Byte) :=
  let off := units * 32
  if off % 64 ≠ 0 then .error .bad
  else if off + 64 > 0x1000000000 then .error (.refuse (windowBase d + off) 1)
  else match s.rangeFault d (windowBase d + off) 64 with
    | some f => .error (.refuse f.1 f.2)
    | none => .ok (s.readLocal (windowBase d + off) 64)

/-- The operations of a fabric queue. -/
def State.fabQueue (s : State) (d q : Nat) : List FabOp := Tab.get [] (queueKey d q) s.fab.queues
def State.setFabQueue (s : State) (d q : Nat) (l : List FabOp) : State :=
  s.setFab { s.fab with queues := Tab.put (queueKey d q) l s.fab.queues }

/-- Fields of `FPUT` and `FGET` (R397). -/
structure XferDesc where
  loc : Nat
  coord : Nat
  remote : Nat
  len : Nat
  rows : Nat
  hint : Nat
  ordered : Bool
  lpitch : Nat
  rpitch : Nat
  deriving DecidableEq, Repr

/-- R397, R300: the descriptor's fields, if in range. -/
def State.xferFields (s : State) (b : List Byte) : Option XferDesc :=
  match s.ownAddr (field b 0 8) with
  | none => none
  | some loc =>
    let d : XferDesc := { loc := loc, coord := field b 14 2, remote := field b 8 6, len := field b 16 4, rows := field b 20 2
                          hint := field b 22 1, ordered := field b 23 1 = 1, lpitch := field b 24 4, rpitch := field b 28 4 }
    if loc % 32 ≠ 0 || d.remote % 32 ≠ 0 || d.coord = s.fab.coord.toNat || d.len = 0 || d.len % 32 ≠ 0 || d.rows = 0 ||
        d.hint > 3 || field b 23 1 > 1 || field b 32 32 ≠ 0 || d.lpitch % 32 ≠ 0 || d.rpitch % 32 ≠ 0 then none
    else some d

/-- R398: a transfer's pieces in order: local and remote address, length. -/
def XferDesc.pieces (d : XferDesc) : List (Nat × Nat × Nat) :=
  (List.range d.rows).flatMap (fun r =>
    (List.range (ceilDiv d.len 4096)).map (fun k =>
      (d.loc + r * d.lpitch + 4096 * k, d.remote + r * d.rpitch + 4096 * k, min 4096 (d.len - 4096 * k))))

/-- R412: width in bytes of an atomic type. -/
def atomWidth (t : Nat) : Nat := if t = 1 || t = 4 then 8 else 4

/-- R412: the listed pairs of operation and type. -/
def atomListed (op t : Nat) : Bool :=
  match op with
  | 1 => t ≤ 2
  | 2 | 5 => t ≤ 1
  | 3 | 4 => t ≤ 4
  | _ => false

/-- R411: a request entry that is not a metadata fault. -/
def State.atomEntryOk (s : State) (e : List Byte) : Bool :=
  let op := field e 8 1 % 16
  let t := field e 8 1 / 16
  atomListed op t && field e 0 8 % atomWidth t = 0 && field e 6 2 ≠ s.fab.coord.toNat && field e 9 7 = 0 &&
    (op = 2 || field e 24 8 = 0) && (atomWidth t = 8 || (field e 20 4 = 0 && field e 28 4 = 0))

/-- R411: the fields of an `FATOMIC` descriptor: list, result, count. -/
def State.atomicFields (s : State) (b : List Byte) : Option (Nat × Nat × Nat) :=
  match s.ownAddr (field b 0 8), s.ownAddr (field b 8 8) with
  | some l, some r =>
    if l % 32 ≠ 0 || r % 32 ≠ 0 || field b 16 2 = 0 || field b 16 2 > 4096 || field b 18 46 ≠ 0 then none
    else some (l, r, field b 16 2)
  | _, _ => none

/-- The packets of an operation, with what each belongs to. -/
def State.fabPackets (s : State) (d q : Nat) (o : FabOp) : List (Pkt × Origin) :=
  if o.op = 0x10 then []
  else if o.op = 0x3F then
    match s.atomicFields o.desc with
    | none => []
    | some (l, r, n) => (List.range n).map (fun i =>
        let e := s.readLocal (l + 32 * i) 32
        (s.newPkt (field e 6 2) tAtomicReq 0 32 (field e 0 6)
          (leBytes 1 (field e 8 1) ++ leBytes 7 0 ++ byteField e 16 8 ++ byteField e 24 8), Origin.atomic d q (r + 16 * i)))
  else
    match s.xferFields o.desc with
    | none => []
    | some x =>
      let ps := x.pieces
      ps.zipIdx.map (fun p =>
        let last := p.2 + 1 = ps.length && x.ordered
        if o.op = 1 then
          (s.newPkt x.coord tStore (if last then 1 else 0) p.1.2.2 p.1.2.1 (s.readLocal p.1.1 p.1.2.2), Origin.put d q)
        else
          (s.newPkt x.coord tLoadReq (if last then 1 else 0) 32 p.1.2.1 (leBytes 2 p.1.2.2), Origin.get d q p.1.1 x.hint))

/-- R411: the first entry of a list that is a metadata fault when its requests are formed. -/
def State.badEntry (s : State) (o : FabOp) : Option Nat :=
  if o.op ≠ 0x3F then none
  else match s.atomicFields o.desc with
    | none => none
    | some (l, _, n) => ((List.range n).find? (fun i => !s.atomEntryOk (s.readLocal (l + 32 * i) 32))).map (fun i => l + 32 * i)

/-- R307, R397: what the reads of an operation's start do to the partition: `FPUT` with its hint, a request list as `NORMAL`
(DESIGN CHOICE, log 126). -/
def State.fabReads (s : State) (o : FabOp) : State :=
  if o.op = 1 then
    match s.xferFields o.desc with
    | some x => s.noteReads ((rowStarts x.loc x.lpitch x.rows).map (·, x.len)) x.hint
    | none => s
  else if o.op = 0x3F then
    match s.atomicFields o.desc with
    | some (l, _, n) => s.noteRead l (32 * n) 0
    | none => s
  else s

/-- R398: the operation at the head of a queue starts: its packets are numbered and sent in order. -/
def State.startFab (s : State) (d q : Nat) : State :=
  match s.fabQueue d q with
  | [] => s
  | o :: rest =>
    if o.started then s
    else
      let ps := s.fabPackets d q o
      let s := (s.fabReads o).setFabQueue d q ({ o with started := true, left := if o.op = 0x10 then 1 else ps.length } :: rest)
      let s := match o.coll with
        | some (c, i) => { s with coll := { s.coll with insts := s.coll.insts.map (fun (x : CollInst) =>
            if x.die = d && x.cdesc = c && x.inst = i then { x with running := true } else x) } }
        | none => s
      match s.badEntry o with
      | some a => s.hold { kind := 3, die := d, check := 2, detail := leBytes 1 o.op ++ leBytes 8 a }
      | none => ps.foldl (fun s p => if s.job.state == .held then s else s.post d p.1 p.2) s

/-- R398: the operation at the head of a queue ends, and the next starts. -/
def State.endFab (s : State) (d q : Nat) : State :=
  match s.fabQueue d q with
  | [] => s
  | o :: rest => ((s.setFabQueue d q rest).noteEnd d q o.failed).startFab d q

/-- R398: one packet of the operation at the head of a queue has its answer. -/
def State.fabAnswered (s : State) (d q status : Nat) : State :=
  match s.fabQueue d q with
  | [] => s
  | o :: rest =>
    let o := { o with failed := o.failed || status ≠ 0 }
    if o.left ≤ 1 then (s.setFabQueue d q ({ o with left := 0 } :: rest)).endFab d q
    else s.setFabQueue d q ({ o with left := o.left - 1 } :: rest)

/-- R416: whether a status holds the job. -/
def holdStatus (status : Nat) : Bool := status = 1 || status = 2 || status = 3 || status = 6

/-- R404, R411, R416: what an answer with a status other than busy does, by what its packet belongs to. The answers of
the exchange, of collectives and of Seedbank are handled where those are. -/
def State.answered (s : State) (k : Kept) (status : Nat) (data : List Byte) : State :=
  let addr := globalAddr k.pkt.dest.toNat (k.pkt.addr.toNat % 2 ^ 48)
  match k.origin with
  | .put d q =>
    let s := s.noteStatus d q 1 addr status
    if holdStatus status then s.remoteFault d q status q addr else s.fabAnswered d q status
  | .get d q dst hint =>
    let s := s.noteStatus d q 2 addr status
    if holdStatus status then s.remoteFault d q status q addr
    else
      let n := field k.pkt.body 0 2
      (s.writeLocal dst hint (if status = 0 then byteField data 0 n else List.replicate n 0)).fabAnswered d q status
  | .atomic d q result =>
    let s := s.noteStatus d q 0x3F addr status
    let old := if status = 0 then byteField data 0 8 else List.replicate 8 0
    let s := s.writeLocal result 0 (old ++ leBytes 8 status)
    if holdStatus status then s.remoteFault d q status q addr else s.fabAnswered d q status
  | .coreLoad n core rd off size =>
    let s := s.noteStatus (n / 16) 8 0xFF addr status
    let s := s.noteEnd (n / 16) 8 (status ≠ 0)
    if holdStatus status then s.remoteFault (n / 16) 8 status (unitLocator n 2 core) addr
    else
      let c := s.cluster n
      let v := if status = 0 then field data off size else 0
      s.setCluster n { c with cores := setCore c core (fun (k : Core) =>
        { k with waiting := none, regs := if rd = 0 then k.regs else k.regs.set! rd (BitVec.ofNat 64 v) }) }
  | .coreStore n core =>
    let s := s.noteStatus (n / 16) 8 0xFF addr status
    let s := s.noteEnd (n / 16) 8 (status ≠ 0)
    if holdStatus status then s.remoteFault (n / 16) 8 status (unitLocator n 2 core) addr
    else
      let c := s.cluster n
      s.setCluster n { c with cores := setCore c core (fun (k : Core) => { k with outstanding := k.outstanding - 1 }) }
  | _ => s

/-! ### Issue -/

/-- R396, R398: what reading a fabric slot of `FPUT`, `FGET` or `FATOMIC` finds. -/
def State.planFab (s : State) (d op : Nat) (arg : BitVec 56) : SlotPlan :=
  if slotField arg 55 1 ≠ 0 || slotField arg 40 12 ≠ 0 || slotField arg 32 8 ≠ 0 then .bad
  else match s.dieDescriptor d (slotField arg 0 32) with
    | .error e => e
    | .ok b =>
      if (s.fabQueue d (slotField arg 52 3)).length ≥ 8 then .wait 3
      else if op = 0x3F then
        match s.atomicFields b with
        | none => .bad
        | some (l, r, n) =>
          match s.rangesFault d [(l, 32 * n), (r, 16 * n)] with
          | some f => .refuse f.1 f.2
          | none =>
            match (List.range n).find? (fun i => !s.atomEntryOk (s.readLocal (l + 32 * i) 32)) with
            | some i => .badMeta 2 (l + 32 * i)
            | none => .ok
      else
        match s.xferFields b with
        | none => .bad
        | some x =>
          match s.rangesFault d ((rowStarts x.loc x.lpitch x.rows).map (·, x.len)) with
          | some f => .refuse f.1 f.2
          | none => .ok

/-- An operation joins a queue, with its number on the die (R444). -/
def State.pushFab (s : State) (d q : Nat) (o : FabOp) : State :=
  let r := Tab.get {} d s.fab.routers
  let s := s.setFab { s.fab with routers := Tab.put d { r with opNo := r.opNo + 1 } s.fab.routers }
  (s.setFabQueue d q (s.fabQueue d q ++ [{ o with no := r.opNo }])).startFab d q

/-- An accepted fabric operation joins its queue. -/
def State.joinFab (s : State) (d op : Nat) (arg : BitVec 56) : State :=
  let q := slotField arg 52 3
  match s.dieDescriptor d (slotField arg 0 32) with
  | .error _ => s
  | .ok b =>
    let s := match op, s.xferFields b with
      | 1, some x => s.count cStageMiss (s.missedPages ((rowStarts x.loc x.lpitch x.rows).map (·, x.len))).length
      | 2, some x => s.count cStageMissW (s.missedPages ((rowStarts x.loc x.lpitch x.rows).map (·, x.len))).length
      | _, _ => s
    s.pushFab d q { op := op, desc := b }

/-- `FWAIT`: whether every operation on the masked queues has ended. -/
def State.planFwait (s : State) (d : Nat) (arg : BitVec 56) : SlotPlan :=
  if slotField arg 40 16 ≠ 0 || slotField arg 0 32 ≠ 0 then .bad
  else if (maskBits 8 (slotField arg 32 8)).all (fun q => (s.fabQueue d q).isEmpty) then .ok
  else .wait 3

/-- Whether memory refuses what a slot reads or moves. -/
def SlotPlan.refused : SlotPlan → Bool
  | .refuse _ _ _ => true
  | _ => false

/-- Whether a slot of a die needs a part: the die, the units of its class, and memory that refuses it while fenced. -/
def State.slotNeeds (s : State) (d : Nat) (units : List Nat) (plan : State → SlotPlan) (key : Nat) : Bool :=
  key = stateKey 3 d || units.contains key ||
    (1 ≤ key / 2 ^ 16 && key / 2 ^ 16 ≤ 3 && (plan (s.without key)).refused && !(plan s).refused)

/-- What a slot of a die does by what reading it finds; it issues at cycle `t` at the earliest. -/
def State.takeSlot (s : State) (d op t : Nat) (p : SlotPlan) (go : State → State) : State :=
  match p with
  | .bad => s.imageFault d
  | .refuse a st f => s.hold { kind := 4, func := f, die := d, check := st, detail := leBytes 8 a }
  | .badMeta c a => s.hold { kind := 3, die := d, check := c, detail := leBytes 1 op ++ leBytes 8 a }
  | .wait level => s.holdBundle d level 0
  | .ok => go ((s.unblock d t).awaitUnits t)

/-- A die-level slot as the only slot of a bundle, with the units of its class (DESIGN CHOICE, log 80). -/
def State.slotAlone (s : State) (d op : Nat) (units : List Nat) (plan : State → SlotPlan) (go : State → State) : State :=
  if s.job.state = .held then s
  else match s.wakeNeeded (s.issueCycle d) (s.slotNeeds d units plan) with
  | .hold s => s.holdBundle d 1 3
  | .from1 s t => s.takeSlot d op t (plan s) go

def execFput (d : Fin 4) (arg : BitVec 56) (s : State) : Result :=
  done (s.slotAlone d 1 [] (·.planFab d 1 arg) (·.joinFab d 1 arg))

def execFget (d : Fin 4) (arg : BitVec 56) (s : State) : Result :=
  done (s.slotAlone d 2 [] (·.planFab d 2 arg) (·.joinFab d 2 arg))

def execFatomic (d : Fin 4) (arg : BitVec 56) (s : State) : Result :=
  done (s.slotAlone d 0x3F [] (·.planFab d 0x3F arg) (·.joinFab d 0x3F arg))

def execFwait (d : Fin 4) (arg : BitVec 56) (s : State) : Result :=
  done (s.slotAlone d 4 [] (·.planFwait d arg) id)

end Sys2Proof.Machine
end

