-- ==== Sys2Proof/Machine/Sillage.lean ====
section
/-! DEFINITION. Sillage: contexts (R192), the choice operations `SCORE`, `MERGE` and `HASH` (R195 to R208) and `ADMIT`
(R209 to R214), as the writes that land when the operation ends. -/

namespace Sys2Proof.Machine

/-- Layer counters of R215, kind 2. -/
def cSelShort (l : Nat) : Nat := ctrKey 2 l 6
def cSelAdmit (l : Nat) : Nat := ctrKey 2 l 7
def cSelDrop (l : Nat) : Nat := ctrKey 2 l 8
def cSelSkip (l : Nat) : Nat := ctrKey 2 l 9
def cRenormSkip (l : Nat) : Nat := ctrKey 2 l 10
def cSelBusy (l : Nat) : Nat := ctrKey 2 l 11
def cSillCe (d : Nat) : Nat := ctrKey 4 d 10

/-- SILL cycles as CORE cycles (R40: 1.6 GHz against 1.2 GHz), rounded up. -/
def sillCc (k : Nat) : Nat := ceilDiv (3 * k) 4

def State.sillage (s : State) (d : Nat) : Sillage := Tab.get {} d s.sill
def State.setSillage (s : State) (d : Nat) (u : Sillage) : State := { s with sill := Tab.put d u s.sill }

/-- A context (R192). Plane addresses are local addresses. -/
structure Ctx where
  mode : Nat
  split : Bool
  renorm : Bool
  wmode : Nat
  k : Nat
  sfmt : Nat
  layer : Nat
  e : Nat
  ed : Nat
  slices : Nat
  slice : Nat
  expBase : Nat
  capFactor : Nat
  capMin : Nat
  scores : Nat
  spitch : Nat
  keys : Nat
  cand : Nat
  choice : Nat
  summary : Nat
  lists : Nat
  counters : Nat
  deriving DecidableEq, Repr

/-- Local address of a plane of a die, given in 32-byte units of its SRAM window (R192). -/
def planeAt (d units : Nat) : Nat := windowBase d + 32 * units

/-- R192: a context of die `d`. -/
def ctxOf (d : Nat) (b : List Byte) : Ctx :=
  let p (off : Nat) : Nat := planeAt d (field b off 4)
  { mode := bitsOf (field b 0 1) 0 2, split := bitAt (field b 0 1) 2, renorm := bitAt (field b 0 1) 3
    wmode := bitsOf (field b 0 1) 4 2, k := field b 1 1, sfmt := field b 2 1, layer := field b 3 1, e := field b 4 4
    ed := field b 8 2, slices := field b 10 1, slice := field b 11 1, expBase := field b 12 4
    capFactor := field b 16 4, capMin := field b 20 2, scores := p 24, spitch := field b 28 4, keys := p 32
    cand := p 36, choice := p 40, summary := p 44, lists := p 48, counters := p 52 }

/-- The bytes of context `c` of a die (R191). -/
def State.context (s : State) (d c : Nat) : List Byte := getBlock zeroByte (64 * c) 64 (s.sillage d).contexts

/-! ### The order of choice -/

/-- A scored expert. -/
structure Scored where
  score : Val
  expert : Nat
  deriving DecidableEq, Repr

/-- R196: the tie key of an expert for a token key. -/
def tieKey (key : Word) (x : Nat) : Nat := (mix64 (key ^^^ (BitVec.ofNat 64 x * 0x9E3779B97F4A7C15#64))).toNat

/-- R197: choice `a` is better than choice `b`. -/
def better (key : Word) (a b : Scored) : Bool :=
  if b.score.lt a.score then true
  else if a.score.lt b.score then false
  else if tieKey key a.expert ≠ tieKey key b.expert then tieKey key a.expert < tieKey key b.expert
  else a.expert < b.expert

/-- R198, R200: the best `k` candidates in descending order; NaN scores are never chosen. -/
def topK (key : Word) (k : Nat) (l : List Scored) : List Scored :=
  l.foldl (fun best x => if x.score.isNan then best else (insertBy (better key) x best).take k) []

/-- R208: the weights of a token's choices, in rank order. -/
def choiceWeights (wmode : Nat) (scores : List Val) : List Val :=
  match wmode with
  | 0 => scores
  | 1 =>
    let m := scores.headD .nan
    let es := scores.map (fun x => fExp (fSub x m))
    let q := fRcp ((es.drop 1).foldl fAdd (es.headD .nan))
    es.map (fun e => fMul e q)
  | _ => scores.map (fun _ => .ofNat 1)

/-- FP32 code of a value. -/
def f32Code (v : Val) : Nat := fp32.encode .rne v

/-- R206: a choice record. -/
def choiceRecord (expert slot weight : Nat) : List Byte := leBytes 2 expert ++ leBytes 2 slot ++ leBytes 4 weight

/-- R206: the `K` choice records of a token before admission. -/
def choiceRecords (c : Ctx) (wmode : Nat) (chosen : List Scored) : List Byte :=
  let ws := choiceWeights wmode (chosen.map (·.score))
  ((chosen.zip ws).flatMap (fun p => choiceRecord p.1.expert 0xFFFF (f32Code p.2))) ++
    (List.range (c.k - chosen.length)).flatMap (fun _ => choiceRecord 0 0xFFFF 0)

/-- R207: a summary entry. -/
def summaryEntry (nc na : Nat) (short skip renormed : Bool) : List Byte :=
  leBytes 4 (nc + 32 * na + 1024 * b2n short + 2048 * b2n skip + 4096 * b2n renormed)

/-- R196: the key of a token. -/
def State.tokenKey (s : State) (c : Ctx) (t : Nat) : Word := BitVec.ofNat 64 (leNat (getBlock zeroByte (c.keys + 8 * t) 8 s.sram))

/-- R195: the scored experts of a token on this die. -/
def State.tokenScores (s : State) (c : Ctx) (t : Nat) : List Scored :=
  let f := (Fmt.ofCode c.sfmt).getD .f32
  let row := getBlock zeroByte (c.scores + t * c.spitch) (c.ed * f.bits / 8) s.sram
  (unpackCodes f.bits row).zipIdx.map (fun p => ⟨f.decode p.1, c.expBase + p.2⟩)

/-- What an operation of a pipeline finds when it starts. -/
inductive SillStart where
  | fault (unit plane addr status : Nat)
  | badMeta (unit addr : Nat)
  | integrity (unit check src : Nat)
  | runs (cycles : Nat) (effs : List Eff)
  deriving DecidableEq, Repr

/-- R192: the first address of a range that lies beyond the SRAM window of a die, with the status of an address that the
program may not reach (R31). -/
def beyondWindow (d a len : Nat) : Option (Nat × Nat) :=
  if len = 0 then none
  else if a < windowBase d || a ≥ windowBase (d + 1) then some (a, 1)
  else if a + len > windowBase (d + 1) then some (windowBase (d + 1), 1) else none

/-- R192, R220: the first plane access that is refused: context offset of the plane, address, status. Through its planes
Sillage reaches no memory but its die's window. -/
def State.planeFault (s : State) (d : Nat) (rs : List (Nat × Nat × Nat)) : Option (Nat × Nat × Nat) :=
  rs.findSome? (fun r => ((s.rangeFault d r.2.1 r.2.2).or (beyondWindow d r.2.1 r.2.2)).map (fun f => (r.1, f.1, f.2)))

/-- A start with its planes checked. -/
def State.withPlanes (s : State) (d unit : Nat) (rs : List (Nat × Nat × Nat)) (k : SillStart) : SillStart :=
  match s.planeFault d rs with
  | some f => .fault unit f.1 f.2.1 f.2.2
  | none => k

/-- The writes of choice records and summary entries of a pass, from the choices of its tokens in token order. -/
def choiceEffs (c : Ctx) (first wmode : Nat) (short : Bool) (chosen : List (List Scored)) : List Eff :=
  let marks := chosen.map (fun l => short && l.length < c.k)
  [.sram (c.choice + 8 * c.k * first) (chosen.flatMap (choiceRecords c wmode)),
   .sram (c.summary + 4 * first) ((chosen.zip marks).flatMap (fun p => summaryEntry p.1.length 0 p.2 false false)),
   .count (cSelShort c.layer) (marks.filter id).length]

/-- Planes that hold the choices of a pass. -/
def Ctx.choicePlanes (c : Ctx) (first n : Nat) : List (Nat × Nat × Nat) :=
  [(40, c.choice + 8 * c.k * first, 8 * c.k * n), (44, c.summary + 4 * first, 4 * n)]

def passTokens (o : SillOp) : List Nat := (List.range o.n).map (· + o.first)

/-- R203: a candidate record. -/
def candRecord (x : Option Scored) : List Byte :=
  match x with
  | some c => leBytes 4 (f32Code c.score) ++ leBytes 2 c.expert ++ leBytes 2 0
  | none => leBytes 4 0x7FC00000 ++ leBytes 4 0

/-- R201: `SCORE`. -/
def State.startScore (s : State) (d : Nat) (o : SillOp) (c : Ctx) : SillStart :=
  let f := (Fmt.ofCode c.sfmt).getD .f32
  let cycles := o.n * ceilDiv c.ed 256 + 40
  let reads := (32, c.keys + 8 * o.first, 8 * o.n) ::
    (passTokens o).map (fun t => (24, c.scores + t * c.spitch, c.ed * f.bits / 8))
  let chosen := (passTokens o).map (fun t => topK (s.tokenKey c t) c.k (s.tokenScores c t))
  if c.split then
    let at8 (t : Nat) : Nat := c.cand + 8 * ((t * c.slices + c.slice) * c.k)
    s.withPlanes d 0 (reads ++ (passTokens o).map (fun t => (36, at8 t, 8 * c.k)))
      (.runs cycles (((passTokens o).zip chosen).map (fun p =>
        .sram (at8 p.1) ((List.range c.k).flatMap (fun r => candRecord p.2[r]?)))))
  else s.withPlanes d 0 (reads ++ c.choicePlanes o.first o.n) (.runs cycles (choiceEffs c o.first c.wmode true chosen))

/-- A candidate that R204 refuses. -/
def badCand (c : Ctx) (v : Nat) : Bool := bitsOf v 48 16 ≠ 0 || bitsOf v 32 16 ≥ c.e

/-- R204: `MERGE`. -/
def State.startMerge (s : State) (d : Nat) (o : SillOp) (c : Ctx) : SillStart :=
  let span := 8 * c.slices * c.k
  let recs (t : Nat) : List Nat := (chunks 8 (getBlock zeroByte (c.cand + t * span) span s.sram)).map leNat
  let chosen := (passTokens o).map (fun t => topK (s.tokenKey c t) c.k
    ((recs t).map (fun v => ⟨fp32.decode (v % 2 ^ 32), bitsOf v 32 16⟩)))
  s.withPlanes d 0 ((32, c.keys + 8 * o.first, 8 * o.n) :: (36, c.cand + o.first * span, o.n * span) ::
      c.choicePlanes o.first o.n)
    (match (passTokens o).findSome? (fun t => ((recs t).findIdx? (badCand c)).map (fun i => c.cand + t * span + 8 * i)) with
      | some a => .badMeta 1 a
      | none => .runs (o.n + 40) (choiceEffs c o.first c.wmode true chosen))

/-- R205: `HASH`. -/
def State.startHash (s : State) (d : Nat) (o : SillOp) (c : Ctx) : SillStart :=
  let chosen := (passTokens o).map (fun t => [(⟨.ofNat 1, (mix64 (s.tokenKey c t)).toNat % c.e⟩ : Scored)])
  s.withPlanes d 0 ((32, c.keys + 8 * o.first, 8 * o.n) :: c.choicePlanes o.first o.n)
    (.runs (o.n + 24) (choiceEffs c o.first 2 false chosen))

/-! ### Admission -/

/-- Numerator and denominator of an FP32 value that is finite and above 0, as R209 needs it exactly. -/
def f32Ratio (code : Nat) : Nat × Nat :=
  match fp32.decode code with
  | .num _ mag e => if 0 ≤ e then (mag * 2 ^ e.toNat, 1) else (mag, 2 ^ (-e).toNat)
  | _ => (0, 1)

/-- R209: the capacity of a pass of `n` tokens. -/
def Ctx.capacity (c : Ctx) (n : Nat) : Nat :=
  let r := f32Ratio c.capFactor
  min 65535 (max c.capMin (ceilDiv (r.1 * n * c.k) (r.2 * c.e)))

/-- A choice record as read back (R206). -/
structure ChoiceRec where
  expert : Nat
  slot : Nat
  weight : Nat
  deriving DecidableEq, Repr

def choiceRecOf (b : List Byte) : ChoiceRec := ⟨field b 0 2, field b 2 2, field b 4 4⟩

/-- The choice records of a token and the number of its choices. -/
def State.tokenChoices (s : State) (c : Ctx) (t : Nat) : List ChoiceRec × Nat :=
  ((chunks 8 (getBlock zeroByte (c.choice + 8 * c.k * t) (8 * c.k) s.sram)).map choiceRecOf,
    leNat (getBlock zeroByte (c.summary + 4 * t) 4 s.sram) % 32)

/-- Admission in progress: uses and drops of each expert, and the records of each token. -/
structure Admission where
  used : Tab Nat := []
  drops : Tab Nat := []
  entries : List (Nat × Nat × Nat × Nat) := []
  recs : Tab (List ChoiceRec) := []
  deriving DecidableEq, Repr

/-- R210: one choice of the rank-major walk (DEDUCED, log 84). -/
def Admission.choose (cap : Nat) (a : Admission) (t r : Nat) : Admission :=
  let l := Tab.get [] t a.recs
  match l[r]? with
  | none => a
  | some x =>
    let u := Tab.get 0 x.expert a.used
    if u < cap then
      { a with
        used := Tab.put x.expert (u + 1) a.used, entries := (x.expert, u, t, r) :: a.entries
        recs := Tab.put t (l.set r { x with slot := u }) a.recs }
    else
      { a with
        drops := Tab.put x.expert (Tab.get 0 x.expert a.drops + 1) a.drops
        recs := Tab.put t (l.set r { x with slot := 0xFFFF, weight := 0 }) a.recs }

/-- R210: the outcome of a token: its records, admitted ranks, whether it was renormalised, whether that was skipped. -/
def Ctx.renormalise (c : Ctx) (l : List ChoiceRec) (nc : Nat) : List ChoiceRec × Nat × Bool × Bool :=
  let adm := ((l.take nc).filter (fun x => x.slot ≠ 0xFFFF))
  if c.renorm && !adm.isEmpty then
    let ws := adm.map (fun x => fp32.decode x.weight)
    let sum := (ws.drop 1).foldl fAdd (ws.headD .nan)
    if sum.isZero || !sum.isFinite then (l, adm.length, false, true)
    else
      let q := fRcp sum
      (l.zipIdx.map (fun p => if p.2 < nc && p.1.slot ≠ 0xFFFF then
        { p.1 with weight := f32Code (fMul (fp32.decode p.1.weight) q) } else p.1), adm.length, true, false)
  else (l, adm.length, false, false)

/-- R212: local address of an admission list entry. -/
def Ctx.listEntry (c : Ctx) (cap x j : Nat) : Nat := c.lists + alignUp 32 (2 * c.e) + 4 * (x * cap + j)

/-- R210 to R214: `ADMIT` (DEDUCED, log 84). -/
def State.startAdmit (s : State) (d : Nat) (o : SillOp) (c : Ctx) : SillStart :=
  let cap := c.capacity o.n
  let toks := passTokens o
  let read := toks.map (fun t => (t, s.tokenChoices c t))
  let fresh (p : List ChoiceRec × Nat) : List ChoiceRec := p.1
  let ncOf := read.map (fun p => (p.1, min p.2.2 c.k))
  let bad := read.findSome? (fun p => ((p.2.1.take p.2.2).findIdx? (fun x => x.expert ≥ c.e)).map
    (fun r => c.choice + 8 * (p.1 * c.k + r)))
  let start : Admission := { recs := read.map (fun p => (p.1, fresh p.2)) }
  let walked := (List.range c.k).foldl (fun a r =>
    ncOf.foldl (fun (a : Admission) p => if r < p.2 then a.choose cap p.1 r else a) a) start
  let outs := ncOf.map (fun p => (p.1, p.2, c.renormalise (Tab.get [] p.1 walked.recs) p.2))
  let admits := (walked.used.map (·.2)).sum
  let drops := (walked.drops.map (·.2)).sum
  let touched := ((walked.used.map (·.1)) ++ (walked.drops.map (·.1))).eraseDups
  let counts := (List.range c.e).flatMap (fun x => leBytes 2 (Tab.get 0 x walked.used))
  let effs : List Eff :=
    [.sram (c.choice + 8 * c.k * o.first)
      (outs.flatMap (fun p => p.2.2.1.flatMap (fun x => choiceRecord x.expert x.slot x.weight))),
     .sram (c.summary + 4 * o.first) (outs.flatMap (fun p => summaryEntry p.2.1 p.2.2.2.1 (p.2.1 < c.k && c.mode = 1)
      (p.2.2.2.1 = 0) p.2.2.2.2.1)),
     .sram c.lists counts] ++
    walked.entries.reverse.map (fun p => .sram (c.listEntry cap p.1 p.2.1) (leBytes 2 p.2.2.1 ++ leBytes 2 p.2.2.2)) ++
    touched.map (fun x => .addCounter (c.counters + 8 * x) (Tab.get 0 x walked.used) (Tab.get 0 x walked.drops)) ++
    [.count (cSelAdmit c.layer) admits, .count (cSelDrop c.layer) drops,
     .count (cSelSkip c.layer) (outs.filter (fun p => p.2.2.2.1 = 0)).length,
     .count (cRenormSkip c.layer) (outs.filter (fun p => p.2.2.2.2.2)).length]
  s.withPlanes d 2 (c.choicePlanes o.first o.n ++
      ((48, c.lists, 2 * c.e) :: walked.entries.reverse.map (fun p => (48, c.listEntry cap p.1 p.2.1, 4))) ++
      [(52, c.counters, 8 * c.e)])
    (match bad with
      | some a => .badMeta 2 a
      | none => .runs (ceilDiv (o.n * c.k) 8 + 2 * ceilDiv c.e 64 + 32) effs)

/-- R215: SILL cycles for which an operation that has started has run by now. -/
def State.busyCycles (s : State) (o : SillOp) : Nat := min o.cycles ((s.cc - (o.due - sillCc o.cycles)) * 4 / 3)

/-- R215, R573: the cycles of the operation that runs on the choice pipeline of a die are counted up to now. -/
def State.countBusy (s : State) (d : Nat) : State :=
  match (s.sillage d).choice with
  | [] => s
  | o :: l =>
    if !o.started then s
    else
      let k := s.busyCycles o
      (s.count (cSelBusy (ctxOf d o.context).layer) (k - o.counted)).setSillage d
        { s.sillage d with choice := { o with counted := max k o.counted } :: l }

/-- R189: what a choice operation does when it starts. -/
def State.startChoice (s : State) (d : Nat) (o : SillOp) : SillStart :=
  let c := ctxOf d o.context
  match o.op with
  | 1 => s.startScore d o c
  | 2 => s.startMerge d o c
  | 3 => s.startHash d o c
  | _ => s.startAdmit d o c

/-- R204, R220, R260: a start that faults. -/
def State.sillFault (s : State) (d : Nat) (o : SillOp) : SillStart → State
  | .fault unit plane addr status =>
    s.hold { kind := 4, func := 0x50 + d, unit := unit, die := d, check := status, detail := leBytes 8 addr ++ leBytes 1 plane }
  | .badMeta unit addr =>
    s.hold { kind := 3, func := 0x50 + d, unit := unit, die := d, check := 2, detail := leBytes 1 o.op ++ leBytes 8 addr }
  | .integrity unit check src => s.integrityFault d unit check o.ctx src
  | .runs _ _ => s

end Sys2Proof.Machine
end

