-- ==== Sys2Proof/Machine/Exchange.lean ====
section
/-! DEFINITION. The exchange of Sillage: pools (R229 to R236), exchange descriptors (R237 to R241), token packets (R242 to
R244), `XDISPATCH`, `XLIST`, `XRETURN` and `XCOMBINE` (R245 to R252), command-list mode (R258, R259), and the Sillage slot
(R186 to R190, R222 to R224). -/

namespace Sys2Proof

open Machine

/-- R242: header bytes 0 to 27. -/
def Tok.head (t : Tok) : List Byte :=
  [t.typ, t.xd] ++ leBytes 2 t.expert.toNat ++ leBytes 2 t.slot.toNat ++ [t.src, t.seg] ++ leBytes 2 t.token.toNat ++
    [t.rank, t.pfmt] ++ leBytes 2 t.len.toNat ++ leBytes 2 t.hidx.toNat ++ leBytes 6 t.tick.toNat ++
    leBytes 2 t.rsv.toNat ++ leBytes 4 t.pcrc.toNat

/-- R242: the 32-byte header. -/
def Tok.header (t : Tok) : List Byte := t.head ++ leBytes 4 t.hcrc.toNat

/-- R242: the whole token packet. -/
def Tok.bytes (t : Tok) : List Byte := t.header ++ t.payload

/-- A token packet with both CRCs set. -/
def Tok.sealed (t : Tok) : Tok :=
  let t := { t with pcrc := crc32c t.payload }
  { t with hcrc := crc32c t.head }

def Tok.hcrcOk (t : Tok) : Bool := t.hcrc == crc32c t.head
def Tok.pcrcOk (t : Tok) : Bool := t.pcrc == crc32c t.payload

/-- Segment index and segment count (R242). -/
def Tok.segIndex (t : Tok) : Nat := t.seg.toNat % 16
def Tok.segCount (t : Tok) : Nat := t.seg.toNat / 16 + 1

/-- A token packet from its bytes. -/
def tokOf (b : List Byte) : Tok :=
  let f (w off n : Nat) : BitVec w := BitVec.ofNat w (field b off n)
  { typ := f 8 0 1, xd := f 8 1 1, expert := f 16 2 2, slot := f 16 4 2, src := f 8 6 1, seg := f 8 7 1, token := f 16 8 2
    rank := f 8 10 1, pfmt := f 8 11 1, len := f 16 12 2, hidx := f 16 14 2, tick := f 48 16 6, rsv := f 16 22 2
    pcrc := f 32 24 4, hcrc := f 32 28 4, payload := byteField b 32 (field b 12 2) }

end Sys2Proof

namespace Sys2Proof.Machine

/-! ### Pools -/

/-- Die-window offset of the exchange block (R228). -/
def exchangeBlock : Nat := 0x100000000
/-- R229: buffer size of pool `i`. -/
def poolSize (i : Nat) : Nat := 256 * 4 ^ i
/-- R230: base offset and count of the default pools. -/
def defaultPools : List (Nat × Nat) :=
  [(0x260000000, 65536), (0x261000000, 32768), (0x263000000, 65536), (0x273000000, 8192), (0x27B000000, 1280)]

/-- Pool counters of R236: field 13 + 5 i + (MINFREE 0, WARN 1, BP 2, STOP 3, WAIT 4). -/
def cPool (d i k : Nat) : Nat := ctrKey 4 d (13 + 5 * i + k)

/-- R229, R230: base offset and count of each pool of a die, as its pool record gives them. -/
def State.poolRecord (s : State) (d : Nat) : List (Nat × Nat) :=
  let b := getBlock zeroByte (windowBase d + exchangeBlock) 64 s.sram
  if field b 0 64 = 0 then defaultPools
  else (List.range 5).map (fun i => (256 * field b (8 * i) 4, field b (8 * i + 4) 4))

/-- End of the stacked-SRAM window that the partition leaves (R28). -/
def State.stackedEnd (s : State) : Nat := 0x2C0000000 - s.job.cache * 0x8000000

/-- R231: the refusal of a pool record: the lowest-numbered pool that fails, or 0xFF (DEDUCED, log 54). -/
def State.poolRefusal (s : State) (d : Nat) : Option Nat :=
  let ps := s.poolRecord d
  let size (i : Nat) : Nat := (ps.getD i (0, 0)).2 * poolSize i
  let base (i : Nat) : Nat := (ps.getD i (0, 0)).1
  let meets (a la b lb : Nat) : Bool := la ≠ 0 && lb ≠ 0 && a < b + lb && b < a + la
  let fails (i : Nat) : Bool :=
    (ps.getD i (0, 0)).2 > 4194304 || base i % poolSize i ≠ 0 ||
    (size i ≠ 0 && (base i < exchangeBlock || base i + size i > s.stackedEnd || meets (base i) (size i) exchangeBlock 0x5000)) ||
    (List.range 5).any (fun j => j ≠ i && meets (base i) (size i) (base j) (size j))
  match (List.range 5).find? fails with
  | some i => some i
  | none =>
    let b := getBlock zeroByte (windowBase d + exchangeBlock) 64 s.sram
    if field b 40 24 ≠ 0 || ((List.range 5).map size).sum > 0x40000000 then some 0xFF else none

/-- R232: the cells of the links of `n` free buffers from a local address on: each holds the offset of the next. -/
def linkCells (win size : Nat) : Nat → Nat → List Host.Cell
  | 0, _ => []
  | n + 1, off =>
    blockCells zeroByte (win + off) (leBytes 8 (if n = 0 then 0xFFFFFFFFFFFFFFFF else off + size)) ++
      linkCells win size n (off + size)

/-- Two canonical memories in one; where both list an address the first stands. -/
def mergeCells : Nat → List Host.Cell → List Host.Cell → List Host.Cell
  | 0, _, m => m
  | _ + 1, [], m => m
  | _ + 1, l, [] => l
  | k + 1, (a, x) :: l, (b, y) :: m =>
    if a < b then (a, x) :: mergeCells k l ((b, y) :: m)
    else if b < a then (b, y) :: mergeCells k ((a, x) :: l) m
    else (a, x) :: mergeCells k l m

/-- R232: threads the free list of one pool with every buffer free (DEDUCED, log 106). -/
def State.threadPool (s : State) (d size base count : Nat) : State :=
  let win := windowBase d
  let links := linkCells win size count base
  let old := s.sram.filter (fun c =>
    !(win + base ≤ c.1 && c.1 < win + base + count * size && (c.1 - win - base) % size < 8))
  s.setSram (mergeCells (links.length + old.length) links old)

/-- R232: the pools of a die are built with every buffer free. -/
def State.buildPools (s : State) (d : Nat) : State :=
  let ps := (s.poolRecord d).zipIdx
  let s := ps.foldl (fun s p => s.threadPool d (poolSize p.2) p.1.1 p.1.2) s
  s.setSillage d { s.sillage d with pools := ps.map (fun p =>
    (p.2, { base := p.1.1, size := poolSize p.2, count := p.1.2, free := p.1.2, least := p.1.2, since := s.cc
            head := if p.1.2 = 0 then 0xFFFFFFFFFFFFFFFF else p.1.1 })) }

def State.pool (s : State) (d i : Nat) : Pool := Tab.get {} i (s.sillage d).pools
def State.setPool (s : State) (d i : Nat) (p : Pool) : State :=
  let u := s.sillage d
  s.setSillage d { u with pools := Tab.put i p u.pools }

/-- R233: the smallest pool whose buffers hold `n` bytes. -/
def poolFor (n : Nat) : Nat := ((List.range 5).find? (fun i => n ≤ poolSize i)).getD 4

/-- R234, R236: counts the SILL cycles that a pool has spent in its conditions since they were last counted (DEDUCED, log 106). -/
def State.countPool (s : State) (d i : Nat) : State :=
  let p := s.pool d i
  let k := s.cc * 4 / 3 - p.since * 4 / 3
  let s := if 4 * p.free < p.count then s.count (cPool d i 1) k else s
  let s := if 8 * p.free < p.count then s.count (cPool d i 2) k else s
  let s := if 100 * p.free < 3 * p.count then s.count (cPool d i 3) k else s
  let s := if p.waitFrom.isSome then s.count (cPool d i 4) k else s
  s.setPool d i { p with since := s.cc }

/-- R234: whether a request of a class may take a buffer of a pool. -/
def Pool.grants (p : Pool) (dispatch : Bool) : Bool :=
  p.free ≠ 0 && 100 * p.free ≥ 3 * p.count && (!dispatch || 8 * p.free ≥ p.count)

/-- R232: an allocation takes the head of the free list; what the buffer holds beyond its packet is undefined. -/
def State.allocate (s : State) (d i : Nat) (packet : List Byte) : State × Nat :=
  let s := s.countPool d i
  let p := s.pool d i
  let at0 := windowBase d + p.head
  let next := leNat (getBlock zeroByte at0 8 s.sram)
  let s := s.undefine (at0 + packet.length) (p.size - packet.length)
  let s := s.setSram (putBlock zeroByte at0 packet s.sram)
  (s.setPool d i { p with head := next, free := p.free - 1, least := min p.least (p.free - 1), waitFrom := none }, p.head)

/-- R232: a freed buffer becomes the head of its list. -/
def State.freeBuffer (s : State) (d i off : Nat) : State :=
  let s := s.countPool d i
  let p := s.pool d i
  let s := s.setSram (putBlock zeroByte (windowBase d + off) (leBytes 8 p.head) s.sram)
  s.setPool d i { p with head := off, free := p.free + 1 }

/-- A request waits for a pool (R236). -/
def State.waitPool (s : State) (d i : Nat) : State :=
  let s := s.countPool d i
  let p := s.pool d i
  s.setPool d i { p with waitFrom := some (p.waitFrom.getD s.cc) }

/-! ### Exchange descriptors -/

/-- An exchange descriptor (R237). Plane addresses are local addresses. -/
structure XDesc where
  scope : Nat
  g : Nat
  member : Nat
  pfmt : Nat
  topnote : Bool
  d : Nat
  rcap : Nat
  act : Nat
  route : Nat
  hosted : Nat
  h : Nat
  retfmt : Nat
  ofmt : Nat
  ret : Nat
  out : Nat
  resid : Nat
  resfmt : Nat
  clear : Nat
  arrive : Nat
  group : Nat
  deriving DecidableEq, Repr

def xdescOf (d : Nat) (b : List Byte) : XDesc :=
  let p (off : Nat) : Nat := planeAt d (field b off 4)
  { scope := field b 0 1 % 8, g := field b 1 1, member := field b 2 1, pfmt := field b 3 1 % 16
    topnote := bitAt (field b 3 1) 4, d := field b 4 2, rcap := field b 6 2, act := p 8, route := p 12, hosted := p 16
    h := field b 20 2, retfmt := field b 22 1, ofmt := field b 23 1, ret := p 24, out := p 28, resid := p 32
    resfmt := field b 36 1, clear := field b 38 2, arrive := p 40, group := p 44 }

/-- Local address of exchange descriptor `c` of a die (R228). -/
def xdescAt (d c : Nat) : Nat := windowBase d + exchangeBlock + 0x1000 + 64 * c

def State.xdescBytes (s : State) (d c : Nat) : List Byte := getBlock zeroByte (xdescAt d c) 64 s.sram

def fmtOf (code : Nat) : Fmt := (Fmt.ofCode code).getD .f32

namespace XDesc

/-- R238: source dies of a pass, this die's index and the largest segment. -/
def srcs (x : XDesc) : Nat := if x.scope ≤ 2 then 1 else if x.scope = 3 then 4 else 4 * x.g
def own (x : XDesc) (d : Nat) : Nat := if x.scope ≤ 2 then 0 else if x.scope = 3 then d else 4 * x.member + d
def largest (x : XDesc) : Nat := if x.scope = 4 then 4064 else 65504

/-- R239: row payload bytes. -/
def psize (x : XDesc) : Nat :=
  let f := fmtOf x.pfmt
  if f.isMx then alignUp 32 (x.d * f.bits / 8) + alignUp 32 (x.d / 32) + (if x.topnote then alignUp 32 (3 * x.d / 32) else 0)
  else alignUp 32 (2 * x.d)

def retBytes (x : XDesc) : Nat := alignUp 32 (x.d * (fmtOf x.retfmt).bits / 8)
def retSize (x : XDesc) : Nat := 32 + x.retBytes
def rpitch (x : XDesc) : Nat := 32 + x.psize

/-- R243: segments of a dispatch row and of a return row. -/
def segs (x : XDesc) : Nat := ceilDiv x.psize x.largest
def retSegs (x : XDesc) : Nat := ceilDiv x.retBytes x.largest

def outBytes (x : XDesc) : Nat := alignUp 32 (x.d * (fmtOf x.ofmt).bits / 8)
def residBytes (x : XDesc) : Nat := alignUp 32 (x.d * (fmtOf x.resfmt).bits / 8)

/-- Local address of the arrival entry of a source for a parity, and of the return counter (R247). -/
def arrivalAt (x : XDesc) (p src : Nat) : Nat := x.arrive + 8 * (p * x.srcs + src)
def returnAt (x : XDesc) : Nat := x.arrive + 16 * x.srcs

end XDesc

/-- A hosted record (R240). -/
structure Hosted where
  expert : Nat
  q : Nat
  recv : Nat
  block : Nat
  item : List Byte
  raw : List Byte
  deriving DecidableEq, Repr

def hostedOf (d : Nat) (b : List Byte) : Hosted :=
  { expert := field b 0 2, q := field b 2 1, recv := planeAt d (field b 4 4), block := planeAt d (field b 8 4)
    item := byteField b 32 24, raw := b }

def State.hostedRec (s : State) (d : Nat) (x : XDesc) (h : Nat) : Hosted :=
  hostedOf d (getBlock zeroByte (x.hosted + 64 * h) 64 s.sram)

/-- A Clearing descriptor (R59). -/
structure ClearDesc where
  length : Nat
  clusters : Nat
  lists : List Nat
  maxes : List Nat
  reserved : Bool
  deriving DecidableEq, Repr

def clearDescOf (b : List Byte) : ClearDesc :=
  { length := field b 0 4, clusters := field b 4 2, lists := (List.range 4).map (fun q => field b (8 + 8 * q) 8)
    maxes := (List.range 4).map (fun q => field b (40 + 2 * q) 2), reserved := field b 6 2 ≠ 0 || field b 48 16 ≠ 0 }

/-- R59: the Clearing descriptor of a die's table, if the table holds the index. -/
def State.clearDesc (s : State) (d i : Nat) : Option ClearDesc :=
  let t := s.sectionBytes 4 d
  if 64 * i + 64 ≤ t.length then some (clearDescOf (byteField t (64 * i) 64)) else none

/-- R59, R241: a range of a die's SRAM window that is neither reserved nor in the cache partition. -/
def State.inWindow (s : State) (off len : Nat) : Bool :=
  off + len ≤ 0x20000000 || (0x100000000 ≤ off && off + len ≤ s.stackedEnd)

/-- R239: the route of an expert: destination index and hosted index. -/
def State.routeOf (s : State) (x : XDesc) (e : Nat) : Nat := leNat (getBlock zeroByte (x.route + 4 * e) 4 s.sram)
def routeDest (v : Nat) : Nat := bitsOf v 0 6
def routeHidx (v : Nat) : Nat := bitsOf v 8 14

/-- R238: device and die of a destination index. -/
def State.destOf (s : State) (d : Nat) (x : XDesc) (i : Nat) : Nat × Nat :=
  if x.scope ≤ 2 then (s.fab.coord.toNat, d)
  else if x.scope = 3 then (s.fab.coord.toNat, i)
  else (leNat (getBlock zeroByte (x.group + 2 * (i / 4)) 2 s.sram), i % 4)

/-- R241: the fields of a descriptor in range and no reserved bit set. -/
def xdescFieldsOk (b : List Byte) (x : XDesc) : Bool :=
  1 ≤ x.scope && x.scope ≤ 4 && field b 0 1 < 8 && 1 ≤ x.g && x.g ≤ 16 && (x.scope = 4 || x.g = 1) && x.member < x.g &&
    field b 3 1 < 32 && (x.pfmt ≤ 5 || ((x.pfmt = 10 || x.pfmt = 11) && !x.topnote)) &&
    32 ≤ x.d && x.d ≤ 8192 && x.d % 32 = 0 && 1 ≤ x.rcap && x.h ≤ 16384 &&
    [x.retfmt, x.ofmt, x.resfmt].all (fun f => f = 10 || f = 12) && field b 37 1 = 0 &&
    (x.scope = 4 || field b 44 4 = 0) && field b 48 16 = 0

/-- R241: the planes of a descriptor lie in the window, for a pass that ends before token `n`. -/
def State.xdescPlanesOk (s : State) (d : Nat) (x : XDesc) (c : Ctx) (n : Nat) : Bool :=
  let ok (a len : Nat) : Bool := s.inWindow (a - windowBase d) len
  ok x.act (n * x.psize) && ok x.route (4 * c.e) && ok x.hosted (64 * x.h) && ok x.ret (n * c.k * x.retSize) &&
    ok x.out (n * x.outBytes) && ok x.resid (n * x.residBytes) && ok x.arrive (16 * x.srcs + 8) &&
    (x.scope ≠ 4 || ok x.group (2 * x.g))

/-- R241, R258: the hosted records of a die and the lists that they name (DEDUCED, log 92). -/
def State.hostedOk (s : State) (d : Nat) (x : XDesc) : Bool :=
  let recs := (List.range x.h).map (s.hostedRec d x)
  match s.clearDesc d x.clear with
  | none => recs.isEmpty
  | some cl =>
    recs.all (fun r => r.q < 4 && field r.raw 3 1 = 0 && field r.raw 12 20 = 0 && field r.raw 56 8 = 0 &&
      s.inWindow (r.recv - windowBase d) (2 * x.srcs * x.rcap * (if s.job.cmdlist then 4 else x.rpitch)) &&
      s.inWindow (r.block - windowBase d) (32 + 4 * x.srcs * x.rcap) && cl.lists.getD r.q 0 ≠ 0) &&
    (List.range 4).all (fun q => (recs.filter (·.q = q)).length ≤ cl.maxes.getD q 0 || cl.lists.getD q 0 = 0)

/-- R241: every route names a source die of the scope and a hosted record there. -/
def State.routesOk (s : State) (d c : Nat) (x : XDesc) (e : Nat) : Bool :=
  (List.range e).all (fun i =>
    let v := s.routeOf x i
    bitsOf v 6 2 = 0 && bitsOf v 22 10 = 0 && routeDest v < x.srcs &&
      (let aim := s.destOf d x (routeDest v)
       aim.1 ≠ s.fab.coord.toNat || routeHidx v < (xdescOf aim.2 (s.xdescBytes aim.2 c)).h))

/-- R241: whether an exchange operation's descriptor stands (DEDUCED, log 92). -/
def State.xdescOk (s : State) (d c op first n : Nat) : Bool :=
  let b := s.xdescBytes d c
  let x := xdescOf d b
  let cx := ctxOf d (s.context d c)
  let pass := op = 0x10 || op = 0x13
  xdescFieldsOk b x && s.xdescPlanesOk d x cx (if pass then first + n else 0) && s.hostedOk d x && s.routesOk d c x cx.e &&
    (!pass || cx.capacity n ≤ x.rcap)

/-- R233: the pools that an operation would need hold buffers. -/
def State.poolsOk (s : State) (d op : Nat) (x : XDesc) : Bool :=
  let need (bytes : Nat) : Bool :=
    let sizes := [min bytes x.largest, bytes - (ceilDiv bytes x.largest - 1) * x.largest]
    sizes.all (fun n => (s.pool d (poolFor (32 + n))).count ≠ 0)
  if op = 0x10 then need x.psize else if op = 0x12 then need x.retBytes else true

/-! ### Sending -/

/-- Cuts a row into its segments: index and payload (R243). -/
def segments (largest : Nat) (row : List Byte) : List (Nat × List Byte) :=
  (chunks largest row).zipIdx.map (fun p => (p.2, p.1))

/-- R245, R250: the token packets of one row. -/
def rowToks (base : Tok) (largest : Nat) (row : List Byte) : List Tok :=
  let gs := segments largest row
  gs.map (fun g => { base with seg := BitVec.ofNat 8 (g.1 + 16 * (gs.length - 1)), len := BitVec.ofNat 16 g.2.length
                               payload := g.2 }.sealed)

/-- An empty token packet of this die for a descriptor. -/
def State.baseTok (s : State) (d c : Nat) (x : XDesc) (typ : Nat) : Tok :=
  { typ := typ, xd := c, expert := 0, slot := 0, src := x.own d, seg := 0, token := 0, rank := 0, pfmt := x.pfmt
    len := 0, hidx := 0, tick := BitVec.ofNat 48 s.tick.count.toNat, rsv := 0, pcrc := 0, hcrc := 0, payload := [] }

/-- SILL cycles that sending a list of packets takes (R245, R250). -/
def sendCycles (ts : List (Nat × Tok)) : Nat := (ts.map (fun t => ceilDiv (32 + t.2.payload.length) 2048)).sum

/-- A packet leaves for a destination index: on the die network, or as a fabric packet (R226, R242). -/
def State.emitTok (s : State) (d : Nat) (x : XDesc) (dest : Nat) (t : Tok) (pool : Option (Nat × Nat)) : State :=
  let u := s.sillage d
  let s := s.setSillage d { u with sent := u.sent ++ [⟨dest, t, pool⟩] }
  let aim := s.destOf d x dest
  if aim.1 = s.fab.coord.toNat then s.send (.token aim.2 t)
  else s.post d (s.newPkt aim.1 tToken (if t.typ = 3 then 1 else 0) t.bytes.length aim.2 t.bytes) (.token d)

/-- The head of the exchange pipeline, once it has started. -/
def State.exchHead (s : State) (d : Nat) : Option SillOp := (s.sillage d).exch.head?.filter (·.started)

/-- R234, R245: one row leaves if its pool grants a buffer; the rows behind it wait with it (DEDUCED, log 106). -/
def State.pumpRow (s : State) (d : Nat) (x : XDesc) (dispatch : Bool) (r : Nat × Tok) : State :=
  let u := s.sillage d
  if !u.rows.isEmpty then s.setSillage d { u with rows := u.rows ++ [r] }
  else
    let i := poolFor r.2.bytes.length
    if (s.pool d i).grants dispatch then
      let (s, off) := s.allocate d i r.2.bytes
      s.emitTok d x r.1 r.2 (some (i, off))
    else
      let s := s.waitPool d i
      s.setSillage d { s.sillage d with rows := [r] }

/-- R245: a count packet leaves once every row to its destination is acknowledged and those before it have left (DEDUCED, log 91). -/
def State.pumpCount (s : State) (d : Nat) (x : XDesc) (r : Nat × Tok) : State :=
  let u := s.sillage d
  if u.counts.isEmpty && u.rows.all (fun w => w.1 ≠ r.1) && u.sent.all (fun w => w.dest ≠ r.1) then s.emitTok d x r.1 r.2 none
  else s.setSillage d { u with counts := u.counts ++ [r] }

/-- Rows and count packets that may leave, leave. -/
def State.pumpExchange (s : State) (d : Nat) : State :=
  match s.exchHead d with
  | none => s
  | some o =>
    let x := xdescOf d o.xdesc
    let u := s.sillage d
    let s := s.setSillage d { u with rows := [], counts := [] }
    let s := u.rows.foldl (fun s r => s.pumpRow d x (o.op = 0x10) r) s
    if (s.sillage d).rows.isEmpty then u.counts.foldl (fun s r => s.pumpCount d x r) s
    else s.setSillage d { s.sillage d with counts := u.counts }

/-! ### The operations -/

/-- R245: the rows of `XDISPATCH` in sending order: destination and row. -/
def State.dispatchRows (s : State) (d : Nat) (o : SillOp) (x : XDesc) (c : Ctx) : List (Nat × Tok) :=
  let cap := c.capacity o.n
  (List.range c.e).flatMap (fun e =>
    let v := s.routeOf x e
    (List.range (leNat (getBlock zeroByte (c.lists + 2 * e) 2 s.sram))).flatMap (fun j =>
      let b := getBlock zeroByte (c.listEntry cap e j) 4 s.sram
      let t := field b 0 2
      let base := { s.baseTok d o.ctx x (if s.job.cmdlist then 4 else 1) with
        expert := BitVec.ofNat 16 e, slot := BitVec.ofNat 16 j, token := BitVec.ofNat 16 t
        rank := BitVec.ofNat 8 (field b 2 1 % 16), hidx := BitVec.ofNat 16 (routeHidx v) }
      (rowToks base x.largest (getBlock zeroByte (x.act + t * x.psize) x.psize s.sram)).map (fun k => (routeDest v, k))))

/-- R244: the count packet for a destination (DEDUCED, log 91). -/
def State.countTok (s : State) (d c : Nat) (x : XDesc) (rows : Nat) : Tok :=
  { s.baseTok d c x 3 with len := 32, payload := byteField (leBytes 4 rows) 0 32 }.sealed

/-- R220, R245: what `XDISPATCH` reads and writes through its planes: the list counts, the entries of each list with their
routes and rows, and the return counter. -/
def State.dispatchRanges (s : State) (o : SillOp) (x : XDesc) (c : Ctx) : List (Nat × Nat × Nat) :=
  let cap := c.capacity o.n
  (48, c.lists, 2 * c.e) :: (List.range c.e).flatMap (fun e =>
    let k := leNat (getBlock zeroByte (c.lists + 2 * e) 2 s.sram)
    if k = 0 then []
    else (48, c.listEntry cap e 0, 4 * k) :: (12, x.route + 4 * e, 4) :: (List.range k).map (fun j =>
      (8, x.act + leNat (getBlock zeroByte (c.listEntry cap e j) 2 s.sram) * x.psize, x.psize))) ++ [(40, x.returnAt, 8)]

/-- R245: `XDISPATCH` starts; `v` is what it sees (R225). -/
def State.startDispatch (s v : State) (d : Nat) (o : SillOp) (x : XDesc) (c : Ctx) : State × Nat :=
  let rows := v.dispatchRows d o x c
  let sent (i : Nat) : Nat := (rows.filter (fun r => r.1 = i && r.2.segIndex = 0)).length
  let expect := ((List.range x.srcs).map sent).sum
  let old := leNat (getBlock zeroByte x.returnAt 8 s.sram)
  let s := s.setSram (putBlock zeroByte x.returnAt (leBytes 8 (old % 2 ^ 32 + expect * 2 ^ 32)) s.sram)
  let counts := (List.range x.srcs).map (fun i => (i, s.countTok d o.ctx x (sent i)))
  (s.setSillage d { s.sillage d with rows := rows, counts := counts }, 40 + sendCycles rows + x.srcs)

/-- R248: the rows of a receive area, in source and slot order, that belong to the tick: their die-window offsets. -/
def State.receivedRows (s : State) (d : Nat) (x : XDesc) (r : Hosted) (tick : Nat) : List (Nat × Tok) :=
  let p := tick % 2
  (List.range x.srcs).flatMap (fun src =>
    let rows := (List.range x.rcap).map (fun j =>
      let k := src * x.rcap + j
      if s.job.cmdlist then
        let ref := leNat (getBlock zeroByte (r.recv + 4 * (p * x.srcs * x.rcap + k)) 4 s.sram)
        (j, if ref = 0 then none else some (windowBase d + 32 * ref))
      else (j, some (r.recv + (p * x.srcs * x.rcap + k) * x.rpitch)))
    (rows.map (fun q => q.2.bind (fun a =>
      let t := tokOf (getBlock zeroByte a 32 s.sram)
      if t.typ.toNat = (if s.job.cmdlist then 4 else 1) && t.tick.toNat = tick && t.src.toNat = src && t.slot.toNat = q.1
      then some (a - windowBase d, t) else none))).takeWhile (·.isSome) |>.filterMap id)

/-- R220, R248: what `XLIST` reads of a receive area of the tick: from each source the headers of its rows up to the first that
does not belong to the tick, and in command-list mode the references to them. -/
def State.receiveRanges (s : State) (d : Nat) (x : XDesc) (r : Hosted) (tick : Nat) : List (Nat × Nat × Nat) :=
  let got := (s.receivedRows d x r tick).map (·.2.src.toNat)
  (List.range x.srcs).flatMap (fun src =>
    let k := tick % 2 * x.srcs * x.rcap + src * x.rcap
    (List.range (min x.rcap ((got.filter (· = src)).length + 1))).flatMap (fun j =>
      if s.job.cmdlist then
        let ref := leNat (getBlock zeroByte (r.recv + 4 * (k + j)) 4 s.sram)
        (4, r.recv + 4 * (k + j), 4) :: (if ref = 0 then [] else [(4, windowBase d + 32 * ref, 32)])
      else [(4, r.recv + (k + j) * x.rpitch, 32)]))

/-- R249: a token block. -/
def tokenBlock (x : XDesc) (c h expert parity : Nat) (refs : List Nat) : List Byte :=
  byteField (leBytes 2 refs.length ++ leBytes 2 expert ++ leBytes 2 h ++ leBytes 1 c ++ leBytes 1 parity ++ leBytes 2 x.d ++
    leBytes 1 (x.pfmt + 16 * b2n x.topnote)) 0 32 ++ refs.flatMap (fun r => leBytes 4 (r / 32))

/-- An arrival entry (R247). -/
def State.arrival (s : State) (x : XDesc) (p src : Nat) : Nat := leNat (getBlock zeroByte (x.arrivalAt p src) 8 s.sram)
def arrSegs (v : Nat) : Nat := bitsOf v 0 24
def arrRows (v : Nat) : Nat := bitsOf v 32 24
def arrDeclared (v : Nat) : Bool := bitAt v 63

/-- R248: whether every source has declared and sent its rows. -/
def State.arrivalsComplete (s : State) (x : XDesc) (p : Nat) : Bool :=
  (List.range x.srcs).all (fun src =>
    let v := s.arrival x p src
    arrDeclared v && arrSegs v = arrRows v * x.segs)

/-- R248: `XLIST`, its arrivals complete. A fault names the first source whose rows do not match its declaration (DEDUCED,
log 39). -/
def State.startList (s : State) (d : Nat) (o : SillOp) (x : XDesc) : SillStart :=
  let tick := s.tick.count.toNat
  let p := tick % 2
  let hs := (List.range x.h).map (fun h => (h, s.hostedRec d x h))
  let rows := hs.map (fun q => s.receivedRows d x q.2 tick)
  let got := (hs.zip rows).map (fun q => (q.1.1, q.1.2, q.2.map (·.1)))
  let total := (got.map (fun g => g.2.2.length)).sum
  let cl := (s.clearDesc d x.clear).getD { length := 0, clusters := 0, lists := [], maxes := [], reserved := false }
  let item (g : Nat × Hosted × List Nat) : List Byte := leBytes 8 g.2.1.block ++ g.2.1.item
  let full := got.filter (fun g => g.2.2 ≠ [])
  let lists := (List.range 4).filterMap (fun q =>
    let off := cl.lists.getD q 0
    let mine := full.filter (fun g => g.2.1.q = q)
    if off = 0 then none else some (windowBase d + off, mine))
  let effs : List Eff :=
    got.map (fun g => .sram g.2.1.block (tokenBlock x o.ctx g.1 g.2.1.expert p g.2.2)) ++
    lists.flatMap (fun l => [.sram (l.1 + 32) (l.2.flatMap item), .sram l.1 (leBytes 4 l.2.length)]) ++
    [.sram (x.arrivalAt p 0) (List.replicate (8 * x.srcs) 0)]
  let want := ((List.range x.srcs).map (fun src => arrRows (s.arrival x p src))).sum
  let short := (List.range x.srcs).find? (fun src =>
    (rows.flatten.filter (fun r => r.2.src.toNat = src)).length ≠ arrRows (s.arrival x p src))
  let ranges := got.map (fun g => (8, g.2.1.block, 32 + 4 * g.2.2.length)) ++
    hs.flatMap (fun q => s.receiveRanges d x q.2 tick) ++
    lists.map (fun l => (38, l.1, 32 + 32 * l.2.length)) ++ [(40, x.arrive, 16 * x.srcs + 8)]
  s.withPlanes d 6 ranges
    (if total ≠ want then .integrity 6 10 (short.getD 0)
     else .runs (ceilDiv (x.h * x.srcs * x.rcap) 16 + ceilDiv total 8 + ceilDiv x.h 4 + 48) effs)

/-- The rows of the current token block of a hosted record, with the place of their output rows (R249, R250). -/
def State.blockRows (s : State) (d : Nat) (x : XDesc) (r : Hosted) : List (Nat × Nat) :=
  let m := leNat (getBlock zeroByte r.block 2 s.sram)
  (List.range m).map (fun i => (windowBase d + 32 * leNat (getBlock zeroByte (r.block + 32 + 4 * i) 4 s.sram),
    field r.item 8 8 + i * x.retBytes))

/-- R258, R259: a row's buffer is freed and its reference cleared. -/
def State.freeRow (s : State) (d : Nat) (x : XDesc) (r : Hosted) (row : Nat) : State :=
  let t := tokOf (getBlock zeroByte row 32 s.sram)
  let ref := r.recv + 4 * (t.tick.toNat % 2 * x.srcs * x.rcap + t.src.toNat * x.rcap + t.slot.toNat)
  let off := row - windowBase d
  let s := s.setSram (putBlock zeroByte ref [0, 0, 0, 0] s.sram)
  match (s.sillage d).pools.find? (fun p => p.2.base ≤ off && off < p.2.base + p.2.count * p.2.size) with
  | some p => s.freeBuffer d p.1 off
  | none => s

/-- R250: the return rows in sending order. -/
def State.returnRows (s : State) (d : Nat) (o : SillOp) (x : XDesc) : List (Nat × Tok) :=
  (List.range x.h).flatMap (fun h =>
    (s.blockRows d x (s.hostedRec d x h)).flatMap (fun q =>
      let t := tokOf (getBlock zeroByte q.1 32 s.sram)
      let base := { s.baseTok d o.ctx x 2 with
        expert := t.expert, slot := t.slot, token := t.token, rank := t.rank, pfmt := BitVec.ofNat 8 x.retfmt }
      (rowToks base x.largest (s.readLocal q.2 x.retBytes)).map (fun k => (t.src.toNat, k))))

/-- R250: the token blocks and row headers that `XRETURN` reads. -/
def State.returnRanges (s : State) (d : Nat) (x : XDesc) : List (Nat × Nat × Nat) :=
  (List.range x.h).flatMap (fun h =>
    let r := s.hostedRec d x h
    (8, r.block, 32) :: (s.blockRows d x r).map (fun q => (4, q.1, 32)))

/-- R250, R328: the first output row that `XRETURN` may not read, anywhere in the device, with its status: a page that is not
resident is a program address fault with status 1. -/
def State.outputFault (s : State) (d : Nat) (x : XDesc) : Option (Nat × Nat × Nat) :=
  (List.range x.h).findSome? (fun h => (s.blockRows d x (s.hostedRec d x h)).findSome? (fun q =>
    ((s.rangeFault d q.2 x.retBytes).or (((s.missingPages q.2 x.retBytes).head?).map (fun p => (p * pageSize, 1)))).map
      (fun f => (24, f.1, f.2))))

/-- R250: `XRETURN` starts; `v` is what it sees (R225). -/
def State.startReturn (s v : State) (d : Nat) (o : SillOp) (x : XDesc) : State × Nat :=
  let rows := v.returnRows d o x
  let read := (List.range x.h).flatMap (fun h =>
    let r := v.hostedRec d x h
    (v.blockRows d x r).map (fun q => (r, q.1)))
  let s := s.noteReads ((List.range x.h).flatMap (fun h => (v.blockRows d x (v.hostedRec d x h)).map (fun q => (q.2, x.retBytes)))) 0
  let s := if s.job.cmdlist then read.foldl (fun s q => s.freeRow d x q.1 q.2) s else s
  (s.setSillage d { s.sillage d with rows := rows }, 40 + ceilDiv x.h 8 + sendCycles rows)

/-- R252: whether every expected return has come. -/
def State.returnsComplete (s : State) (x : XDesc) : Bool :=
  let v := leNat (getBlock zeroByte x.returnAt 8 s.sram)
  bitsOf v 0 24 = bitsOf v 32 24 * x.retSegs

/-- R252: the admitted choices of a token, in rank order, each with its rank minus 1. -/
def State.admitted (s : State) (c : Ctx) (t : Nat) : List (ChoiceRec × Nat) :=
  let ch := s.tokenChoices c t
  (ch.1.take ch.2).zipIdx.filter (fun p => p.1.slot ≠ 0xFFFF)

/-- R239: local address of a return row. -/
def XDesc.retRow (x : XDesc) (k t r : Nat) : Nat := x.ret + (t * k + r) * x.retSize

/-- R252: whether the return row of a choice carries the header that it must. -/
def State.returnOk (s : State) (x : XDesc) (c : Ctx) (tick t : Nat) (p : ChoiceRec × Nat) : Bool :=
  let h := tokOf (getBlock zeroByte (x.retRow c.k t p.2) 32 s.sram)
  h.typ = 2 && h.tick.toNat = tick && h.token.toNat = t && h.rank.toNat % 16 = p.2 &&
    h.expert.toNat = p.1.expert && h.slot.toNat = p.1.slot

/-- R252: the output row of a token. -/
def State.combineToken (s : State) (x : XDesc) (c : Ctx) (t : Nat) : List Byte :=
  let vals (code a n : Nat) : List Val :=
    let f := fmtOf code
    (unpackCodes f.bits (getBlock zeroByte a (n * f.bits / 8) s.sram)).map f.decode
  let y := (s.admitted c t).foldl (fun y p =>
    ((vals x.retfmt (x.retRow c.k t p.2 + 32) x.d).zip y).map (fun q => fFma (fp32.decode p.1.weight) q.1 q.2))
    (List.replicate x.d (.num false 0 0))
  let z := (y.zip (vals x.resfmt (x.resid + t * x.residBytes) x.d)).map (fun q => fAdd q.1 q.2)
  let f := fmtOf x.ofmt
  packCodes f.bits (z.map (fun v => (f.encode .rne v).code))

/-- R252: `XCOMBINE`, its returns complete. A fault names the die that the missing row is awaited from (DEDUCED, log 39). -/
def State.startCombine (s : State) (d : Nat) (o : SillOp) (x : XDesc) (c : Ctx) : SillStart :=
  let bad := (passTokens o).findSome? (fun t =>
    (s.admitted c t).find? (fun p => !s.returnOk x c s.tick.count.toNat t p))
  let na (t : Nat) : Nat := bitsOf (leNat (getBlock zeroByte (c.summary + 4 * t) 4 s.sram)) 5 5
  let cycles := ((passTokens o).map (fun t => (na t + 1) * ceilDiv x.d 1024)).sum + 64
  s.withPlanes d 7 (c.choicePlanes o.first o.n ++
      (passTokens o).flatMap (fun t => (s.admitted c t).map (fun p => (24, x.retRow c.k t p.2, x.retSize))) ++
      [(28, x.out + o.first * x.outBytes, o.n * x.outBytes),
       (32, x.resid + o.first * x.residBytes, o.n * x.residBytes), (40, x.returnAt, 8)])
    (match bad with
      | some p => .integrity 7 11 (routeDest (s.routeOf x p.1.expert))
      | none => .runs cycles ((passTokens o).map (fun t => .sram (x.out + t * x.outBytes) (s.combineToken x c t)) ++
          [.sram x.returnAt (List.replicate 8 0)]))

/-! ### The two pipelines -/

/-- The head of a pipeline has started: its end and its writes are known. -/
def State.setHead (s : State) (d : Nat) (exchange : Bool) (cycles : Nat) (effs : List Eff) : State :=
  let u := s.sillage d
  let up (l : List SillOp) : List SillOp :=
    modifyNth (fun o => { o with started := true, cycles := cycles, due := s.cc + sillCc cycles, effects := effs }) 0 l
  s.setSillage d (if exchange then { u with exch := up u.exch } else { u with choice := up u.choice })

/-- Bytes of a local range put in place, as they are seen; nothing else changes. -/
def State.poke (s : State) (a : Nat) (bs : List Byte) : State :=
  ((pieces a bs.length).foldl (fun (p : State × List Byte) q =>
    let b := p.2.take q.2
    (match p.1.place q.1 with
      | .sram x => p.1.setSram (putBlock zeroByte x b p.1.sram)
      | .hbm h => p.1.setHbm (putBlock zeroByte h b p.1.hbm)
      | _ => p.1, p.2.drop q.2)) (s, bs)).1

/-- R225: what an exchange operation sees: no write of a cluster's operation that ended after the bundle that issued it. -/
def State.asIssued (s : State) (o : SillOp) : State := o.unseen.foldl (fun s p => s.poke p.1 p.2) s

/-- R225: the writes of an operation of cluster `n` are about to land: what they replace stays in the sight of the exchange
operations of its die that wait to start. -/
def State.hideFrom (s : State) (n : Nat) (es : List Eff) : State :=
  let d := n / 16
  let u := s.sillage d
  if u.exch.all (·.started) then s
  else
    let old := es.filterMap (fun e => match e with
      | .sram a bs => some (a, s.readLocal a bs.length)
      | .mem a _ bs => some (a, s.readLocal a bs.length)
      | _ => none)
    s.setSillage d { u with exch := u.exch.map (fun o =>
      if o.started then o else { o with unseen := old.reverse ++ o.unseen }) }

/-- A start: it runs, or it is the fault that it finds. -/
def State.beginOp (s : State) (d : Nat) (exchange : Bool) (o : SillOp) (r : SillStart) : State :=
  match r with
  | .runs cycles effs => s.setHead d exchange cycles effs
  | _ => s.sillFault d o r

/-- R186, R224: the head of the choice pipeline starts if it may. -/
def State.wakeChoice (s : State) (d : Nat) : State :=
  let u := s.sillage d
  match u.choice with
  | [] => s
  | o :: _ =>
    if o.started || (o.op = 4 && u.exch.any (fun e => e.ctx = o.ctx && e.order < o.order)) then s
    else s.beginOp d false o (s.startChoice d o)

/-- R186, R224, R248, R252: the head of the exchange pipeline starts if it may. -/
def State.wakeExchange (s : State) (d : Nat) : State :=
  let u := s.sillage d
  match u.exch with
  | [] => s
  | o :: _ =>
    let x := xdescOf d o.xdesc
    let c := ctxOf d o.context
    if o.started || u.choice.any (fun e => e.op = 4 && e.ctx = o.ctx && e.order < o.order) then s
    else
    let v := s.asIssued o
    match o.op with
    | 0x10 =>
      match s.planeFault d (v.dispatchRanges o x c) with
      | some f => s.sillFault d o (.fault 5 f.1 f.2.1 f.2.2)
      | none =>
        let r := s.startDispatch v d o x c
        (r.1.setHead d true r.2 []).pumpExchange d
    | 0x11 => if s.arrivalsComplete x (s.tick.count.toNat % 2) then s.beginOp d true o (v.startList d o x) else s
    | 0x12 =>
      match (s.planeFault d (v.returnRanges d x)).or (v.outputFault d x) with
      | some f => s.sillFault d o (.fault 5 f.1 f.2.1 f.2.2)
      | none =>
        let r := s.startReturn v d o x
        (r.1.setHead d true r.2 []).pumpExchange d
    | _ => if s.returnsComplete x then s.beginOp d true o (v.startCombine d o x c) else s

/-- Whatever may go on in a Sillage goes on. -/
def State.wakeSillage (s : State) (d : Nat) : State := ((s.wakeChoice d).wakeExchange d).pumpExchange d

/-- R245, R250: whether the head of the exchange pipeline waits for acknowledgements. -/
def Sillage.sending (u : Sillage) : Bool := !(u.rows.isEmpty && u.counts.isEmpty && u.sent.isEmpty)

/-- The operation at the head of a pipeline ends: its writes land, and what waits behind it may start. -/
def State.endSillage (s : State) (d : Nat) (exchange : Bool) : State :=
  let u := s.sillage d
  match if exchange then u.exch else u.choice with
  | [] => s
  | o :: rest =>
    if !o.started || (exchange && (o.op = 0x10 || o.op = 0x12) && u.sending) then s
    else
      let s := (s.reach o.due).applyAll o.effects
      let u := s.sillage d
      let u := if exchange then { u with exch := rest } else { u with choice := rest }
      let u := if o.op = 0x11 then { u with listed := Tab.put o.ctx (o.tick + 1, s.cc) u.listed } else u
      let s := s.setSillage d { u with lastEnd := s.cc }
      (if exchange then s else s.count (cSelBusy (ctxOf d o.context).layer) (o.cycles - o.counted)).wakeSillage d

/-! ### The Sillage slot -/

/-- R189, R194: the operations that a context's mode allows. -/
def modeAllows (c : Ctx) (op : Nat) : Bool :=
  match op with
  | 1 => c.mode = 1
  | 2 => c.mode = 1 && c.split
  | 3 => c.mode = 2
  | _ => c.mode = 1 || c.mode = 2

/-- R188, R189, R222: what reading a Sillage slot finds; the opcode is that of an operation of either pipeline (DEDUCED, log 38; DEDUCED, log 40). -/
def State.planSillage (s : State) (d op : Nat) (arg : BitVec 56) : SlotPlan :=
  let ctx := slotField arg 48 8
  let n := slotField arg 32 16 + 1
  let first := slotField arg 16 16
  let exchange := op ≥ 0x10
  if slotField arg 0 16 ≠ 0 || first + n > 65536 then .bad
  else if (op = 0x11 || op = 0x12) && (n ≠ 1 || first ≠ 0) then .bad
  else if s.fenced (0x50 + d) then .refuse (xdescAt d ctx) 2 (0x50 + d)
  else
    let c := ctxOf d (s.context d ctx)
    if c.mode = 0 || !modeAllows c op then .bad
    else
      let u := s.sillage d
      if exchange then
        match s.rangeFault d (xdescAt d ctx) 64 with
        | some f => .refuse f.1 f.2
        | none =>
          if !s.xdescOk d ctx op first n || !s.poolsOk d op (xdescOf d (s.xdescBytes d ctx)) then .bad
          else if u.exch.length ≥ 4 then .wait 2 else .ok
      else if u.choice.length ≥ 4 then .wait 2 else .ok

/-- R190: `SFENCE`. -/
def State.planSfence (s : State) (d : Nat) (arg : BitVec 56) : SlotPlan :=
  let u := s.sillage d
  if arg ≠ 0 then .bad
  else if s.fenced (0x50 + d) then .refuse (windowBase d + exchangeBlock) 2 (0x50 + d)
  else if u.choice.isEmpty && u.exch.isEmpty && s.cc ≥ u.lastEnd + 4 then .ok
  else .wait 2

/-- R186, R223: an accepted operation joins its pipeline. -/
def State.joinSillage (s : State) (d op : Nat) (arg : BitVec 56) : State :=
  let ctx := slotField arg 48 8
  let u := s.sillage d
  let o : SillOp := { op := op, ctx := ctx, n := slotField arg 32 16 + 1, first := slotField arg 16 16
                      context := s.context d ctx, xdesc := if op ≥ 0x10 then s.xdescBytes d ctx else []
                      tick := s.tick.count.toNat, order := u.order }
  let u := { u with order := u.order + 1 }
  (s.setSillage d (if op ≥ 0x10 then { u with exch := u.exch ++ [o] } else { u with choice := u.choice ++ [o] })).wakeSillage d

/-- A Sillage slot as the only slot of a bundle. -/
def State.sillageAlone (s : State) (d op : Nat) (arg : BitVec 56) : State :=
  s.slotAlone d op (sillageUnits d) (·.planSillage d op arg) (·.joinSillage d op arg)

def execScore (d : Fin 4) (arg : BitVec 56) (s : State) : Result := done (s.sillageAlone d 1 arg)
def execMerge (d : Fin 4) (arg : BitVec 56) (s : State) : Result := done (s.sillageAlone d 2 arg)
def execHash (d : Fin 4) (arg : BitVec 56) (s : State) : Result := done (s.sillageAlone d 3 arg)
def execAdmitTokens (d : Fin 4) (arg : BitVec 56) (s : State) : Result := done (s.sillageAlone d 4 arg)
def execSfence (d : Fin 4) (arg : BitVec 56) (s : State) : Result := done (s.slotAlone d 0x0F (sillageUnits d) (·.planSfence d arg) id)
def execXdispatch (d : Fin 4) (arg : BitVec 56) (s : State) : Result := done (s.sillageAlone d 0x10 arg)
def execXlist (d : Fin 4) (arg : BitVec 56) (s : State) : Result := done (s.sillageAlone d 0x11 arg)
def execXreturn (d : Fin 4) (arg : BitVec 56) (s : State) : Result := done (s.sillageAlone d 0x12 arg)
def execXcombine (d : Fin 4) (arg : BitVec 56) (s : State) : Result := done (s.sillageAlone d 0x13 arg)

end Sys2Proof.Machine
end

