-- ==== Sys2Proof/Machine/FlashMap.lean ====
section
/-! DEFINITION. The translation layer of Understory (R340 to R349): flash blocks of a channel, map entries and their places, the journal,
programming and erasing, and the read-only state. -/

namespace Sys2Proof.Machine

def State.setUnd (s : State) (u : Understory) : State := { s with und := u }

def State.channel (s : State) (c : Nat) : Channel := Tab.get {} c s.und.channels
def State.setChannel (s : State) (c : Nat) (v : Channel) : State :=
  { s with und := { s.und with channels := Tab.put c v s.und.channels } }

def cChannel (c field : Nat) : Nat := ctrKey 7 c field
def cStaged (c : Nat) : Nat := cChannel c 0
def cWrittenBack (c : Nat) : Nat := cChannel c 1
def cUndRetry (c : Nat) : Nat := cChannel c 2
def cUndReloc (c : Nat) : Nat := cChannel c 3
def cGrownBad (c : Nat) : Nat := cChannel c 4
def cUndLost (c : Nat) : Nat := cChannel c 5

/-- R343: key of a logical page: owner (account, `0x20` + slot) and page. -/
def logicalKey (owner page : Nat) : Nat := owner * 2 ^ 32 + page

/-- R343: the channel of a logical page. -/
def keyChannel (key : Nat) : Nat :=
  let owner := key / 2 ^ 32
  let page := key % 2 ^ 32
  if owner < 16 then (page + owner) % 16 else page % 16

/-- A block of a channel; one that was never touched is empty and as its factory mark says. -/
def Channel.block (ch : Channel) (c b : Nat) : Block := Tab.get { bad := Config.nandBad c b } b ch.table
def Channel.setBlock (ch : Channel) (b : Nat) (v : Block) : Channel := { ch with table := Tab.put b v ch.table }

/-- The blocks of a channel that meet a condition. -/
def Channel.blocksWhere (ch : Channel) (c : Nat) (cond : Block → Bool) : List Nat :=
  (List.range ch.blocks).filter (fun b => cond (ch.block c b))

/-- A free block: good and erased. -/
def Block.isFree (b : Block) : Bool := !b.bad && b.programmed = 0

/-- R345: the block that the next write of a channel goes to: one that is partly programmed, else the free block with the
lowest erase count; among equal ones the specification leaves the choice (DESIGN CHOICE, log 18). -/
def Channel.writeBlock (ch : Channel) (c k : Nat) : Option Nat :=
  match ch.blocksWhere c (fun b => !b.bad && 0 < b.programmed && b.programmed < ch.pagesPerBlock) with
  | b :: _ => some b
  | [] =>
    let free := ch.blocksWhere c Block.isFree
    match (free.map (fun b => (ch.block c b).erases)).min? with
    | none => none
    | some e =>
      let best := free.filter (fun b => (ch.block c b).erases = e)
      best[Config.freshPage k % best.length]?

/-- R343: blocks of one target of a channel. -/
def Channel.perTarget (ch : Channel) : Nat := max 1 (ch.blocks / max 1 ch.targets)

/-- R343: the map entry of a page of a block: target, and row address in it (DESIGN CHOICE, log 127). -/
def Channel.entryOf (ch : Channel) (b page : Nat) : Nat :=
  b / ch.perTarget * 2 ^ 29 + (b % ch.perTarget * ch.pagesPerBlock + page)

/-- The block and the page in it that a map entry names. -/
def Channel.placeOf (ch : Channel) (e : Nat) : Nat × Nat :=
  (e / 2 ^ 29 * ch.perTarget + e % 2 ^ 29 / max 1 ch.pagesPerBlock, e % 2 ^ 29 % max 1 ch.pagesPerBlock)

/-- R343: the markers of a page that was never written and of a lost one. -/
def unwrittenEntry : Nat := 0xFFFFFFFF
def lostEntry : Nat := 0xFFFFFFFE

/-- R343: the map entry of a logical page. -/
def State.mapEntry (s : State) (key : Nat) : Nat :=
  if s.und.lost.contains key then lostEntry else Tab.get unwrittenEntry key s.und.map

/-- R343: the accounts' logical spaces and then the slots' take ranges of map entries, in ascending order (DESIGN CHOICE, log 127). -/
def State.entryIndex (s : State) (key : Nat) : Nat :=
  let space (a : Nat) : Nat := let q : Quota := Tab.get {} a s.und.quotas; if q.active then 128 * q.und else 0
  let owner := key / 2 ^ 32
  if owner < 16 then ((List.range owner).map space).sum + key % 2 ^ 32
  else ((List.range 16).map space).sum + (owner - 0x20) * 128 * s.und.ckptUnits + key % 2 ^ 32

/-- R321, R343: HBM key of a logical page's map entry: the lower half of the map lies in stack 6, the upper in stack 7, in granules below
the device area (DESIGN CHOICE, log 127). -/
def State.entryPlace (s : State) (key : Nat) : Nat :=
  let off := 4 * s.entryIndex key
  let half := 256 * s.und.formatted
  let k := if off < half then 6 else 7
  let o := if off < half then off else off - half
  k * stackSpan + skipping (s.retiredOf k) (s.goodCount k - deviceCount - s.mapCount k + o / granule) * granule + o % granule

/-- R349: a change of the map: a journal record, then the entry in HBM, which is written through the partition (R309) (DESIGN CHOICE, log 127). -/
def State.journalMap (s : State) (key : Nat) : State :=
  let e := s.mapEntry key
  let s := s.setUnd { s.und with
    journal := s.und.journal + 1
    journalLog := { key := key, entry := BitVec.ofNat 32 e, seq := BitVec.ofNat 32 s.und.seqNo } :: s.und.journalLog }
  s.touchWrite (s.entryPlace key) 0 (leBytes 4 e)

/-- A logical page's old place in flash no longer counts. -/
def State.unmapPage (s : State) (key : Nat) : State :=
  let c := keyChannel key
  let ch := s.channel c
  match Tab.find key s.und.map with
  | none => s
  | some e =>
    let b := (ch.placeOf e).1
    let v := ch.block c b
    let s := s.setChannel c (ch.setBlock b { v with valid := v.valid.filter (fun x => x.2 ≠ key) })
    s.setUnd { s.und with map := Tab.drop key s.und.map }

/-- A logical page is `UNWRITTEN` from now on (R339, R352). -/
def State.dropPage (s : State) (key : Nat) : State :=
  if s.mapEntry key = unwrittenEntry then s
  else
    let s := s.unmapPage key
    (s.setUnd { s.und with content := Tab.drop key s.und.content, lost := s.und.lost.filter (· ≠ key) }).journalMap key

/-- R344: the record in the spare area of a page: owner, logical page, sequence number, the CRC of the main area and the record's own. -/
def spareRecord (key seq : Nat) (main : List Byte) : List Byte :=
  let b := leBytes 1 (key / 2 ^ 32) ++ leBytes 3 0 ++ leBytes 4 (key % 2 ^ 32) ++ leBytes 8 seq ++
    leBytes 4 (crc32c (byteField main 0 pageSize)).toNat ++ leBytes 8 0
  b ++ leBytes 4 (crc32c b).toNat

/-- R344, R349: a logical page is programmed on its channel: data page with its record, journal record, map entry. None: no block has
room. -/
def State.programPage (s : State) (key : Nat) (main : List Byte) : Option State :=
  let c := keyChannel key
  match (s.channel c).writeBlock c s.free with
  | none => none
  | some b =>
    let s := (s.unmapPage key).spend
    let ch := s.channel c
    let v := ch.block c b
    let seq := s.und.seqNo + 1
    let s := s.setChannel c (ch.setBlock b { v with
      programmed := v.programmed + 1, valid := v.valid ++ [(v.programmed, key)]
      spares := Tab.put v.programmed (spareRecord key seq main) v.spares })
    some ((s.setUnd { s.und with
      map := Tab.put key (ch.entryOf b v.programmed) s.und.map, content := Tab.put key main s.und.content
      lost := s.und.lost.filter (· ≠ key), seqNo := seq }).journalMap key)

/-- R344: whether the record of the flash page that a logical page is mapped to names it and fits the contents. -/
def State.recordFits (s : State) (key : Nat) : Bool :=
  let c := keyChannel key
  match Tab.find key s.und.map with
  | none => true
  | some e =>
    let q := (s.channel c).placeOf e
    let r := Tab.get [] q.2 ((s.channel c).block c q.1).spares
    field r 0 1 = key / 2 ^ 32 && field r 4 4 = key % 2 ^ 32 && field r 28 4 = (crc32c (r.take 28)).toNat &&
      field r 16 4 = (crc32c (byteField (Tab.get [] key s.und.content) 0 pageSize)).toNat

/-- R347: a block is erased; an erase failure retires it as grown bad (DESIGN CHOICE, log 127). -/
def State.eraseFlash (s : State) (c b : Nat) : State :=
  let ch := s.channel c
  let v := ch.block c b
  if Config.eraseFails s.free then ((s.setChannel c (ch.setBlock b { v with bad := true })).count (cGrownBad c) 1).spend
  else (s.setChannel c (ch.setBlock b { erases := v.erases + 1, bad := v.bad })).spend

/-- R348: free blocks of a channel. -/
def Channel.freeBlocks (ch : Channel) (c : Nat) : Nat := (ch.blocksWhere c Block.isFree).length

/-- R348: Understory becomes read-only when a channel's free blocks fall below 1%. -/
def State.checkReadOnly (s : State) : State :=
  if (List.range 16).any (fun c => (s.channel c).present && 100 * (s.channel c).freeBlocks c < (s.channel c).blocks) then
    s.setUnd { s.und with readOnly := true }
  else s

/-- R348: it is writable again once every channel has 2% free blocks. -/
def State.checkWritable (s : State) : State :=
  if (List.range 16).all (fun c => !(s.channel c).present || 100 * (s.channel c).freeBlocks c ≥ 2 * (s.channel c).blocks) then
    s.setUnd { s.und with readOnly := false }
  else s

end Sys2Proof.Machine
end

