-- ==== Sys2Proof/Machine/Remote.lean ====
section
/-! DEFINITION. What a packet meets at this device (R384, R385), and remote loads, stores and atomics at their target
(R401 to R415): address, fence, owner and residency, in that order. -/

namespace Sys2Proof.Machine

def State.router (s : State) (d : Nat) : Router := Tab.get {} d s.fab.routers
def State.setRouter (s : State) (d : Nat) (r : Router) : State := s.setFab { s.fab with routers := Tab.put d r s.fab.routers }

/-- Address bits of a packet that name a local address. -/
def pktAddr (p : Pkt) : Nat := p.addr.toNat % 2 ^ 48

/-- R385, R367: the die that a memory packet is delivered to: the die that holds its address, fenced or not, else die 0 (DEDUCED, log 88). -/
def State.deliveryDie (s : State) (a : Nat) : Nat :=
  if 0xF00000000000 ≤ a && a < 0xF04000000000 then (a - 0xF00000000000) / 0x1000000000
  else match Tab.find (a / granule) s.job.frames, placeDie (s.place a) with
    | some h, _ => h / stackSpan / 2
    | none, some d => d
    | none, none => 0

/-! ### Delivery -/

/-- R384: the port code of a `DIRECTED` packet's hop. -/
def hopCode (p : Pkt) : Nat := bitsOf p.addr.toNat (4 * bitsOf p.addr.toNat 60 4) 4

/-- R384: whether a packet is addressed to this device: a `DIRECTED` one by the code 0 of its hop, any other by its destination. -/
def State.addressed (s : State) (p : Pkt) : Bool := if p.flag 4 then hopCode p = 0 else p.dest = s.fab.coord

/-- R357, R384: a `DIRECTED` packet goes on by the port code of its hop; code 15 is unreachable, and reserved codes lead nowhere (DEDUCED, log 46). -/
def State.directed (s : State) (p : Pkt) : State :=
  let h := bitsOf p.addr.toNat 60 4
  let code := hopCode p
  let next := p.addr.toNat % 2 ^ 60 + (h + 1) % 16 * 2 ^ 60
  let q := { p with addr := BitVec.ofNat 64 next, cls := (p.cls &&& 0xF1#8) ||| 10#8 }
  if code = 15 then s.count cUnreach 1
  else if code = 0 || code > 8 then s
  else if s.portUp (code - 1) then s.transmit (code - 1) false { q with hcrc := q.headCrc }
  else s.setFab { s.fab with escWaits := s.fab.escWaits ++ [⟨{ q with hcrc := q.headCrc }, code - 1, s.cc⟩] }

/-- R384: a packet for another device goes on, whatever its job tag (DEDUCED, log 34). -/
def State.forward (s : State) (p : Pkt) : State := if p.flag 4 then s.directed p else s.inject p

/-- R394: a fabric-manager source coordinate. -/
def State.isMgr (s : State) (c : BitVec 16) : Bool := c ≠ 0 && s.fab.mgr.contains c

/-- R385, R394: whether a packet without a job tag comes from a fabric-manager source; before `FAB_MGR` is set, Ranger takes `DIRECTED`
management packets that arrive on a spur port alone. -/
def State.mgmtSource (s : State) (p : Pkt) : Bool :=
  if s.fab.mgr.all (· == 0) then p.flag 4 && p.typ.toNat = tMgmtReq && p.via.any (fun q => q.val ≥ 6) else s.isMgr p.src

/-- R385: what the checks of a delivered packet find. -/
inductive Check where
  | hdr | pay | tag | pass
  deriving DecidableEq, Repr

/-- R385: the checks of a packet that is addressed here and expected to have a type, in their order. `tagOk` is the
comparison of the job tag that its type gets when the tag is not 0. -/
def State.checkPkt (s : State) (p : Pkt) (typ : Nat) (tagOk : Bool) : Check :=
  if !p.hcrcOk then .hdr
  else if p.typ.toNat ≠ typ || !knownTypes.contains typ then .hdr
  else if !p.pcrcOk then .pay
  else if p.jobTag = 0 then
    if (typ = tArm || typ = tMgmtReq || typ = tAck || typ = tMgmtResp || p.flag 4) && s.mgmtSource p then .pass else .tag
  else if tagOk then .pass else .tag

/-- Counts what the checks of R385 discard. -/
def State.countCheck (s : State) : Check → State
  | .hdr => s.count cHdrDrop 1
  | .pay => s.count cPayDrop 1
  | .tag => s.count cTagReject 1
  | .pass => s

/-- R381: epoch `a` is newer than epoch `b`. -/
def epochNewer (a b : Nat) : Bool := 0 < (a + 256 - b) % 256 && (a + 256 - b) % 256 < 128

/-- Key of a source die (R446): its coordinate and the die bits of `SEQ`. -/
def sourceKey (p : Pkt) : Nat := p.src.toNat * 4 + p.seq.toNat / 16384

/-- R446: whether a floor drops a packet; floors are (source die, epoch, cycle) and hold for 12 ms. -/
def State.belowFloor (s : State) (p : Pkt) : Bool :=
  (isAcked p.typ.toNat || isRequest p.typ.toNat) &&
    s.fab.routers.any (fun r => r.2.floors.any (fun f =>
      f.1 = sourceKey p && s.cc < f.2.2 + msCc 12 && epochNewer f.2.1 p.epoch.toNat))

/-- R475: whether the router of a die is fenced; a packet for it is lost (DEDUCED, log 89). -/
def State.routerFenced (s : State) (d : Nat) : Bool := s.fenced (0x6E + d)

/-- R453: `EPOCH_DROP`. -/
def cEpochDrop (d : Nat) : Nat := ctrKey 4 d 59

/-- R361, R399, R400: a packet that arrives on a port: it is discarded where the link is down; else its flits are counted, and words that
arrive are no longer waited for. -/
def State.fromLink (s : State) (p : Pkt) (f : State → State) : State :=
  match p.via with
  | none => f s
  | some q =>
    if !s.fab.up.getLsbD q then s.count cLdDiscard 1
    else
      let v : Port := Tab.get {} q.val s.fab.ports
      let s := s.setFab { s.fab with ports := Tab.put q.val { v with waitReplay := none } s.fab.ports }
      f (s.count (cFlitRx q) p.flits)

/-- R475, R479: a packet for a die whose router is fenced ends with status 2, where its type is acknowledged or answered; others are lost
(DEDUCED, log 89). -/
def State.refuseFenced (s : State) (p : Pkt) : State :=
  let t := p.typ.toNat
  if t = tLoadReq then s.sendReply p tLoadData 2 32 (List.replicate 32 0)
  else if t = tAtomicReq then s.sendReply p tAtomicReply 2 32 (List.replicate 8 0)
  else if isAcked t then s.sendAck p 2 else s

/-- R384, R385, R446, R492: a packet arrives: it is forwarded, discarded, or delivered to a die. -/
def State.deliver (s : State) (p : Pkt) (typ die : Nat) (tagOk : Bool) (f : State → State) : State :=
  s.fromLink p (fun s =>
    if !s.addressed p then s.forward p
    else if s.power.transit then s.count cTagReject 1
    else
      let c := s.checkPkt p typ tagOk
      if c ≠ .pass then s.countCheck c
      else if s.routerFenced die then s.refuseFenced p
      else if s.belowFloor p then s.count (cEpochDrop die) 1
      else f s)

/-- R385: the job tag of the device. -/
def State.tagMatches (s : State) (p : Pkt) : Bool := p.jobTag = s.fab.jobTag

/-! ### Ownership -/

/-- R405: the index of a local address's granule in the owner table. -/
def ownerIndex (a : Nat) : Nat :=
  if a < 0x400000000000 then 15360 + a / granule
  else
    let d := (a - 0xF00000000000) / 0x1000000000
    let o := a % 0x1000000000
    if o < 0x20000000 then 3840 * d + o / granule else 3840 * d + 256 + (o - 0x100000000) / granule

/-- Who accesses memory from outside (R407). -/
inductive Access4 where
  | load
  | store (src : Nat)
  | atomic (src : Nat)
  | hostRead
  | hostWrite
  deriving DecidableEq, Repr

/-- R406, R407: whether an owner-table entry accepts an access. -/
def ownerAccepts (e : Nat) : Access4 → Bool
  | .load => true
  | .hostRead => true
  | .store src => bitsOf e 19 13 = 0 && bitsOf e 16 2 = 1 && bitsOf e 0 16 = src
  | .atomic src => bitsOf e 19 13 = 0 && bitsOf e 16 2 ≠ 3 && ((bitsOf e 16 2 = 1 && bitsOf e 0 16 = src) || bitAt e 18)
  | .hostWrite => bitsOf e 19 13 = 0 && bitsOf e 16 2 = 2

/-- R406, R408, R420: the owner-table entry of a local address, as it was before the writes that complete in this cycle (DEDUCED, log 102). -/
def State.ownerEntry (s : State) (a : Nat) : Nat :=
  match if s.fab.ownerOld.1 = s.cc then Tab.find (ownerIndex a) s.fab.ownerOld.2 else none with
  | some v => v
  | none => leNat (s.readLocal (s.job.ownTable + 4 * ownerIndex a) 4)

/-- R16, R401, R407: the status of one 32-byte unit; the host's accesses start at die 0. -/
def State.unitStatus (s : State) (w : Access4) (a : Nat) : Nat :=
  let p := match w with
    | .hostRead | .hostWrite => s.placeFrom 0 a
    | _ => s.place a
  let st := placeStatus p
  if st ≠ 0 then st
  else if !ownerAccepts (s.ownerEntry a) w then 3
  else match p with
    | .away _ => 4
    | _ => 0

/-- The 32-byte units of a range. -/
def unitsOf (a len : Nat) : List Nat := (List.range (len / 32)).map (fun i => a + 32 * i)

/-- R404: the status of an access: that of its lowest-addressed failing unit. -/
def State.accessStatus (s : State) (w : Access4) (a len : Nat) : Nat :=
  ((unitsOf a len).map (s.unitStatus w)).find? (· ≠ 0) |>.getD 0

/-- Whether a range of units lies in the 48-bit address space, on a 32-byte boundary. -/
def aligned32 (a len : Nat) : Bool := a % 32 = 0 && len % 32 = 0 && len ≠ 0 && a + len ≤ 2 ^ 48

/-- R408: the owner cache of a router takes the lines of the granules that an access checks; misses are counted (DEDUCED, log 102). -/
def State.lookOwners (s : State) (d : Nat) (w : Access4) (a len : Nat) : State :=
  match w with
  | .load => s
  | .hostRead => s
  | _ =>
    (((unitsOf a len).map (fun u => ownerIndex u / 64)).eraseDups).foldl (fun (s : State) line =>
      let r := s.router d
      if r.ownerLines.contains line then s
      else ((s.setRouter d { r with ownerLines := (line :: r.ownerLines).take 4096 }).count (cOwnerMiss d) 1).noteRead
        (s.job.ownTable + 256 * line) 256 0) s

/-- R328, R421: counts what an access's status counts. -/
def State.countAccess (s : State) (d status : Nat) : State :=
  if status = 3 then s.count (cOwnerRefused d) 1 else if status = 4 then s.count cRemoteNr 1 else s

/-- R390: a delivered packet with `RETRY` set (DEDUCED, log 46). -/
def State.countRetry (s : State) (p : Pkt) : State := if p.flag 2 then s.count cDupDeliver 1 else s

/-! ### Stores and loads -/

/-- The bytes that a store writes, where it carries a byte mask (R403): the old byte where the mask is clear (DESIGN CHOICE, log 47). -/
def maskedData (mask : Nat) (old new : List Byte) : List Byte :=
  (old.zip new).zipIdx.map (fun p => if mask.testBit p.2 then p.1.2 else p.1.1)

/-- R403: the byte mask of a scalar-core store, in the four payload bytes after its 32 data bytes; 0: the store is whole (DESIGN CHOICE, log 47). -/
def storeMask (p : Pkt) : Nat := if p.len = 32 then field p.body 32 4 else 0

/-- R377: the requests in a die's queue, and whether it is full. -/
def State.waitingRequests (s : State) (d : Nat) : List Nat := (s.router d).requests.filter (fun t => t > s.cc)
def State.queueFull (s : State) (d : Nat) : Bool := (s.waitingRequests d).length ≥ 4096

/-- R377, R290: a request enters the queue of a die and leaves it once its memory has answered (DESIGN CHOICE, log 131). -/
def State.enqueue (s : State) (d a : Nat) : State :=
  s.setRouter d { s.router d with requests := (s.cc + s.latency (16 * d) a) :: s.waitingRequests d }

/-- R404, R407: a `STORE` is performed whole or not at all, and acknowledged with its status. -/
def State.performStore (s : State) (p : Pkt) : State :=
  let a := pktAddr p
  let len := p.len.toNat
  let d := s.deliveryDie a
  let s := s.countRetry p
  if !aligned32 a len || len > 4096 then s.sendAck p 1
  else
    let w := Access4.store p.src.toNat
    let st := s.accessStatus w a len
    let s := (if st = 1 || st = 2 then s else s.lookOwners d w a len).countAccess d st
    let s := s.wakeRanges [(a, len)]
    let data := if storeMask p = 0 then p.data else maskedData (storeMask p) (s.readLocal a 32) p.data
    if st = 0 then (s.writeLocal a 0 data).sendAck p 0 else s.sendAck p st

/-- R404: a `LOAD_REQ` that is well formed (DEDUCED, log 88). -/
def loadReqOk (p : Pkt) : Bool :=
  let n := field p.body 0 2
  aligned32 (pktAddr p) n && n ≤ 4096 && field p.body 2 1 < 4 && field p.body 3 1 < 2 && field p.body 4 28 = 0

/-- R404: a `LOAD_REQ` is answered with its data or its status (DEDUCED, log 88). -/
def State.performLoad (s : State) (p : Pkt) : State :=
  let a := pktAddr p
  let n := field p.body 0 2
  let d := s.deliveryDie a
  let s := s.countRetry p
  if s.queueFull d then s.sendReply p tLoadData 5 32 (List.replicate 32 0)
  else
  let s := s.enqueue d a
  let st := if loadReqOk p then s.accessStatus .load a n else 1
  let s := s.countAccess d st
  if st = 0 then
    let s := s.wakeRanges [(a, n)]
    let data := s.readLocal a n
    (s.noteRead a n (field p.body 2 1)).sendReply p tLoadData 0 n data
  else s.sendReply p tLoadData st 32 (List.replicate 32 0)

/-! ### Atomics -/

/-- R412: an integer result that saturates: value and whether it did. -/
def atomInt (t : Nat) (v : Int) : Nat × Bool :=
  let w := 8 * atomWidth t
  let lo : Int := if t ≤ 1 then -(2 ^ (w - 1) : Nat) else 0
  let hi : Int := if t ≤ 1 then (2 ^ (w - 1) : Nat) - 1 else (2 ^ w : Nat) - 1
  let c := max lo (min hi v)
  ((c % (2 ^ w : Nat)).toNat, c ≠ v)

/-- The integer that the bits of a type stand for. -/
def atomVal (t v : Nat) : Int := if t ≤ 1 then signExt (8 * atomWidth t) v else (v : Int)

/-- R412: the new value of an atomic, and whether an integer saturated. -/
def atomNew (op t old operand compare : Nat) : Nat × Bool :=
  match op with
  | 1 =>
    if t = 2 then (f32Bits (fAdd (fp32.decode old) (fp32.decode operand)), false) else atomInt t (atomVal t old + atomVal t operand)
  | 2 => (if old = compare then operand else old, false)
  | 5 => (operand, false)
  | _ =>
    if t = 2 then
      let a := fp32.decode old
      let b := fp32.decode operand
      if a.isNan || b.isNan then (0x7FC00000, false)
      else if op = 3 then (if b.lt a then operand else old, false)
      else (if a.lt b then operand else old, false)
    else
      let a := atomVal t old
      let b := atomVal t operand
      if op = 3 then (if b < a then operand else old, false) else (if a < b then operand else old, false)
where
  /-- FP32 code of a value. -/
  f32Bits (v : Val) : Nat := fp32.encode .rne v

/-- R411: an `ATOMIC_REQ` whose fields are in range (DEDUCED, log 88). -/
def atomReqOk (p : Pkt) : Bool :=
  let op := field p.body 0 1 % 16
  let t := field p.body 0 1 / 16
  atomListed op t && pktAddr p % atomWidth t = 0 && field p.body 1 7 = 0 && field p.body 24 8 = 0 &&
    (op = 2 || field p.body 16 8 = 0)

/-- R414: key of a request in the replay cache. -/
def replayKey (p : Pkt) : Nat := p.src.toNat * 65536 + p.seq.toNat

/-- R414: the cache with room for one more entry, or none if every entry is younger than 2 ms. Entries are (key, status,
old value, cycle), newest first. -/
def replayRoom (now : Nat) (l : List (Nat × Nat × Nat × Nat)) : Option (List (Nat × Nat × Nat × Nat)) :=
  if l.length < 8192 then some l
  else match l.getLast? with
    | some e => if now ≥ e.2.2.2 + msCc 2 then some l.dropLast else none
    | none => some l

/-- R414: the record of a request in a replay cache, with its die: that of the address's die, or, where the address has come to lie on
another die, of that one (DEDUCED, log 88). -/
def State.replayed (s : State) (p : Pkt) : Option (Nat × Nat × Nat × Nat × Nat) :=
  (s.deliveryDie (pktAddr p) :: [0, 1, 2, 3]).findSome? (fun d =>
    ((s.router d).replay.find? (fun e => e.1 = replayKey p)).map (fun e => (d, e)))

/-- R411 to R414: an `ATOMIC_REQ` is applied or refused once, and answered. -/
def State.performAtomic (s : State) (p : Pkt) : State :=
  let a := pktAddr p
  let d := s.deliveryDie a
  if s.queueFull d then s.sendReply p tAtomicReply 5 32 []
  else
  let s := s.enqueue d a
  match s.replayed p with
  | some (e, r) => (s.count (cAtomReplayed e) 1).sendReply p tAtomicReply r.2.1 32 (leBytes 8 r.2.2.1)
  | none =>
    match replayRoom s.cc (s.router d).replay with
    | none => (s.count (cAtomBusy d) 1).sendReply p tAtomicReply 5 32 []
    | some l =>
      let op := field p.body 0 1 % 16
      let t := field p.body 0 1 / 16
      let w := Access4.atomic p.src.toNat
      let st := if atomReqOk p then s.accessStatus w (a / 32 * 32) 32 else 1
      let s := if st = 1 || st = 2 then s else s.lookOwners d w (a / 32 * 32) 32
      let s := (s.countAccess d st).wakeRanges [(a / 32 * 32, 32)]
      let n := atomWidth t
      let old := if st = 0 then leNat (s.readLocal a n) else 0
      let v := atomNew op t old (field p.body 8 n) (field p.body 16 n)
      let s := if st = 0 then
          let s := (s.writeLocal a 0 (leBytes n v.1)).count (cAtomApplied d) 1
          if v.2 then s.count (cAtomSat d) 1 else s
        else s
      let s := s.setRouter d { s.router d with replay := (replayKey p, st, old, s.cc) :: l }
      s.sendReply p tAtomicReply st 32 (leBytes 8 old)

/-! ### The meanings -/

def execStore (p : Pkt) (s : State) : Result :=
  done (s.deliver p tStore (s.deliveryDie (pktAddr p)) (s.tagMatches p) (fun s => s.performStore p))

def execLoadReq (p : Pkt) (s : State) : Result :=
  done (s.deliver p tLoadReq (s.deliveryDie (pktAddr p)) (s.tagMatches p) (fun s => s.performLoad p))

def execAtomicReq (p : Pkt) (s : State) : Result :=
  done (s.deliver p tAtomicReq (s.deliveryDie (pktAddr p)) (s.tagMatches p) (fun s => s.performAtomic p))

/-- R375, R384: the port by which a packet would go on; 255 for none. -/
def State.nextPort (s : State) (p : Pkt) : Nat :=
  if p.flag 4 then hopCode p - 1 else s.portOf p

/-- R16: a packet that arrived on a port goes on, unless its way lies over fenced bridges in both directions of the ring
(DEDUCED, log 89). -/
def State.forwardFrom (s : State) (port : Nat) (p : Pkt) : State :=
  let out := s.nextPort p
  if out < 8 && !s.crosses (portDie port) (portDie out) then s else s.forward p

def execPacketForward (port : Fin 8) (p : Pkt) (s : State) : Result :=
  let p := { p with via := some port }
  done (s.fromLink p (fun s => if s.addressed p then s else s.forwardFrom port p))

/-- R370, R385: a packet whose header check fails or whose type is unknown is discarded and counted. -/
def execHdrDrop (p : Pkt) (s : State) : Result :=
  done (s.fromLink p (fun s =>
    if !s.addressed p then s.forward p
    else if !p.hcrcOk || !knownTypes.contains p.typ.toNat then s.count cHdrDrop 1 else s))

end Sys2Proof.Machine
end

