-- ==== Sys2Proof/Machine/DeliveryFence.lean ====
section
/-! DEFINITION. `CFENCE` and the Blaze (R444 to R446): the fence of a die over packets of its fabric queues, the drain
markers that a commit sends while it is open, and the epoch floors that they set. -/

namespace Sys2Proof.Machine

def cBlazeSent (d : Nat) : Nat := ctrKey 4 d 57
def cBlazeBusy (d : Nat) : Nat := ctrKey 4 d 58
def cFenceCc (d : Nat) : Nat := ctrKey 4 d 60

/-- R444: the operations that a fence counts: those on its queues that were issued before it. -/
def State.countedOps (s : State) (d mask limit : Nat) : List FabOp :=
  (maskBits 8 mask).flatMap (fun q => (s.fabQueue d q).filter (fun o => o.no < limit))

/-- R444: what reading a `CFENCE` finds: its bundle waits until every operation before it has its answers and every Blaze
that it sent is acknowledged. -/
def State.planCfence (s : State) (d : Nat) (arg : BitVec 56) : SlotPlan :=
  if slotField arg 40 16 ≠ 0 || slotField arg 0 32 ≠ 0 then .bad
  else
    let r := s.router d
    let limit := (r.openFence.map (·.limit)).getD r.opNo
    let blazes := (r.openFence.map (·.blazes)).getD []
    if (s.countedOps d (slotField arg 32 8) limit).isEmpty && blazes.isEmpty then .ok else .wait 3

/-- R444: a fence that must wait opens: it records the route epoch and the operations before it. -/
def State.openCfence (s : State) (d : Nat) (fab : Nat × Nat) : State :=
  let r := s.router d
  if fab.1 ≠ 0x11 || r.openFence.isSome then s
  else s.setRouter d { r with
    fences := r.fences + 1
    openFence := some { mask := bitsOf fab.2 32 8, limit := r.opNo, epoch := s.fab.epoch.toNat, since := s.cc } }

/-- R444: the fence completes; its wait is counted. -/
def State.closeCfence (s : State) (d : Nat) : State :=
  let r := s.router d
  match r.openFence with
  | some f => (s.setRouter d { r with openFence := none }).count (cFenceCc d) (s.cc - f.since)
  | none => s.setRouter d { r with fences := r.fences + 1 }

/-- Whether a packet that a die keeps belongs to one of a fence's operations (R444). -/
def State.counted (s : State) (d : Nat) (f : OpenFence) (k : Kept) : Bool :=
  k.die = d && !k.answered &&
    (match k.origin with
      | .put _ q => f.mask.testBit q && ((s.fabQueue d q).head?.any (fun o => o.no < f.limit))
      | .get _ q _ _ => f.mask.testBit q && ((s.fabQueue d q).head?.any (fun o => o.no < f.limit))
      | .atomic _ q _ => f.mask.testBit q && ((s.fabQueue d q).head?.any (fun o => o.no < f.limit))
      | .coll _ c _ _ => (s.countedOps d f.mask f.limit).any (fun o => (o.coll.map (·.1)) = some c)
      | _ => false)

/-- R445: the body of a Blaze. -/
def blazeBody (old new fence : Nat) : List Byte := leBytes 1 old ++ leBytes 1 new ++ leBytes 2 fence

/-- R445: one die with an open fence sends a Blaze to each destination that still has a counted packet unacknowledged; it
leaves by the port of the destination's last counted packet. -/
def State.sendBlazes (s : State) (d : Nat) : State :=
  match (s.router d).openFence with
  | none => s
  | some f =>
    let open1 := s.fab.kept.filter (s.counted d f)
    let dests := (open1.map (fun k => k.pkt.dest.toNat)).eraseDups
    dests.foldl (fun (s : State) c =>
      let port := ((open1.filter (fun k => k.pkt.dest.toNat = c)).getLast?.map (·.port)).getD 255
      let r := s.router d
      let s := s.setRouter d { r with openFence := r.openFence.map (fun g => { g with blazes := g.blazes ++ [c] }) }
      (s.count (cBlazeSent d) 1).post d
        (s.newPkt c tBlaze 1 32 0 (blazeBody f.epoch s.fab.epoch.toNat (r.fences % 65536))) (Origin.blaze d port)) s

/-- R444: a Blaze that a die's fence sent is acknowledged. -/
def State.blazeAcked (s : State) (d dest : Nat) : State :=
  let r := s.router d
  s.setRouter d { r with openFence := r.openFence.map (fun g => { g with blazes := g.blazes.erase dest }) }

/-- R446: the newer of two epochs. -/
def newerEpoch (a b : Nat) : Nat := if epochNewer a b then a else b

/-- R446: a Blaze sets the floor for its source die and is acknowledged; with every floor in use it is answered busy (DEDUCED, log 93). -/
def State.takeBlaze (s : State) (p : Pkt) : State :=
  let r := s.router 0
  let key := sourceKey p
  let new := field p.body 1 1
  let s := s.countRetry p
  match r.floors.find? (fun f => f.1 = key) with
  | some f =>
    let e := if s.cc < f.2.2 + msCc 12 then newerEpoch new f.2.1 else new
    (s.setRouter 0 { r with floors := (key, e, s.cc) :: r.floors.filter (fun g => g.1 ≠ key) }).sendAck p 0
  | none =>
    let young := r.floors.filter (fun g => s.cc < g.2.2 + msCc 12)
    if young.length ≥ 4096 then (s.count (cBlazeBusy 0) 1).sendAck p 5
    else (s.setRouter 0 { r with floors := (key, new, s.cc) :: young }).sendAck p 0

def execCfence (d : Fin 4) (arg : BitVec 56) (s : State) : Result :=
  let p := s.planCfence d arg
  let t := if p == .wait 3 && s.job.state ≠ .held then s.openCfence d (0x11, arg.toNat) else s
  done (t.slotAlone d 0x11 [] (·.planCfence d arg) (·.closeCfence d))

def execBlaze (p : Pkt) (s : State) : Result := done (s.deliver p tBlaze 0 (s.tagMatches p) (·.takeBlaze p))

end Sys2Proof.Machine
end

