-- ==== Sys2Proof/Machine/Links.lean ====
section
/-! DEFINITION. Ports and links (R357 to R366): their state, going down, bring-up and replay of link words. -/

namespace Sys2Proof.Machine

def State.port (s : State) (p : Nat) : Port := Tab.get {} p s.fab.ports
def State.setPort (s : State) (p : Nat) (v : Port) : State := s.setFab { s.fab with ports := Tab.put p v s.fab.ports }

/-- R357: the ports of a die. -/
def portsOf (d : Nat) : List Nat := (List.range 8).filter (fun p => portDie p = d)

/-- R475: whether a fence of the port or of its die's router holds it down. -/
def State.portFenced (s : State) (p : Nat) : Bool := s.fenced (0x5C + p) || s.routerFenced (portDie p)

/-- R358: whether a port's dimension has size 1, so that it carries nothing and is held down. Until `FAB_COORD` is written,
ports train as for any torus, so that `DIRECTED` packets pass (R384) (DESIGN CHOICE, log 20). -/
def State.portDead (s : State) (p : Nat) : Bool := p < 6 && s.fab.coordSet && extentOf s.fabCoord (p / 2) = 1

/-- R363, R475: whether something holds a port down. -/
def State.portHeld (s : State) (p : Nat) : Bool := s.portFenced p || s.fab.admin.getLsbD p || s.portDead p

/-- R363: a `LINK_EVENT` to every fabric manager; its body gives the port and the reason (DEDUCED, log 46). -/
def State.linkEvent (s : State) (p fail : Nat) : State :=
  (s.fab.mgr.filter (· ≠ 0)).foldl (fun (s : State) m =>
    s.inject { s.newPkt m.toNat tLinkEvent 0 32 0 (leBytes 1 p ++ leBytes 1 fail) with jobTag := 0 }.sealed) s

/-- The state value that a port reads while it is down (R378). -/
def State.downState (s : State) (p : Nat) : BitVec 3 := if s.portHeld p then 7 else 0

/-- R363: a link goes down: packets on it are lost, its `UP` bit clears, a `LINK_EVENT` is sent and Ranger writes a record of kind 14. -/
def State.linkDown (s : State) (p fail : Nat) : State :=
  let v := s.port p
  let wasUp := s.fab.up.getLsbD p
  let s := s.count cLdDiscard (v.wire.filter (fun t => t > s.cc)).length
  let s := s.setPort p { v with fail := if fail = 0 then v.fail else BitVec.ofNat 5 fail, replays := [], waitReplay := none
                                retryAt := s.cc, txSeq := 0, sent := [], lineFree := 0, wire := [] }
  let s := s.setFab { s.fab with up := s.fab.up &&& ~~~ BitVec.twoPow 8 p }
  let s := s.setPort p { s.port p with state := s.downState p }
  if wasUp then
    ((s.count (cPort p 4) 1).linkEvent p fail).record { kind := 14, func := 0x5C + p, check := fail, die := portDie p, detail := leBytes 1 p }
  else s

/-- R364: a port's link is up. -/
def State.linkUp (s : State) (p : Nat) : State :=
  let s := s.setFab { s.fab with up := s.fab.up ||| BitVec.twoPow 8 p }
  s.setPort p { s.port p with state := 6 }

/-! ### The rows of links -/

/-- R363: a link goes down by itself; a link that is not up has nothing to lose. -/
def execLinkDown (port : Fin 8) (why : LinkLoss) (s : State) : Result :=
  done (if s.fab.up.getLsbD port then
      (s.linkDown port (match why with
        | .lockLost => 6
        | .retryLimit => 5)).pump
    else s)

/-- R365: the part numbers that a link comes up with. -/
def knownPart (v : BitVec 16) : Bool := v = 0x4816 || v = 0x3212 || v = 0x3224

/-- R383: packets that wait for a port leave by it once it is up. -/
def State.drainEscape (s : State) (p : Nat) : State :=
  let go := s.fab.escWaits.filter (fun w => w.port = p)
  let s := s.setFab { s.fab with escWaits := s.fab.escWaits.filter (fun w => w.port ≠ p) }
  go.foldl (fun (s : State) w => s.transmit p (!w.pkt.flag 4) w.pkt) s

/-- R366: the one-way delay of a link in 1/64 cc: half of what the round trips take beyond the turnarounds, averaged over the samples
(DESIGN CHOICE, log 128). -/
def linkDelay (samples : List (Nat × Nat)) : BitVec 20 :=
  BitVec.ofNat 20 ((samples.map (fun x => x.1 - x.2)).sum / (2 * max 1 samples.length))

/-- R364 to R366: a bring-up attempt, 100 ms after one that failed: the first stage that fails decides `FAIL`, else the link comes up with the peer's
identity and the measured delay. A link that has deskewed and locked shows that its die's BREFCLK is there again, so
`BREF_LOST` no longer says that it is absent (R585; DEDUCED) (DEDUCED, log 71). -/
def execLinkBringup (port : Fin 8) (b : BringUp) (s : State) : Result :=
  let p := port.val
  let v := s.port p
  let held := s.portHeld p || s.fab.up.getLsbD p || s.power.transit
  let s := if held then s else s.reach v.retryAt
  done (if held then s
    else if !b.electricalOk then s.setPort p { v with state := 1, fail := 1, retryAt := s.cc + 120000000 }
    else if !b.lockOk then s.setPort p { v with state := 2, fail := 2, retryAt := s.cc + 120000000 }
    else
      let v := { v with peer := b.peer, peerPort := b.peerPort, delay := linkDelay b.samples }
      let s := s.send (.identity p (BitVec.ofNat 32 s.fabCoord) 0x4816 s.fab.epoch.toNat)
      let s := { s with power := { s.power with brefLost := s.power.brefLost &&& ~~~ BitVec.twoPow 4 (portDie p) } }
      if !knownPart b.peerPart then s.setPort p { v with delay := (s.port p).delay, state := 3, fail := 3, retryAt := s.cc + 120000000 }
      else if v.delay.toNat > 150 * 12 * 64 / 10 then s.setPort p { v with state := 4, fail := 4, retryAt := s.cc + 120000000 }
      else (((s.setPort p v).linkUp p).drainEscape p).pump)

/-- R361: the words of the retry buffer from a named one on, in order. -/
def Port.wordsFrom (v : Port) (word : BitVec 12) : List (List Byte) := (v.sent.take (v.txSeq - word).toNat).reverse

/-- R361: a retry request reaches the sender: it replays from the named word; more than 8 replays of one word within 1 ms take
the link down (R363). -/
def execLinkRetry (port : Fin 8) (word : BitVec 12) (s : State) : Result :=
  let p := port.val
  let v := s.port p
  let old := Tab.get (0, s.cc) word.toNat v.replays
  let n := if s.cc > old.2 + msCc 1 then (0, s.cc) else old
  done (if !s.fab.up.getLsbD p then s
    else if n.1 ≥ 8 then s.linkDown p 5
    else ((s.count (cPort p 3) 1).setPort p { v with replays := Tab.put word.toNat (n.1 + 1, n.2) v.replays }).send
      (.linkWords p word.toNat (v.wordsFrom word)))

/-- R361: a received word fails: the receiver asks for a replay from it and discards what follows until that starts; so a failure of another
word before then is none (DESIGN CHOICE, log 21). -/
def execLinkWordFailure (port : Fin 8) (word : BitVec 12) (s : State) : Result :=
  let p := port.val
  let v := s.port p
  done (if !s.fab.up.getLsbD p || v.waitReplay.any (fun w => w ≠ word.toNat) then s
    else
      let s := (s.count (cPort p (if Config.failsFec s.free then 1 else 2)) 1).spend
      (s.setPort p { v with waitReplay := some word.toNat }).send (.linkCtl p 0 word.toNat))

end Sys2Proof.Machine
end

