-- ==== Sys2Proof/Machine/Homes.lean ====
section
/-! DEFINITION. Seedbank (R504 to R517): sets, slots and their tags, `SNAP` packets, the writing of a generation to its
homes, and the loss of a home. -/

namespace Sys2Proof.Machine

def cSbSkip : Nat := cDevice 23
def cSbCuts : Nat := cDevice 22
def cSbLate : Nat := cDevice 24
def cSbBytes : Nat := cDevice 25
def cSbCbwUnits : Nat := cDevice 26
def cSbCbwWait : Nat := cDevice 27
def cSbBounce : Nat := cDevice 28
def cSbHomeLost : Nat := cDevice 29
def cSbPull : Nat := cDevice 30

/-! ### Sets, slots and tags -/

/-- Bytes of the set header (R504). -/
def setHeaderSize : Nat := 4096

def State.setSeed (s : State) (b : Seedbank) : State := { s with seed := b }

/-- ASCII characters as bytes. -/
def ascii (t : String) : List Byte := t.toList.map (fun c => BitVec.ofNat 8 c.toNat)

/-- The device that a `SNAP` write comes from names an area (R507): 0 and 1 for `HOST0` and `HOST1`, 2 the local one. -/
def State.areaOf (s : State) (src : Nat) : Option Nat :=
  let h := s.seed.hosts.toNat
  if s.seed.mode = 1 then (if src = s.fab.coord.toNat then some 2 else none)
  else if bitAt h 32 && bitsOf h 0 16 = src then some 0
  else if bitAt h 33 && bitsOf h 16 16 = src then some 1
  else none

/-- R508: bytes of slot `k` of an area. -/
def State.slotBytes (s : State) (area k off n : Nat) : List Byte := getBlock zeroByte off n (Tab.get [] (area * 2 + k) s.seed.slots)

/-- Writes bytes of a slot. -/
def State.putSlot (s : State) (area k off : Nat) (bs : List Byte) : State :=
  let key := area * 2 + k
  { s with seed := { s.seed with slots := Tab.put key (putBlock zeroByte off bs (Tab.get [] key s.seed.slots)) s.seed.slots } }

/-- R508: place of the slot tag. -/
def State.tagPlace (s : State) : Nat := s.seed.slotBytes - 64

/-- R508: the slot tag of a set header. -/
def slotTag (header : List Byte) : List Byte :=
  let b := ascii "SEEDTAG1" ++ byteField header 8 8 ++ byteField header 24 6 ++ leBytes 2 0 ++ byteField header 32 8 ++
    leBytes 4 (crc32c header).toNat ++ leBytes 24 0
  b ++ leBytes 4 (crc32c b).toNat

/-- R508: whether a tag fits a header: a slot with both is valid. -/
def tagFits (tag header : List Byte) : Bool :=
  tag.take 8 == ascii "SEEDTAG1" && field tag 60 4 = (crc32c (tag.take 60)).toNat && field tag 32 4 = (crc32c header).toNat &&
    field tag 8 8 = field header 8 8 && field tag 16 6 = field header 24 6 && field tag 24 8 = field header 32 8

/-- R508: whether a slot of an area is valid. -/
def State.slotValid (s : State) (area k : Nat) : Bool :=
  (Tab.find area s.seed.areas).isSome && tagFits (s.slotBytes area k s.tagPlace 64) (s.slotBytes area k 0 setHeaderSize)

/-- R505, R517: the slot of an area that a pull takes: the one with the step, or, for step 0, the newest valid one. -/
def State.slotFor (s : State) (area step : Nat) : Option Nat :=
  let gen (k : Nat) : Nat := field (s.slotBytes area k 8 8) 0 8
  let good := (([0, 1] : List Nat).filter (s.slotValid area)).filter (fun k => step = 0 || field (s.slotBytes area k 24 6) 0 6 = step)
  match good with
  | [a, b] => some (if gen b > gen a then b else a)
  | [a] => some a
  | _ => none

/-! ### `SNAP` packets (R510) -/

/-- R510: header address of a `SNAP` packet. -/
def snapAddr (kind slot off : Nat) : Nat := off + slot * 2 ^ 40 + kind * 2 ^ 41
def snapOff (p : Pkt) : Nat := bitsOf p.addr.toNat 0 40
def snapSlot (p : Pkt) : Nat := bitsOf p.addr.toNat 40 1
def snapKind (p : Pkt) : Nat := bitsOf p.addr.toNat 41 3

/-- R513: the tag that `SNAP` packets carry; to the local area they carry the job's own tag when Seedbank traffic has none (DEDUCED, log 95). -/
def State.snapTagFor (s : State) (dest : Nat) : BitVec 16 :=
  if dest = s.fab.coord.toNat && s.seed.tag = 0 then s.job.tag else s.seed.tag

/-- The copy engine on die 1 sends a `SNAP` packet. -/
def State.sendSnap (s : State) (dest flags kind slot off : Nat) (data : List Byte) (what : Nat) : State :=
  let p := s.newPkt dest tSnap flags data.length (snapAddr kind slot off) data
  (s.count cSbBytes data.length).post 1 { p with jobTag := s.snapTagFor dest } (.snap dest what)

/-- Bytes in data packets of up to 4 KiB, from an offset on. -/
def State.sendSpan (s : State) (dest kind slot off : Nat) (bs : List Byte) (what : Nat) : State :=
  (chunks 4096 bs).zipIdx.foldl (fun (s : State) c => s.sendSnap dest 0 kind slot (off + 4096 * c.2) c.1 what) s

/-! ### Writing a generation (R511) -/

/-- Whether packets of the generation to a home wait for their acknowledgement. -/
def State.snapOpen (s : State) (home what : Nat) : Bool :=
  s.fab.kept.any (fun k => !k.answered && k.origin == .snap home what) || s.fab.queued.any (fun q => q.origin == .snap home what)

/-- Sets the generation that is being copied. -/
def State.setCopying (s : State) (c : Copying) : State := { s with seed := { s.seed with copying := some c } }

/-- R499, R500: the copy engine reads every unit that is left, and sends a home the header, the units read ahead of writes, and
the others in order (DEDUCED, log 95). -/
def State.sendSet (s : State) (c : Copying) (home : Nat) : State :=
  let slot := c.gen % 2
  let s := s.sendSpan home 0 slot 0 c.header 1
  let ahead := c.bounce.filterMap (fun a => c.units.find? (fun u => u.addr = a))
  let rest := c.units.filter (fun u => !c.bounce.contains u.addr)
  (ahead ++ rest).foldl (fun (s : State) u => s.sendSpan home 0 slot u.off u.bytes 1) s

/-- R352, R353: whether a durable checkpoint slot is valid. -/
def CkptSlot.valid (k : CkptSlot) : Bool := k.committed && k.data.length ≥ setHeaderSize && k.digest = sha512 k.data

def State.ckptSlot (s : State) (k : Nat) : CkptSlot := Tab.get {} k s.und.slots

/-- R353: the valid slot with the higher generation. -/
def State.newestCkpt (s : State) : Option Nat :=
  match ([0, 1] : List Nat).filter (fun k => (s.ckptSlot k).valid) with
  | [a, b] => some (if (s.ckptSlot b).gen > (s.ckptSlot a).gen then b else a)
  | [a] => some a
  | _ => none

/-- R352: the slot that does not hold the newest valid checkpoint. -/
def State.ckptTarget (s : State) : Nat := if s.newestCkpt = some 0 then 1 else 0

/-- R343, R351: logical pages of a checkpoint slot; its commit record is in the last. -/
def State.slotPages (s : State) : Nat := 128 * s.und.ckptUnits
def State.commitKey (s : State) (k : Nat) : Nat := logicalKey (0x20 + k) (s.slotPages - 1)

/-- R351: the commit record of a slot. -/
def commitRecord (data : List Byte) : List Byte :=
  byteField (ascii "CKPTCMT1" ++ byteField data 8 8 ++ leBytes 8 data.length ++ sha512 data) 0 4096

/-- R349, R352: pages of a slot are programmed, from a page on; none where no block has room. -/
def State.programSlot (s : State) (k : Nat) : Nat → List (List Byte) → Option State
  | _, [] => some s
  | i, b :: l => match s.programPage (logicalKey (0x20 + k) i) b with
    | none => none
    | some t => t.programSlot k (i + 1) l

/-- R352: the writing of a checkpoint starts: the slot's commit record is `UNWRITTEN` until the end; the header and the data are
programmed (R349). Without room for them the command fails (R347, R348) (DESIGN CHOICE, log 127). -/
def State.beginCheckpoint (s : State) (l : LongCmd) : State :=
  let k := l.note % 2
  let s := { s with und := { s.und with slots := Tab.put k { s.ckptSlot k with committed := false } s.und.slots } }
  match (s.dropPage (s.commitKey k)).programSlot k 0 (chunks pageSize l.data) with
  | none => s.finishLong sCkptFailed k []
  | some t => t.checkReadOnly.setLong l

/-- R504: the stored ranges that a header lists: address, length, offset of the data, flags. -/
def storedRanges (h : List Byte) : List (Nat × Nat × Nat × Nat) :=
  (List.range (field h 54 2)).map (fun i =>
    let b := byteField h (256 + 32 * i) 32
    (field b 0 8, field b 8 8, field b 16 8, field b 24 1))

/-- R523: a range of FP32 values narrowed to MXFP8 E4M3: elements, then scales. -/
def narrowed (bs : List Byte) : List Byte :=
  let vals := (unpackCodes 32 bs).map fp32.decode
  let blocks := mxEncodeRows .mx8a false vals.length none vals
  packCodes 8 (blocks.flatMap (·.codes)) ++ blocks.map (fun b => BitVec.ofNat 8 b.scale)

/-- R522, R523: what a checkpoint takes from a set of Seedbank: its own header, and the data of each range, narrowed where that says so. -/
def checkpointFrom (header set : List Byte) : List Byte :=
  header ++ ((storedRanges set).zip (storedRanges header)).flatMap (fun r =>
    let bs := byteField set r.1.2.2.1 r.1.2.1
    if r.2.2.2.2.testBit 1 then narrowed bs else bs)

/-- R517, R522: no home is left: a restore completes `NO_SOURCE` and the job is as it was before; a checkpoint fails. -/
def State.restoreFailed (s : State) : State :=
  if (s.longIs 0x42).isSome then s.abandonCheckpoint
  else ((s.setSeed { s.seed with pulling := none }).setJobState s.job.before).finishLong sNoSource 0 []

/-- R517: the next home is asked, if there is one. -/
def State.askHome (s : State) (want : Nat) (homes : List Nat) : State :=
  match homes with
  | [] => s.restoreFailed
  | h :: l =>
    (s.setSeed { s.seed with pulling := some { want := want, later := l, home := h } }).sendSnap h 0 3 0 0
      (leBytes 6 want ++ leBytes 26 0) 3

/-- R517: the request moves to the next home. -/
def State.nextHome (s : State) : State :=
  match s.seed.pulling with
  | none => s
  | some u => s.askHome u.want u.later

/-- R522: the set of a complete generation is read back for a checkpoint: from the local area, or from the homes that hold it, the primary
first. -/
def State.readBack (s : State) (c : Copying) (l : LongCmd) : State :=
  if s.seed.mode = 1 then
    s.beginCheckpoint { l with
      phase := 1, data := checkpointFrom l.data (s.slotBytes 2 (c.gen % 2) 0 (field (s.slotBytes 2 (c.gen % 2) 32 8) 0 8)) }
  else s.askHome c.step (([bitsOf c.buddy 0 16, bitsOf c.buddy 16 16] : List Nat).filter (fun h => c.homes.any (fun x => x.1 = h))).eraseDups

/-- R511: the generation is complete: status, report, and a waiting `SNAPSHOT_NOW`. -/
def State.completeGeneration (s : State) (c : Copying) : State :=
  let b := c.buddy
  let has (en lo : Nat) : Bool := s.seed.mode = 2 && bitAt b en && c.homes.any (fun h => h.1 = bitsOf b lo 16)
  let s := { s with seed := { s.seed with
    gen := BitVec.ofNat 64 c.gen, step := BitVec.ofNat 48 c.step, priOk := has 32 0, secOk := has 33 16, isLocal := s.seed.mode = 1
    lastEnd := 0, copying := none } }
  let s := s.report 0x43 s.sbStatus
  match s.host.long with
  | some l =>
    if l.req.cmd = 0x40 && l.phase = 1 then s.finishLong sOk 0 (leBytes 8 c.gen ++ leBytes 8 c.step)
    else if l.req.cmd = 0x42 && l.phase = 2 then s.readBack c l
    else s
  | none => s

/-- R511, R514: what follows when a home has acknowledged its tag or is lost. -/
def State.checkHomes (s : State) : State :=
  match s.seed.copying with
  | none => s
  | some c =>
    if c.homes.isEmpty then s.endCut 3
    else if c.homes.all (fun h => h.2 = 3) then s.completeGeneration c
    else s

/-- R514: the role of a home in a report. -/
def State.homeRole (s : State) (home : Nat) : Nat :=
  let b := (s.seed.copying.map (·.buddy)).getD s.seed.buddy.toNat
  if s.seed.mode = 1 then 2 else if bitAt b 32 && bitsOf b 0 16 = home then 0 else 1

/-- R514: a home is lost for the generation. -/
def State.loseHome (s : State) (home : Nat) : State :=
  match s.seed.copying with
  | none => s
  | some c =>
    if (Tab.find home c.homes).isNone then s
    else
      let mine (o : Origin) : Bool := o == .snap home 0 || o == .snap home 1 || o == .snap home 2
      let role := s.homeRole home
      let s := s.setFab { s.fab with
        kept := s.fab.kept.filter (fun k => !mine k.origin), queued := s.fab.queued.filter (fun q => !mine q.origin) }
      let s := { s with seed := { s.seed with
        copying := some { c with homes := Tab.drop home c.homes }
        priOk := s.seed.priOk && role ≠ 0, secOk := s.seed.secOk && role ≠ 1 } }
      ((s.count cSbHomeLost 1).report 0x45 (leBytes 2 home ++ leBytes 1 role)).checkHomes

/-- R511: a packet of the generation to a home is acknowledged; any status but 0 loses the home. -/
def State.homeAcked (s : State) (home what status : Nat) : State :=
  match s.seed.copying with
  | none => s
  | some c =>
    match Tab.find home c.homes with
    | none => s
    | some stage =>
      if status ≠ 0 then s.loseHome home
      else if what = 0 && stage = 0 then
        let c1 := { c with homes := Tab.put home 1 c.homes, unread := [] }
        let c2 := if c1.homes.all (fun h => h.2 ≥ 1) then { c1 with bounce := [] } else c1
        (s.setCopying c2).sendSet c home
      else if what = 1 && stage = 1 && !s.snapOpen home 1 then
        (s.setCopying { c with homes := Tab.put home 2 c.homes }).sendSnap home 1 1 (c.gen % 2) s.tagPlace (slotTag c.header) 2
      else if what = 2 && stage = 2 then (s.setCopying { c with homes := Tab.put home 3 c.homes }).checkHomes
      else s

/-- R514: the homes that a packet would now reach through a port. -/
def State.homesThrough (s : State) (p : Nat) : List Nat :=
  ((s.seed.copying.map (fun c => c.homes.map (·.1))).getD []).filter (fun h =>
    s.portOf (s.newPkt h tSnap 0 32 0 []) = p)

end Sys2Proof.Machine
end

