-- ==== Sys2Proof/Machine/Firmware.lean ====
section
/-! DEFINITION. Firmware images (R557 to R563): the RSASSA-PSS check, the checks of R558, the slots of the SPI NOR and the boot
record. -/

namespace Sys2Proof.Machine

/-! ### RSASSA-PSS with SHA-512 (R558) -/

/-- `b ^ e mod n` over `k` bits of the exponent. -/
def modPow (n : Nat) : Nat → Nat → Nat → Nat → Nat
  | 0, _, _, acc => acc
  | k + 1, b, e, acc => modPow n k (b * b % n) (e / 2) (if e % 2 = 1 then acc * b % n else acc)

/-- MGF1 with SHA-512: `n` bytes. -/
def mgf1 (seed : List Byte) (n : Nat) : List Byte :=
  ((List.range (ceilDiv n 64)).flatMap (fun i => sha512 (seed ++ beBytes 4 i))).take n

/-- Bytes combined by exclusive or. -/
def xorBytes (a b : List Byte) : List Byte := List.zipWith (· ^^^ ·) a b

/-- R558: whether a signature of a message verifies under a key (RSASSA-PSS, SHA-512, MGF1 with SHA-512, salt of 64 bytes) (DEDUCED, log 100). -/
def pssVerify (modulus exponent msg sig : List Byte) : Bool :=
  let n := beNat modulus
  let v := beNat sig
  if n < 2 || v ≥ n then false
  else
    let emBits := Nat.log2 n
    let emLen := ceilDiv emBits 8
    let m := modPow n 32 (v % n) (beNat exponent) (1 % n)
    if emLen < 130 || m ≥ 2 ^ emBits then false
    else
      let em := beBytes emLen m
      let masked := em.take (emLen - 65)
      let h := byteField em (emLen - 65) 64
      let top := 2 ^ (8 - (8 * emLen - emBits))
      let db := match xorBytes masked (mgf1 h (emLen - 65)) with
        | [] => []
        | b :: bs => BitVec.ofNat 8 (b.toNat % top) :: bs
      em.getLast? = some 0xBC#8 && db.take (emLen - 130) = List.replicate (emLen - 130) 0#8 &&
        db.getD (emLen - 130) 0#8 = 1#8 &&
        sha512 (List.replicate 8 0#8 ++ sha512 msg ++ db.drop (emLen - 129)) = h

/-! ### Images (R558) -/

/-- Bytes of a firmware slot: management 8 MiB, Heartwood 16 MiB. -/
def fwSlotBytes (kind : Nat) : Nat := if kind = 1 then 0x800000 else 0x1000000

/-- Body of an image. -/
def fwBody (img : List Byte) : List Byte := (img.drop 4096).take (field img 0x10 8)

/-- R556: fused minimum of a kind. -/
def Fuses.minSvn (f : Fuses) (kind : Nat) : Nat := if kind = 1 then f.minSvnMgmt else f.minSvnHwd

/-- R558: number of the first failing check of an image, or none (DEDUCED, log 100). -/
def fwCheck (f : Fuses) (kind : Nat) (img : List Byte) : Option Nat :=
  let part (off n : Nat) : List Byte := byteField img off n
  let slot := field img 0x0F 1
  let root := if slot = 0 then f.rootHash0 else f.rootHash1
  let checks : List (Nat × Bool) := [
    (1, part 0 8 = ascii "LMFWIMG1" && field img 8 2 = 0x4816 && field img 0x0A 1 = kind),
    (2, field img 0x10 8 + 4096 ≤ fwSlotBytes kind),
    (3, slot ≤ 1 && sha512 (part 0x2C0 516) = root && !f.revoked.getLsbD slot),
    (4, pssVerify (part 0x2C0 512) (part 0x4C0 4) (part 0x80 0x240) (part 0x500 512)),
    (5, pssVerify (part 0x80 512) (part 0x280 4) (part 0 0x2C0) (part 0x700 512)),
    (6, part 0x40 64 = sha512 (fwBody img)),
    (7, field img 0x0E 1 ≥ f.minSvn kind),
    (8, field img 0x0B 1 < 2 && zeroField img 0x18 40 && zeroField img 0x284 60 && zeroField img 0x4C4 60 &&
      zeroField img 0x900 1792 && field img 0x0E 1 ≤ 64)]
  (checks.find? (fun c => !c.2)).map (·.1)

/-- Version of an image. -/
def fwVersion (img : List Byte) : Nat := field img 0x0C 2

/-! ### Slots and boot records (R557, R560) -/

def State.setSec (s : State) (x : Security) : State := { s with sec := x }

/-- The image that a slot holds; kind 1 management, 2 Heartwood; slot 0 A, 1 B. -/
def Security.image (x : Security) (kind slot : Nat) : List Byte :=
  match kind, slot with
  | 1, 0 => x.mgmtA.image
  | 1, _ => x.mgmtB.image
  | _, 0 => x.hwdA.image
  | _, _ => x.hwdB.image

def Security.setImage (x : Security) (kind slot : Nat) (img : List Byte) : Security :=
  match kind, slot with
  | 1, 0 => { x with mgmtA := ⟨img⟩ }
  | 1, _ => { x with mgmtB := ⟨img⟩ }
  | _, 0 => { x with hwdA := ⟨img⟩ }
  | _, _ => { x with hwdB := ⟨img⟩ }

def Security.boot (x : Security) (kind : Nat) : BootRec := if kind = 1 then x.mgmtBoot else x.hwdBoot

def Security.setBoot (x : Security) (kind : Nat) (b : BootRec) : Security :=
  if kind = 1 then { x with mgmtBoot := b } else { x with hwdBoot := b }

/-- R560: whether a slot of a kind holds an image that passes R558. -/
def Security.slotGood (x : Security) (kind slot : Nat) : Bool := (fwCheck x.fuses kind (x.image kind slot)).isNone

/-- R563: a stage of an image: the inactive slot loses its header first, and holds the image, marked, if it passes. -/
def Security.stage (x : Security) (kind : Nat) (img : List Byte) : Security × Option Nat :=
  let slot := 1 - (x.boot kind).running
  let x := (x.setBoot kind { x.boot kind with staged := none }).setImage kind slot []
  match fwCheck x.fuses kind img with
  | some c => (x, some c)
  | none => ((x.setImage kind slot (img.take 4096 ++ fwBody img)).setBoot kind { x.boot kind with staged := some slot }, none)

/-- `IDENT_FW.STAGED` as the boot records stand (R455, R560). -/
def Security.stagedBits (x : Security) : BitVec 2 :=
  BitVec.ofNat 2 (b2n x.mgmtBoot.staged.isSome + 2 * b2n x.hwdBoot.staged.isSome)

/-- Refreshes `IDENT_FW.STAGED`. -/
def State.noteStaged (s : State) : State := s.setHost { s.host with staged := s.sec.stagedBits }

end Sys2Proof.Machine
end

