-- ==== Sys2Proof/Machine/Mailbox.lean ====
section
/-! DEFINITION. The commands of firmware 1.x as Heartwood takes them (R463 to R467), and host-memory transfers (R469). -/

namespace Sys2Proof.Machine

/-! ### Commands -/

/-- What the command table gives a command (R467): code, class, whether a length is right and the length to name. -/
structure Cmd where
  code : Nat
  long : Bool
  lenOk : Nat → Bool
  lenWant : Nat
  states : List JobState

/-- R460: every job state. -/
def anyState : List JobState := [.none, .loading, .loaded, .waitArm, .running, .held, .stopped, .ended, .restoring]

def fixedLen (n : Nat) : Nat → Bool := fun k => k = n

/-- The command table of R467. -/
def cmdIdentify : Cmd := ⟨0x01, false, fixedLen 0, 0, anyState⟩
def cmdJobLoad : Cmd := ⟨0x10, true, fixedLen 128, 128, [.none, .ended]⟩
def cmdJobStart : Cmd := ⟨0x11, false, fixedLen 16, 16, [.loaded, .stopped]⟩
def cmdJobStop : Cmd := ⟨0x12, true, fixedLen 8, 8, [.loaded, .waitArm, .running, .held, .stopped, .ended]⟩
def cmdTickSet : Cmd := ⟨0x13, false, fixedLen 8, 8, [.loaded]⟩
def cmdLookahead : Cmd :=
  ⟨0x20, false, fun k => k % 16 = 0 && 32 ≤ k && k ≤ 2048, 0, [.loaded, .waitArm, .running, .stopped]⟩
def cmdTableRegister : Cmd := ⟨0x21, false, fixedLen 32, 32, [.loaded, .waitArm, .running, .held, .stopped]⟩
def cmdQuotaSet : Cmd := ⟨0x22, false, fun k => k % 32 = 0 && 32 ≤ k && k ≤ 544, 0, [.none, .ended]⟩
def cmdFenceQuery : Cmd := ⟨0x30, false, fixedLen 0, 0, anyState⟩
def cmdResetFunction : Cmd := ⟨0x31, true, fixedLen 8, 8, anyState⟩
def cmdSnapshotNow : Cmd := ⟨0x40, true, fixedLen 8, 8, [.running]⟩
def cmdRestore : Cmd := ⟨0x41, true, fixedLen 16, 16, [.loaded, .held, .stopped]⟩
def cmdCheckpoint : Cmd := ⟨0x42, true, fixedLen 8, 8, [.running, .stopped]⟩
def cmdTelemetryRead : Cmd := ⟨0x50, false, fixedLen 32, 32, anyState⟩
def cmdFwStage : Cmd := ⟨0x60, true, fixedLen 24, 24, anyState⟩
def cmdFwActivate : Cmd := ⟨0x61, false, fixedLen 8, 8, anyState⟩
def cmdCmdlistSubmit : Cmd :=
  ⟨0x70, false, fun k => k % 32 = 0 && 32 ≤ k && k ≤ 2048, 0, [.loaded, .waitArm, .running]⟩

/-- The codes of firmware 1.x. -/
def knownCommands : List Nat :=
  [0x01, 0x10, 0x11, 0x12, 0x13, 0x20, 0x21, 0x22, 0x30, 0x31, 0x40, 0x41, 0x42, 0x50, 0x60, 0x61, 0x70]

/-- R466: an immediate command waits for the host-memory transfer of the one before it. -/
def State.immediateBusy (s : State) : Bool := s.host.xfers.any (fun x => !x.long)

/-- R466, R467: Heartwood executes the oldest accepted command, if it is this one: `BUSY`, `BAD_LEN` and `BAD_STATE` come
first. A long command becomes the one that runs (DEDUCED, log 55). -/
def State.command (s : State) (mb : Nat) (c : Cmd) (run : Accepted → State → State) : State :=
  match s.host.accepted with
  | [] => s
  | a :: rest =>
    if a.mb ≠ mb || a.cmd ≠ c.code || s.fenced 0x72 || s.immediateBusy then s
    else
      let s := s.setHost { s.host with accepted := rest }
      if c.long && s.host.long.isSome then s.complete a sBusy ((s.host.long.map (·.req.cmd)).getD 0) []
      else if !c.lenOk a.len then s.complete a sBadLen c.lenWant []
      else if !c.states.contains s.job.state then s.complete a sBadState s.job.state.code []
      else run a (if c.long then s.setLong { req := a } else s)

/-- R463: a host write of `MBOX_POST`: bits that are 1 already stay; fence of the host link stops the write (R475) (DESIGN CHOICE, log 107). -/
def execMboxPost (bits : BitVec 32) (s : State) : Result :=
  done (if s.fenced 0x73 then s else s.setHost { s.host with post := s.host.post ||| bits })

/-- R464: one posted mailbox is accepted. -/
def State.acceptOne (s : State) (mb : Nat) : State :=
  let a := s.requestOf mb
  let s := s.addTrace 2 1 (leBytes 1 mb ++ leBytes 2 a.cmd ++ leBytes 4 a.seq)
  if a.seq = leNat (s.mbBytes mb 16 4) then s.complete a sSeqStale 0 []
  else if !knownCommands.contains a.cmd then s.complete a sBadCmd 0 []
  else if a.len > 2048 then s.complete a sBadLen 0 []
  else s.setHost { s.host with accepted := s.host.accepted ++ [a] }

/-- Whether a mailbox's command is accepted and not complete. -/
def State.inProgress (s : State) (mb : Nat) : Bool :=
  s.host.accepted.any (fun a => a.mb = mb) || s.host.long.any (fun l => l.req.mb = mb) || s.host.xfers.any (fun x => x.req.mb = mb)

/-- R464: a scan: posted mailboxes that are not in progress are accepted in ascending number. -/
def execMailboxAccept (s : State) : Result :=
  done (if s.fenced 0x72 then s
    else ((maskBits 32 s.host.post.toNat).filter (fun mb => !s.inProgress mb)).foldl State.acceptOne s)

/-! ### Host memory (R469) -/

/-- A host-memory read for a request. -/
def State.readHost (s : State) (a : Accepted) (long : Bool) (addr len : Nat) : State :=
  if !s.host.pcie.busMaster then s.complete a sHostXferFail addr []
  else (s.setHost { s.host with xfers := s.host.xfers ++ [⟨a, long, addr, len, false, s.cc⟩] }).send (.hostRead addr len)

/-- A host-memory write for a request. -/
def State.writeHost (s : State) (a : Accepted) (addr : Nat) (bs : List Byte) : State :=
  if !s.host.pcie.busMaster then s.complete a sHostXferFail addr []
  else (s.setHost { s.host with xfers := s.host.xfers ++ [⟨a, false, addr, bs.length, true, s.cc⟩] }).send (.hostWrite addr bs)

/-- R469: the oldest transfer has no completion after 50 ms. -/
def execHostXferTimeout (s : State) : Result :=
  done (match s.host.xfers with
    | [] => s
    | x :: _ => (s.reach (x.since + 60000000)).complete x.req sHostXferFail x.addr [])

end Sys2Proof.Machine
end

