-- ==== Sys2Proof/Machine/Fences.lean ====
section
/-! DEFINITION. Containment (R474 to R496): what a fence stops, `FRESET` commands and their queue, and what each function's
reset leaves (R36, R487). -/

namespace Sys2Proof.Machine

/-! ### Fences -/

/-- R595: code of a requester. -/
def requesterCode : Requester → Nat
  | .ranger => 0
  | .host => 1
  | .heartwood => 2
  | .fabMgr => 3
  | .bmc => 4

/-- R475: what a fence does to the function, beside the refusals that every access meets: both pipelines of a Sillage stop, and
outputs already written stay (R218); a port or a router's ports go down,
the partition of a fenced region 3 is invalidated (R311), a stack enters self-refresh, and a generation or checkpoint in
progress is abandoned (R525, R354). -/
def State.gate (s : State) (f : Nat) : State :=
  if f < 0x40 then s
  else if f < 0x50 then if f % 4 = 3 then s.loseLines ((f - 0x40) / 4) else s
  else if f < 0x54 then s.dropSillageOps (f - 0x50)
  else if f < 0x5C then s.setStack (f - 0x54) { s.stack (f - 0x54) with selfRefresh := true }
  else if f < 0x64 then
    let homes := s.homesThrough (f - 0x5C)
    homes.foldl (fun (s : State) h => s.loseHome h) (s.linkDown (f - 0x5C) 0)
  else if f < 0x68 then s
  else if f = 0x68 then s.abandonCheckpoint
  else if f = 0x69 then
    let s := if s.seed.copying.isSome then s.endCut 4 else s
    if (s.longIs 0x41).isSome && s.seed.pulling.isSome then
      ((s.setSeed { s.seed with pulling := none }).setJobState s.job.before).finishLong sAborted 0 []
    else if s.seed.pulling.isSome then s.abandonCheckpoint
    else s
  else if 0x6E ≤ f && f < 0x72 then (portsOf (f - 0x6E)).foldl (fun (s : State) p => s.linkDown p 0) s
  else s

/-- R479: the fence of a function: its bit, its gate, the hold of a job that uses it, the record and the vector. A function
that is fenced already only gets the record (R496). -/
def State.fenceFunc (s : State) (f : Nat) (r : FaultRec) : State :=
  if s.fenced f then s.record r
  else
    let s := s.setFence { s.fence with fenced := s.fence.fenced ||| BitVec.twoPow 116 f }
    let s := s.gate f
    let r := { r with func := f, action := r.action ||| 2 }
    (if s.fence.used.getLsbD f then s.hold r else s.record r).raise 34

/-- The bit of a function is cleared; a stack leaves self-refresh, and ports may train again. -/
def State.clearFence (s : State) (f : Nat) : State :=
  let s := s.setFence { s.fence with fenced := s.fence.fenced &&& ~~~ BitVec.twoPow 116 f }
  if 0x54 ≤ f && f < 0x5C then s.setStack (f - 0x54) { s.stack (f - 0x54) with selfRefresh := false }
  else (List.range 8).foldl (fun (s : State) p =>
    if s.fab.up.getLsbD p then s else s.setPort p { s.port p with state := s.downState p }) s

/-! ### Contents after a reset -/

/-- R36: a cluster's reset: near SRAM undefined, ACC +0.0; fuse records are loaded again (R121). -/
def State.resetCluster (s : State) (n : Nat) : State :=
  (s.setCluster n { fuse := (s.cluster n).fuse }).undefine (nearBase n) nearSize

/-- R36: a region's reset: its clusters and its slice; the cache partition keeps no line (R311). -/
def State.resetRegion (s : State) (r : Nat) : State :=
  let s := ([0, 1, 2, 3] : List Nat).foldl (fun (s : State) j => s.resetCluster (4 * r + j)) s
  let s := if r % 4 = 3 then s.loseLines (r / 4) else s
  s.undefine (sliceBase r) sliceSize

/-- R36, R191, R232: a Sillage reset: context memory cleared, free lists rebuilt. -/
def State.resetSillage (s : State) (d : Nat) : State :=
  (s.setSillage d { order := (s.sillage d).order, lastEnd := s.cc }).buildPools d

/-- Account, logical page and channel of a TIERED Canopy page (R343). -/
def State.pageHome (s : State) (page : Nat) : Option (Nat × Nat × Nat) :=
  match s.segmentAt (page * pageSize) with
  | none => none
  | some g =>
    if g.cls ≠ 2 then none
    else
      let p := (g.voff + (page * pageSize - g.base)) / pageSize
      some (g.account, p, (p + g.account) % 16)

/-- Puts the frame of a page back among its account's free frames. -/
def State.freeFrame (s : State) (account frame : Nat) : State :=
  { s with und := { s.und with freeFrames := Tab.put account (frame :: Tab.get [] account s.und.freeFrames) s.und.freeFrames } }

/-- R325, R343: the state of a page that is not resident, by its map entry: a page that was never written, or is lost, stays so until it
is written (DEDUCED, log 94). -/
def State.awayState (s : State) (page : Nat) : PageState :=
  match s.pageHome page with
  | none => .home
  | some (a, p, _) =>
    if s.und.lost.contains (logicalKey a p) then .lost
    else if (Tab.find (logicalKey a p) s.und.map).isSome then .home
    else .unwritten

/-- A page gives its frame up (R326). -/
def State.leaveFrame (s : State) (page : Nat) : State :=
  s.setPage page { s.page page with
    state := s.awayState page, frame := none, fill := false, rewritten := false, image := [], victim := false, fresh := none }

def cStageFail : Nat := ctrKey 10 0 2

/-- R342, R487: the reads in progress on a set of channels end as failed reads without a page, and count; stagings of zeros read no flash
and end with the controller alone. Write-backs leave their pages dirty. -/
def State.dropTransfers (s : State) (channel : Nat → Bool) (zeros : Bool) : State :=
  s.und.pages.foldl (fun (s : State) p =>
    match s.pageHome p.1 with
    | none => s
    | some (a, _, c) =>
      if !channel c then s
      else match p.2.state, p.2.frame with
        | .staging, some f =>
          if p.2.fill then (if zeros then (s.leaveFrame p.1).freeFrame a f else s)
          else ((s.leaveFrame p.1).freeFrame a f).count cStageFail 1
        | .writeback, _ => s.setPage p.1 { p.2 with state := .dirty, rewritten := false, image := [], victim := false }
        | _, _ => s) s

/-- R487: a die router's reset. -/
def State.resetRouter (s : State) (d : Nat) : State :=
  let r := s.router d
  let nodes := s.coll.nodes.filter (fun n => n.die ≠ d)
  let s := s.setRouter d { fences := r.fences, opNo := r.opNo, openFence := r.openFence }
  { s with coll := { s.coll with nodes := nodes } }

/-- R366, R485 step 4, R487: a port's link trains again and is up, its delay measured again, unless something holds it down
(DESIGN CHOICE, log 61). -/
def State.retrain (s : State) (p : Nat) : State :=
  if s.portHeld p then s
  else (s.setPort p { s.port p with delay := Config.resetDelay s.free p }).spend.linkUp p

/-- R485 step 4, R558: whether a function that passes its own check may run again: Heartwood's image is checked at each of its resets. -/
def State.passesCheck (s : State) (f : Nat) : Bool := f ≠ 0x72 || s.sec.slotGood 2 (s.sec.boot 2).running

/-- R36, R487: what the reset of a function does to it. -/
def State.resetContents (s : State) (f : Nat) : State :=
  if f < 0x40 then s.resetCluster f
  else if f < 0x50 then s.resetRegion (f - 0x40)
  else if f < 0x54 then s.resetSillage (f - 0x50)
  else if f < 0x64 then s
  else if f < 0x68 then
    let d := f - 0x64
    let s := (s.dropTransfers (fun c => c / 4 = d) false).abandonCheckpoint
    ([0, 1, 2, 3] : List Nat).foldl (fun (s : State) i =>
      s.setChannel (4 * d + i) { s.channel (4 * d + i) with lastTrain := s.cc, busyUntil := s.cc }) s
  else if f = 0x68 then (s.dropTransfers (fun _ => true) true).abandonCheckpoint
  else if f < 0x6E then s
  else if f < 0x72 then s.resetRouter (f - 0x6E)
  else if f = 0x72 then
    let s := s.abortPosted
    s.setHost { s.host with hwdVersion := BitVec.ofNat 16 (fwVersion (s.sec.image 2 (s.sec.boot 2).running)) }
  else
    let s := s.host.xfers.foldl (fun (s : State) x => s.complete x.req sHostXferFail x.addr []) s
    s.setHost { s.host with access := Tab.drop (requesterCode .host) s.host.access }

/-- R486: the longest time of a function's reset, in µs. -/
def resetBound (f : Nat) : Nat :=
  if f < 0x40 then 50
  else if f < 0x50 then 200
  else if f < 0x54 then 150
  else if f < 0x5C then 30000
  else if f < 0x64 then 80000
  else if f < 0x68 then 250000
  else if f = 0x68 then 2000000
  else if f = 0x69 then 1000
  else if f < 0x6E then 5000
  else if f < 0x72 then 80000
  else if f = 0x72 then 400000
  else 100000

/-! ### `FRESET` (R483, R484) -/

/-- R484: a command completes: counts, `LAST` fields and vector 34; a waiting `RESET_FUNCTION` completes with it. -/
def State.freseted (s : State) (c : FresetCmd) (result us : Nat) : State :=
  let s := (s.setFence { s.fence with
    completed := s.fence.completed + 1
    lastFunc := BitVec.ofNat 8 c.func, lastAction := BitVec.ofNat 2 c.action, lastResult := BitVec.ofNat 3 result
    lastTime := BitVec.ofNat 16 (min 65535 (ceilDiv us 100)) }).raise 34
  match s.longIs 0x31 with
  | some l =>
    if c.req = .heartwood && field l.req.request 0 1 = c.func && field l.req.request 1 1 = c.action then
      s.finishLong sOk 0 (leBytes 8 us)
    else s
  | none => s

/-- R485 step 1: the reset at the head of the queue begins: a function whose bit is clear is fenced; the lines of a stack are
written back first (R310) (DEDUCED, log 41). -/
def State.beginReset (s : State) (c : FresetCmd) : State :=
  let s := if 0x54 ≤ c.func && c.func < 0x5C && !s.fenced (0x40 + 4 * ((c.func - 0x54) / 2) + 3) then
      s.writeBackLines ((c.func - 0x54) / 2) (fun l => l.line * 256 / stackSpan = c.func - 0x54)
    else s
  let r : FaultRec := { kind := 12, check := 0, owner := c.owner, detail := leBytes 1 (requesterCode c.req) }
  if s.fenced c.func then s else s.fenceFunc c.func r

/-- R479, R484: the fence and unfence commands, which take effect at once. -/
def State.runFence (s : State) (c : FresetCmd) : State :=
  let r : FaultRec := { kind := 12, func := c.func, check := c.action, owner := c.owner, detail := leBytes 1 (requesterCode c.req) }
  let s := if c.action = 1 then s.fenceFunc c.func r
    else
      let was := s.fenced c.func
      let s := (s.clearFence c.func).record r
      if c.func = 0x72 && was then
        (s.host.accepted ++ (s.host.long.map (·.req)).toList).foldl (fun (s : State) a => s.complete a sAborted 0 []) s
      else s
  s.freseted c 0 2

/-- R484: Ranger takes commands from its queue in order: fences and unfences are done at once, a reset begins and stays. The
fuel is the queue's length (DEDUCED, log 65). -/
def State.runQueue : Nat → State → State
  | 0, s => s
  | n + 1, s =>
    match s.fence.queue with
    | [] => s
    | c :: rest =>
      if c.action = 0 then
        if c.startNs ≠ 0 then s
        else
          let s := s.setFence { s.fence with
            queue := { c with wasClear := !s.fenced c.func, startNs := s.time + 1 } :: rest }
          s.beginReset c
      else State.runQueue n ((s.setFence { s.fence with queue := rest }).runFence c)

/-- R484: a write of `FRESET_CMD` (DEDUCED, log 65). With die 0 Ranger and its queue are lost (R39). -/
def State.freset (s : State) (func action : Nat) (req : Requester) (owner : Nat) : State :=
  let c : FresetCmd := { func := func, action := action, req := req, owner := owner }
  if s.power.transit then s else
  let s := (s.setFence { s.fence with accepted := s.fence.accepted + 1 }).addTrace 6 0
    (leBytes 1 func ++ leBytes 1 action ++ leBytes 1 (requesterCode req))
  if func ≥ 0x74 || action > 2 then s.freseted c 1 0
  else if func = 0x73 && ((action ≠ 0 && req = .host) || req = .heartwood) then s.freseted c 4 0
  else if s.fence.queue.length ≥ 16 then s.freseted c 2 0
  else
    let s := s.setFence { s.fence with queue := s.fence.queue ++ [c] }
    State.runQueue s.fence.queue.length s

/-- R485: the reset at the head of the queue ends: contents, check, bit, record and completion; a reset of a cluster that came
while its region was being reset completes with it (R38) (DEDUCED, log 65). -/
def State.resetDone (s : State) (ok : Bool) (us : Nat) : State :=
  match s.fence.queue with
  | [] => s
  | c :: rest =>
    if c.action ≠ 0 || c.startNs = 0 || s.power.transit then s
    else
      let t := max 1 (min us (resetBound c.func))
      let s := s.reach (s.cc + t * 1200)
      let s := s.resetContents c.func
      let ok := ok && s.passesCheck c.func
      let result := if ok then 0 else 3
      let s := if ok && c.wasClear then s.clearFence c.func else s
      let s := if ok && 0x5C ≤ c.func && c.func < 0x64 then s.retrain (c.func - 0x5C)
        else if ok && 0x6E ≤ c.func && c.func < 0x72 then (portsOf (c.func - 0x6E)).foldl State.retrain s else s
      let s := s.record { kind := 13, func := c.func, check := result, owner := c.owner, action := 8
                          detail := leBytes 1 (requesterCode c.req) ++ leBytes 4 t }
      let s := if c.func = 0x72 then s.raise 36 else s
      let same := fun (e : FresetCmd) => 0x40 ≤ c.func && c.func < 0x50 && e.action = 0 && e.func < 0x40 && e.func / 4 = c.func - 0x40
      let s := s.setFence { s.fence with queue := rest.filter (fun e => !same e) }
      let s := s.freseted c result t
      let s := (rest.filter same).foldl (fun (s : State) e => s.freseted e result t) s
      State.runQueue s.fence.queue.length s

def execFresetReset (func : BitVec 8) (req : Requester) (s : State) : Result := done (s.freset func.toNat 0 req 0)
def execFresetFence (func : BitVec 8) (req : Requester) (s : State) : Result := done (s.freset func.toNat 1 req 0)
def execFresetUnfence (func : BitVec 8) (req : Requester) (s : State) : Result := done (s.freset func.toNat 2 req 0)
def execFunctionResetDone (ok : Bool) (us : Nat) (s : State) : Result := done (s.resetDone ok us)

/-! ### The commands `FENCE_QUERY` and `RESET_FUNCTION` -/

/-- R467: the result of `FENCE_QUERY`. -/
def State.fenceQuery (s : State) : List Byte :=
  let recs := (s.fence.ring.take 30).flatMap FaultRec.bytes
  leBytes 16 s.fence.fenced.toNat ++ leBytes 1 s.job.state.code ++ leBytes 7 0 ++ leBytes 8 (s.job.committed.getD 0) ++
    leBytes 8 s.fence.ring.length ++ recs

def execFenceQuery (mb : Fin 32) (s : State) : Result :=
  done (s.command mb cmdFenceQuery (fun a s => s.complete a sOk 0 s.fenceQuery))

/-- R467: `RESET_FUNCTION` is a `FRESET_CMD` write by Heartwood; it completes when that does (DEDUCED, log 65). -/
def State.resetFunction (a : Accepted) (s : State) : State :=
  let func := field a.request 0 1
  let action := field a.request 1 1
  if func ≥ 0x74 then s.complete a sBadField 0 []
  else if action > 2 then s.complete a sBadField 1 []
  else if field a.request 2 6 ≠ 0 then s.complete a sBadField 2 []
  else if func = 0x72 || func = 0x73 then s.complete a sNotPermitted 0 []
  else s.freset func action .heartwood a.owner

def execResetFunction (mb : Fin 32) (s : State) : Result := done (s.command mb cmdResetFunction State.resetFunction)

/-- R466: Heartwood has not served its watchdog for 100 ms: Ranger resets it and raises vector 36. With die 0 both are lost (R39). -/
def execHeartwoodWatchdog (s : State) : Result :=
  done (if s.power.transit then s else ((s.record { kind := 11, func := 0x72 }).raise 36).freset 0x72 0 .ranger 0)

end Sys2Proof.Machine
end

