-- ==== Sys2Proof/Machine/Copy.lean ====
section
/-! DEFINITION. The memory/copy slot (R296 to R301): `MCOPY`, `MFILL`, `MCACHE` and `MWAIT`, the copy queues and the ends
of their operations. -/

namespace Sys2Proof.Machine

/-- A copy descriptor (R299); addresses are local. -/
structure CopyDesc where
  src : Nat
  dst : Nat
  len : Nat
  rows : Nat
  srcHint : Nat
  dstHint : Nat
  kind : Nat
  spitch : Nat
  dpitch : Nat
  pattern : List Byte
  deriving DecidableEq, Repr

/-- R299, R300: the descriptor's fields, if in range for the opcode. -/
def State.copyFields (s : State) (op : Nat) (b : List Byte) : Option CopyDesc :=
  match s.ownAddr (field b 0 8), s.ownAddr (field b 8 8) with
  | some src, some dst =>
    let d : CopyDesc := { src := src, dst := dst, len := field b 16 4, rows := field b 20 2, srcHint := bitsOf (field b 22 1) 0 2
                          dstHint := bitsOf (field b 22 1) 2 2, kind := field b 23 1, spitch := field b 24 4
                          dpitch := field b 28 4, pattern := byteField b 32 32 }
    if src % 32 ≠ 0 || dst % 32 ≠ 0 || d.len = 0 || d.len % 32 ≠ 0 || d.rows = 0 || field b 22 1 ≥ 16 ||
        (op ≠ 3 && d.kind ≠ 0) || d.kind > 2 || d.spitch % 32 ≠ 0 || d.dpitch % 32 ≠ 0 ||
        (op ≠ 2 && field b 32 32 ≠ 0) then none
    else some d
  | _, _ => none

/-- The ranges that an operation reads and writes. -/
def CopyDesc.reads (c : CopyDesc) (op : Nat) : List (Nat × Nat) :=
  if op = 2 then [] else (rowStarts c.src c.spitch c.rows).map (·, c.len)
def CopyDesc.writes (c : CopyDesc) (op : Nat) : List (Nat × Nat) :=
  if op = 3 then [] else (rowStarts c.dst c.dpitch c.rows).map (·, c.len)

def State.copyQueue (s : State) (d q : Nat) : List CopyOp := Tab.get [] (queueKey d q) s.copies
def State.setCopyQueue (s : State) (d q : Nat) (l : List CopyOp) : State :=
  { s with copies := if l.isEmpty then Tab.drop (queueKey d q) s.copies else Tab.put (queueKey d q) l s.copies }

/-- The operations on the copy queues of a die. -/
def State.copyOps (s : State) (d : Nat) : List CopyOp := (s.copies.filter (fun p => p.1 / 16 = d)).flatMap (·.2)

/-- R301: the lowest rate on an operation's path. -/
def State.copyRate (s : State) (d op : Nat) (c : CopyDesc) : Nat :=
  min 1024 (if op = 1 then min (s.pathRate d c.src) (s.pathRate d c.dst) else s.pathRate d c.dst)

/-- The lines of HBM that ranges of local addresses touch, each once. -/
def State.hbmLines (s : State) (ranges : List (Nat × Nat)) : List Nat :=
  (ranges.flatMap (fun r => (pieces r.1 r.2).flatMap (fun p => match s.place p.1 with
    | .hbm h => (lineSpans (p.2 / 256 + 2) h p.2).map (·.1)
    | _ => []))).eraseDups

/-- A line of the partition, if it is valid there. -/
def State.lineOf (s : State) (line : Nat) : Option PartLine :=
  (Tab.get [] (s.partKey line) s.parts).find? (fun l => l.line = line)

/-- R309, R311, R339: whether a line that is absent can be filled. -/
def State.fillsLine (s : State) (line : Nat) : Bool := s.partServes (line * 256) && !s.cacheQuotaFull line

/-- R309: what `MCACHE` does to one line (DEDUCED, log 85). -/
def State.maintainLine (s : State) (kind hint line : Nat) : State :=
  let d := line * 256 / stackSpan / 2
  match kind, s.lineOf line with
  | 0, some _ => s.writeBackLines d (fun l => l.line = line)
  | 1, some _ => (s.writeBackLines d (fun l => l.line = line)).dropLines d (fun l => l.line = line)
  | 2, some l =>
    let key := s.partKey line
    s.setLines key ((Tab.get [] key s.parts).map (fun m =>
      if m.line = line then { l with keep := if hint = 2 then true else l.keep } else m))
  | 2, none =>
    if !s.fillsLine line then s
    else s.fillLine d (s.partKey line) (Tab.get [] (s.partKey line) s.parts) ⟨line, false, hint == 2, []⟩
  | _, _ => s

/-- R301, R308: lines that `MCACHE` moves for one line of its range: a dirty one that it writes back, or an absent one that it fills,
with the dirty victim of the fill. -/
def State.linesMoved (s : State) (kind line : Nat) : Nat :=
  match s.lineOf line with
  | some p => if kind ≠ 2 && p.dirty then 1 else 0
  | none =>
    if kind ≠ 2 || !s.fillsLine line then 0
    else match (evictLine (⟨line, false, false, []⟩ :: Tab.get [] (s.partKey line) s.parts)).2 with
      | some v => if v.dirty then 2 else 1
      | none => 1

/-- R301: bytes that an `MCACHE` writes back or fills, line after line (DEDUCED, log 85). -/
def State.cacheBytes (s : State) (c : CopyDesc) : Nat :=
  256 * ((s.hbmLines (c.reads 3)).foldl (fun (p : State × Nat) l =>
    (p.1.maintainLine c.kind c.srcHint l, p.2 + p.1.linesMoved c.kind l)) (s, 0)).2

/-- The duration of an operation (R301); an `MCACHE` never lasts longer than its budget (DEDUCED, log 85). -/
def State.copyTime (s : State) (d op : Nat) (c : CopyDesc) : Nat :=
  if op = 3 then
    64 + min (ceilDiv (c.rows * c.len) 2458) (max (ceilDiv (c.rows * c.len) 8192) (ceilDiv (s.cacheBytes c) 2458))
  else 64 + ceilDiv (c.rows * c.len) (s.copyRate d op c)

/-- R297: the writes of an operation, with what its reads do to the partition. -/
def State.copyEffs (s : State) (op : Nat) (c : CopyDesc) : List Eff :=
  if op = 1 then
    (c.reads 1).map (fun r => .touch r.1 r.2 c.srcHint) ++
      ((c.reads 1).zip (c.writes 1)).map (fun p => .mem p.2.1 c.dstHint (s.readLocal p.1.1 p.1.2))
  else if op = 2 then
    (c.writes 2).map (fun r => .mem r.1 c.dstHint ((List.range (r.2 / 32)).flatMap (fun _ => c.pattern)))
  else []

/-- R298: the operation at the head of a queue starts. -/
def State.startCopy (s : State) (d q : Nat) : State :=
  match s.copyQueue d q with
  | [] => s
  | o :: rest =>
    if o.started then s
    else match s.copyFields o.op o.desc with
    | none => s
    | some c =>
      let ranges := c.reads o.op ++ c.writes o.op
      let s := ((s.count cStageMiss (s.missedPages (c.reads o.op)).length).count cStageMissW (s.missedPages (c.writes o.op)).length).wakeRanges ranges
      s.setCopyQueue d q ({ o with started := true, due := s.cc + s.wakeWait ranges + s.copyTime d o.op c, effects := s.copyEffs o.op c } :: rest)

/-- R298, R300: the operation at the head of a queue ends: its writes are visible, and the next starts. Of two queues that write a unit
in one cycle, the write of the higher-numbered one remains. -/
def State.endCopy (s : State) (d q : Nat) : State :=
  match s.copyQueue d q with
  | [] => s
  | o :: rest =>
    if !o.started then s
    else
      let s := (s.reach o.due).landRanked 2 q o.effects
      let s := match o.op, s.copyFields 3 o.desc with
        | 3, some c => (s.hbmLines (c.reads 3)).foldl (fun (t : State) l => t.maintainLine c.kind c.srcHint l) s
        | _, _ => s
      let s := s.setCopyQueue d q rest
      let s := if (s.copyOps d).isEmpty then s.count (cCopyBusy d) (s.cc - o.since) else s
      s.startCopy d q

/-- R296, R299: what reading a memory/copy slot finds (DEDUCED, log 86). -/
def State.planCopy (s : State) (d op : Nat) (arg : BitVec 56) : SlotPlan :=
  if slotField arg 48 4 ≠ 0 || slotField arg 32 16 ≠ 0 then .bad
  else match s.dieDescriptor d (slotField arg 0 32) with
    | .error e => e
    | .ok b =>
      match s.copyFields op b with
      | none => .bad
      | some c =>
        match s.rangesFault d (c.reads op ++ c.writes op) with
        | some f => .refuse f.1 f.2
        | none => if (s.copyQueue d (slotField arg 52 4)).length ≥ 8 then .wait 2 else .ok

/-- An accepted operation joins its queue. -/
def State.joinCopy (s : State) (d op : Nat) (arg : BitVec 56) : State :=
  let q := slotField arg 52 4
  match s.dieDescriptor d (slotField arg 0 32) with
  | .error _ => s
  | .ok b =>
    let since := ((s.copyOps d).head?.map (·.since)).getD s.cc
    (s.setCopyQueue d q (s.copyQueue d q ++ [{ op := op, desc := b, since := since }])).startCopy d q

/-- R297, R298: `MWAIT`: whether every operation on the masked queues has ended. -/
def State.planMwait (s : State) (d : Nat) (arg : BitVec 56) : SlotPlan :=
  if slotField arg 48 8 ≠ 0 || slotField arg 0 32 ≠ 0 then .bad
  else if (maskBits 16 (slotField arg 32 16)).all (fun q => (s.copyQueue d q).isEmpty) then .ok
  else .wait 2

/-- A copy operation as the only slot of a bundle. -/
def State.copyAlone (s : State) (d op : Nat) (arg : BitVec 56) : State :=
  s.slotAlone d op [] (·.planCopy d op arg) (·.joinCopy d op arg)

def execMcopy (d : Fin 4) (arg : BitVec 56) (s : State) : Result := done (s.copyAlone d 1 arg)
def execMfill (d : Fin 4) (arg : BitVec 56) (s : State) : Result := done (s.copyAlone d 2 arg)
def execMcache (d : Fin 4) (arg : BitVec 56) (s : State) : Result := done (s.copyAlone d 3 arg)
def execMwait (d : Fin 4) (arg : BitVec 56) (s : State) : Result := done (s.slotAlone d 4 [] (·.planMwait d arg) id)
def execCopyOperationEnd (d : Fin 4) (q : Fin 16) (s : State) : Result := done (s.endCopy d q)

end Sys2Proof.Machine
end

