-- ==== Sys2Proof/Machine/Flash.lean ====
section
/-! DEFINITION. What the translation layer does by itself (R342 to R349): relocation, wear, the map copy, retraining and reclaiming, and the
rows that act on them. -/

namespace Sys2Proof.Machine

/-- R346, R347: the valid pages of a block are programmed elsewhere; the block is then erased, or retired. Pages for which no block has
room stay where they are, and the block with them. -/
def State.relocate (s : State) (c b : Nat) (retire : Bool) : State :=
  let v := (s.channel c).block c b
  let ch := s.channel c
  let s := s.setChannel c (ch.setBlock b { v with programmed := ch.pagesPerBlock, bad := v.bad || retire })
  let s := v.valid.foldl (fun (s : State) p => (s.programPage p.2 (Tab.get [] p.2 s.und.content)).getD s) s
  let left := ((s.channel c).block c b).valid.length
  let s := s.count (cUndReloc c) (v.valid.length - left)
  (if retire || left ≠ 0 then s else s.eraseFlash c b).checkReadOnly

/-- R346: one more read of the block that holds a logical page; at 60,000 the block is relocated. -/
def State.readFlash (s : State) (key : Nat) : State :=
  let c := keyChannel key
  let ch := s.channel c
  match Tab.find key s.und.map with
  | none => s
  | some e =>
    let b := (ch.placeOf e).1
    let v := ch.block c b
    let s := s.setChannel c (ch.setBlock b { v with reads := v.reads + 1 })
    if v.reads + 1 ≥ 60000 then s.relocate c b false else s

/-- R347: a read of a logical page fails for good: the page is `LOST`, and its block is relocated and retired. -/
def State.loseFlash (s : State) (key : Nat) : State :=
  let c := keyChannel key
  let loc := Tab.find key s.und.map
  let s := s.unmapPage key
  let s := ((s.setUnd { s.und with
    lost := key :: s.und.lost.filter (· ≠ key), content := Tab.drop key s.und.content }).journalMap key).count (cUndLost c) 1
  match loc with
  | none => s
  | some e => s.relocate c ((s.channel c).placeOf e).1 true

/-- Whether a channel can work: present, and neither its group nor the controller is fenced (R475). -/
def State.channelWorks (s : State) (c : Nat) : Bool := (s.channel c).present && !s.fenced (0x64 + c / 4) && !s.fenced 0x68

/-! ### The rows of the translation layer -/

/-- R349: the map is copied to flash, and older journal records are released. -/
def execMapCopy (s : State) : Result :=
  done (if s.fenced 0x68 then s
    else
      let s := if s.und.journal ≥ 2 ^ 20 then s else s.reach (s.und.lastCopy + 60 * 1200000000)
      s.setUnd { s.und with
        journal := 0, journalLog := [], lastCopy := s.cc
        mapCopy := s.und.lost.foldl (fun (m : Tab Nat) k => Tab.put k lostEntry m) s.und.map })

/-- R342: a channel retrains every 100 ms. -/
def execChannelRetrain (c : Fin 16) (s : State) : Result :=
  done (if !s.channelWorks c then s
    else
      let s := s.reach ((s.channel c).lastTrain + 120000000)
      s.setChannel c { s.channel c with lastTrain := s.cc })

/-- R345: when the erase counts of a channel's blocks differ by more than 256, the least-erased full block is emptied. -/
def State.wearLevel (s : State) (c : Nat) : State :=
  let ch := s.channel c
  let good := ch.blocksWhere c (fun b => !b.bad)
  let erases := good.map (fun b => (ch.block c b).erases)
  let full := good.filter (fun b => (ch.block c b).programmed = ch.pagesPerBlock && ch.pagesPerBlock ≠ 0)
  match erases.min?, erases.max?, (full.map (fun b => (ch.block c b).erases)).min? with
  | some lo, some hi, some least =>
    if hi - lo ≤ 256 then s
    else match full.find? (fun b => (ch.block c b).erases = least) with
      | some b => s.relocate c b false
      | none => s
  | _, _, _ => s

def execWearLevelMove (c : Fin 16) (s : State) : Result := done (if s.channelWorks c then s.wearLevel c else s)

/-- R348: blocks without a valid page are erased, and the block with the fewest valid pages is relocated. -/
def State.reclaim (s : State) (c : Nat) : State :=
  let ch := s.channel c
  let empty := ch.blocksWhere c (fun b => !b.bad && b.programmed = ch.pagesPerBlock && ch.pagesPerBlock ≠ 0 && b.valid.isEmpty)
  let s := empty.foldl (fun (s : State) b => s.eraseFlash c b) s
  let ch := s.channel c
  let full := ch.blocksWhere c (fun b => !b.bad && b.programmed = ch.pagesPerBlock && ch.pagesPerBlock ≠ 0)
  let s := match (full.map (fun b => (ch.block c b).valid.length)).min? with
    | none => s
    | some n =>
      match full.find? (fun b => (ch.block c b).valid.length = n) with
      | some b => if n < ch.pagesPerBlock then s.relocate c b false else s
      | none => s
  s.checkWritable

end Sys2Proof.Machine
end

