-- ==== Sys2Proof/Machine/Tier.lean ====
section
/-! DEFINITION. TIERED pages (R325 to R337): look-ahead, staging, eviction and write-back; the commands and rows of the tier
manager; accounts and quotas (R338, R339). -/

namespace Sys2Proof.Machine

def cLaNoframe : Nat := ctrKey 10 0 3
/-- Counter of a listed page's outcome (R333): 0 accepted, 1 late, 2 stale, 3 far, 4 bad, 5 dropped. -/
def cLa (k : Nat) : Nat := ctrKey 10 0 (4 + k)

/-! ### Frames -/

/-- Key of a page's contents in Understory. -/
def State.pageKey (s : State) (page : Nat) : Option Nat := (s.pageHome page).map (fun h => logicalKey h.1 h.2.1)

/-- The account of a TIERED page. -/
def State.pageAccount (s : State) (page : Nat) : Nat := ((s.pageHome page).map (·.1)).getD 16

/-- Channel of a TIERED page. -/
def State.pageChannel (s : State) (page : Nat) : Nat := ((s.pageHome page).map (·.2.2)).getD 16

/-- R326: the least recently used of an account's unheld resident pages that meet a condition. -/
def State.oldest (s : State) (account : Nat) (cond : Page → Bool) : Option (Nat × Page) :=
  let l := s.und.pages.filter (fun p => p.2.state.resident && p.2.holdTo.isNone && cond p.2 && s.pageAccount p.1 = account)
  match (l.map (fun p => p.2.used)).min? with
  | none => none
  | some u => l.find? (fun p => p.2.used = u)

/-- R327, R348: a dirty page's write-back starts with the frame's contents as they are, unless Understory is read-only. -/
def State.startWriteback (s : State) (page : Nat) : State :=
  let p := s.page page
  match p.frame with
  | some f =>
    if s.und.readOnly || p.state ≠ .dirty || !s.channelWorks (s.pageChannel page) then s
    else (s.touchRead f pageSize 0).setPage page { p with state := .writeback, rewritten := false, image := getBlock zeroByte f pageSize s.hbm }
  | none => s

/-- Marks a page that is being written back as one that gives its frame up (R326). -/
def State.evict (s : State) (page : Nat) : State :=
  if (s.page page).state == .writeback then s.setPage page { s.page page with victim := true } else s

/-- R326: a frame of an account: a free one, else that of the least recently used unheld page if it is clean; a dirty one is
written back first. While Understory is read-only only clean pages are victims (R348). -/
def State.takeFrame (s : State) (account : Nat) : State × Option Nat :=
  match Tab.get [] account s.und.freeFrames with
  | f :: l => (s.setUnd { s.und with freeFrames := Tab.put account l s.und.freeFrames }, some f)
  | [] =>
    match s.oldest account (fun p => !s.und.readOnly || p.state == .clean) with
    | none => (s, none)
    | some (n, p) =>
      if p.state == .clean then (s.leaveFrame n, p.frame) else ((s.startWriteback n).evict n, none)

/-! ### Staging -/

/-- R335: order of the staging queue. -/
def StageReq.before (a b : StageReq) : Bool := a.tick < b.tick || (a.tick = b.tick && a.order ≤ b.order)

/-- Whether a channel reads a page now. -/
def State.channelReading (s : State) (c : Nat) : Bool :=
  s.und.pages.any (fun p => p.2.state == .staging && !p.2.fill && s.pageChannel p.1 = c)

/-- Whether staging a page reads no flash (R325, R331). -/
def State.stagesZeros (s : State) (page : Nat) : Bool := (s.page page).fill || (s.page page).state == .unwritten

/-- A queued page is taken for staging, if its account has a frame for it. -/
def State.beginStage (s : State) (r : StageReq) : State :=
  let (s, f) := s.takeFrame (s.pageAccount r.page)
  match f with
  | none => s
  | some k =>
    let p := s.page r.page
    let s := s.setPage r.page { p with state := .staging, frame := some k, fill := s.stagesZeros r.page }
    s.setUnd { s.und with queue := s.und.queue.filter (fun q => q.page ≠ r.page) }

/-- R335: each channel that reads no page takes the first page of its queue; pages that are staged as zeros need no channel. -/
def State.serveStaging (s : State) : State :=
  let zeros := s.und.queue.filter (fun r => s.stagesZeros r.page)
  let s := if s.fenced 0x68 then s else zeros.foldl State.beginStage s
  (List.range 16).foldl (fun (s : State) c =>
    if !s.channelWorks c || s.channelReading c then s
    else match s.und.queue.find? (fun r => !s.stagesZeros r.page && s.pageChannel r.page = c) with
      | some r => s.beginStage r
      | none => s) s

/-- R335: whether queued staging needs a channel. -/
def State.channelWanted (s : State) (c : Nat) : Bool :=
  s.und.queue.any (fun r => !s.stagesZeros r.page && s.pageChannel r.page = c)

/-- R326, R335: accounts whose free frames are below a fraction of their share write their oldest unheld dirty page back ahead of need:
below 1/64 before any staging, below 1/16 on a channel that no queued staging needs. -/
def State.writeAhead (s : State) (urgent : Bool) : State :=
  s.und.shares.foldl (fun (s : State) a =>
    if (if urgent then 64 else 16) * (Tab.get [] a.1 s.und.freeFrames).length ≥ a.2 then s
    else match s.oldest a.1 (fun p => p.state == .dirty) with
      | some (n, _) => if urgent || !s.channelWanted (s.pageChannel n) then s.startWriteback n else s
      | none => s) s

/-- The tier manager does what it can. -/
def State.serveTier (s : State) : State := ((s.writeAhead true).serveStaging).writeAhead false

/-- R334: a page is held to a target tick, or to a later one that it is held to already. -/
def holdLater (old : Option Nat) (tick : Nat) : Option Nat := some (max tick (old.getD 0))

/-- R333, R334: one listed page: the new state and its outcome (0 accepted to 5 dropped; 6 none). -/
def State.listPage (s : State) (page tick : Nat) (fill reserved : Bool) : State × Nat :=
  let now := s.tick.count.toNat
  if tick < now then (s, 2)
  else if tick > now + 65536 then (s, 3)
  else match s.segmentAt (page * pageSize) with
    | none => (s, 4)
    | some g =>
      if reserved then (s, 4)
      else if g.cls = 1 then (s, 6)
      else
        let out := if tick ≤ now + 1 then 1 else 0
        let p := s.page page
        let queued := s.und.queue.any (fun r => r.page = page)
        let held := { p with holdTo := holdLater p.holdTo tick, victim := false }
        if p.state.resident || p.state == .staging || queued then
          (s.setPage page held, out)
        else if s.und.queue.length ≥ 4194304 then (s, 5)
        else if p.state == .lost && !fill then (s.setPage page held, out)
        else
          let r : StageReq := { page := page, tick := tick, order := s.und.order }
          let s := s.setPage page { held with fill := fill }
          (s.setUnd { s.und with order := s.und.order + 1, queue := insertBy (fun a b => a.before b) r s.und.queue }, out)

/-- R331, R333: one look-ahead entry: state, and the outcomes counted so far (DEDUCED, log 94). -/
def State.listEntry (acc : State × List Nat) (e : List Byte) : State × List Nat :=
  let n := field e 6 2
  let reserved := field e 14 1 > 1 || field e 15 1 ≠ 0 || n > 4096
  let fill := field e 14 1 % 2 = 1
  (List.range n).foldl (fun (acc : State × List Nat) k =>
    let (s, out) := acc.1.listPage (field e 0 6 / pageSize + k) (field e 8 6) fill reserved
    if out < 6 then (s.count (cLa out) 1, modifyNth (· + 1) out acc.2) else (s, acc.2)) acc

/-- R467: `LOOKAHEAD_SUBMIT`. -/
def State.lookahead (a : Accepted) (s : State) : State :=
  let n := field a.request 0 2
  if n = 0 || n > 127 then s.complete a sBadField 0 []
  else if 16 + 16 * n ≠ a.len then s.complete a sBadLen (16 + 16 * n) []
  else if field a.request 2 14 ≠ 0 then s.complete a sBadField 2 []
  else
    let r := (chunks 16 (byteField a.request 16 (16 * n))).foldl State.listEntry (s, [0, 0, 0, 0, 0, 0])
    r.1.serveTier.complete a sOk 0 (byteField (r.2.flatMap (leBytes 4)) 0 32)

def execLookaheadSubmit (mb : Fin 32) (s : State) : Result := done (s.command mb cmdLookahead State.lookahead)

/-- R332: the tier manager reads one ring and takes its entries. -/
def State.pollRing (s : State) (ring : Nat) : State :=
  let h := s.readLocal ring 64
  let base := field h 0 8
  let n := max 1 (field h 8 4)
  let prod := field h 16 4
  let cons := field h 24 4
  let k := (prod + 2 ^ 32 - cons) % 2 ^ 32
  let es := (List.range k).map (fun i => s.readLocal (base + 16 * ((cons + i) % n)) 16)
  let s := s.noteReads ((ring, 64) :: (List.range k).map (fun i => (base + 16 * ((cons + i) % n), 16))) 0
  let s := (es.foldl State.listEntry (s, [0, 0, 0, 0, 0, 0])).1
  if k = 0 then s else s.writeLocal (ring + 24) 0 (leBytes 4 prod)

def execLaRingPoll (s : State) : Result :=
  done (if s.job.state = .none || s.job.state = .loading then s
    else ((s.job.laRing.take s.job.laRings).foldl State.pollRing s).serveTier)

/-! ### Ends of transfers -/

/-- R335, R337, R347: a page's staging ends: its frame is filled with zeros or with its Understory copy, or its read failed
for good. -/
def State.stageDone (s : State) (page : Nat) (r : FlashRead) : State :=
  let p := s.page page
  let c := s.pageChannel page
  match p.state, p.frame, s.pageKey page with
  | .staging, some f, some key =>
    if p.fill then
      let s := s.writeHbm f 0 (List.replicate pageSize 0)
      s.setPage page { p with state := .clean, used := s.und.order, fill := false, fresh := some s.cc }
    else
      let s := match r with
        | .good => s
        | .retried n => s.count (cUndRetry c) n
        | .failed n => s.count (cUndRetry c) n
      if (match r with
          | .failed _ => true
          | _ => !s.recordFits key) then
        let s := (s.setPage page { p with state := .lost, frame := none }).freeFrame (s.pageAccount page) f
        (s.count cStageFail 1).loseFlash key
      else
        let s := s.readFlash key
        let bytes := byteField (Tab.get [] key s.und.content) 0 pageSize
        let s := s.writeHbm f 0 bytes
        (s.setPage page { p with state := .clean, used := s.und.order, fresh := some s.cc }).count (cStaged c) 1
  | _, _, _ => s

def execStageComplete (page : Nat) (r : FlashRead) (s : State) : Result :=
  done (if !s.channelWorks (s.pageChannel page) && !(s.page page).fill then s
    else
      let s := s.stageDone page r
      (s.setUnd { s.und with order := s.und.order + 1 }).serveTier)

/-- R326, R327, R334, R349: the write-back of a page completes: flash holds what the frame held when it started. A victim becomes `HOME`
and gives its frame up, unless it is held; other pages stay resident; one that was written meanwhile is `DIRTY` (DEDUCED, log 94). -/
def State.writebackDone (s : State) (page : Nat) : State :=
  let p := s.page page
  match p.state, p.frame, s.pageKey page with
  | .writeback, some f, some key =>
    match s.programPage key p.image with
    | none => s
    | some s =>
      let s := s.count (cWrittenBack (keyChannel key)) 1
      let s :=
        if p.rewritten then s.setPage page { p with state := .dirty, rewritten := false, image := [], victim := false }
        else if p.victim && p.holdTo.isNone then (s.leaveFrame page).freeFrame (s.pageAccount page) f
        else s.setPage page { p with state := .clean, image := [], victim := false }
      s.checkReadOnly
  | _, _, _ => s

/-- R347: a program failure retires the block as grown bad, and the page is programmed again elsewhere. -/
def State.programFailed (s : State) (page : Nat) : State :=
  let c := s.pageChannel page
  match (s.page page).state, (s.channel c).writeBlock c s.free with
  | .writeback, some b => ((s.relocate c b true).count (cGrownBad c) 1).checkReadOnly
  | _, _ => s

def execWritebackComplete (page : Nat) (programmed : Bool) (s : State) : Result :=
  done (if !s.channelWorks (s.pageChannel page) then s
    else if programmed then (s.writebackDone page).serveTier else s.programFailed page)

/-- R348: the translation layer reclaims space; write-backs start again once Understory is writable. -/
def execReclaimSpace (c : Fin 16) (s : State) : Result :=
  done (if s.channelWorks c then (s.reclaim c).serveTier else s)

/-- R327, R348: a dirty page is written back at once, with what was written since an earlier write-back began, where Understory and the
page's channel let it. -/
def State.flushPage (s : State) (page : Nat) : State :=
  let s := if (s.page page).state == .writeback && s.channelWorks (s.pageChannel page) then s.writebackDone page else s
  if (s.page page).state == .dirty then (s.startWriteback page).writebackDone page else s

/-- R310, R327: every dirty page is written back at once, as at `JOB_END` and at an unload that writes back. -/
def State.flushPages (s : State) : State := s.und.pages.foldl (fun (s : State) p => s.flushPage p.1) s

/-- Whether a page is still to be written back. -/
def State.dirtyLeft (s : State) : Bool := s.und.pages.any (fun p => p.2.state == .dirty || p.2.state == .writeback)

/-! ### Edges -/

/-- R334: at the start of tick `t`, holds of earlier target ticks end, and listed pages of tick `t` that found no frame count. -/
def State.tierEdge (s : State) (t : Nat) : State :=
  let missed := s.und.queue.filter (fun r => r.tick = t && (Tab.get [] (s.pageAccount r.page) s.und.freeFrames).isEmpty &&
    (s.oldest (s.pageAccount r.page) (fun p => p.state == .clean || (!s.und.readOnly && p.state == .dirty))).isNone)
  let s := s.count cLaNoframe missed.length
  let pages := s.und.pages.map (fun (p : Nat × Page) =>
    (p.1, { p.2 with holdTo := p.2.holdTo.filter (fun h => h ≥ t) }))
  (s.setUnd { s.und with pages := pages }).serveTier

/-- R467: registrations take effect at an edge. -/
def State.tablesEdge (s : State) : State :=
  let tables := s.und.tablesNext.foldl (fun (l : Tab TableReg) p => match p.2 with
    | some r => Tab.put p.1 r l
    | none => Tab.drop p.1 l) s.und.tables
  s.setUnd { s.und with tables := tables, tablesNext := [] }

/-- R467, R329: `TABLE_REGISTER`; a bad field is named by its offset. -/
def State.tableRegister (a : Accepted) (s : State) : State :=
  let q := a.request
  let id := field q 0 2
  let rb := field q 4 2
  let dflt := field q 24 8
  let pinned := ((s.segmentAt dflt).any (fun g => g.cls = 1 && dflt + rb ≤ g.base + g.size))
  let bad (o : Nat) : State := s.complete a sBadField o []
  if id = 0 || id > 1023 then bad 0
  else if field q 2 1 > 1 then bad 2
  else if field q 3 1 ≠ 0 then bad 3
  else if field q 2 1 = 1 then
    (s.setUnd { s.und with tablesNext := Tab.put id none s.und.tablesNext }).complete a sOk 0 []
  else if rb < 32 || rb > 4096 || rb % 32 ≠ 0 then bad 4
  else if field q 6 2 ≠ 0 then bad 6
  else if (s.segmentAt (field q 8 8)).isNone then bad 8
  else if field q 20 4 ≠ 0 then bad 20
  else if !pinned then bad 24
  else
    let r : TableReg := { base := field q 8 8, rows := field q 16 4, rowBytes := rb, dflt := dflt }
    (s.setUnd { s.und with tablesNext := Tab.put id (some r) s.und.tablesNext }).complete a sOk 0 []

def execTableRegister (mb : Fin 32) (s : State) : Result := done (s.command mb cmdTableRegister State.tableRegister)

/-! ### Quotas -/

def State.quota (s : State) (a : Nat) : Quota := Tab.get {} a s.und.quotas

/-- Logical pages of a 2 MiB unit. -/
def unitPages : Nat := 128

/-- Written pages of an owner from a logical page on (R339). -/
def State.writtenFrom (s : State) (owner page : Nat) : List Nat :=
  ((s.und.map.map (·.1)) ++ s.und.lost).filter (fun k => k / 2 ^ 32 = owner && k % 2 ^ 32 ≥ page)

/-- R338: offset of the first bad field of a quota record. -/
def quotaBad (r : List Byte) : Option Nat :=
  let acc := field r 0 1
  if acc > 15 && acc ≠ 0xFF then some 0
  else if field r 1 1 > 3 then some 1
  else if field r 2 2 ≠ 0 then some 2
  else if acc = 0xFF && field r 4 4 ≠ 0 then some 4
  else if acc = 0xFF && field r 8 4 ≠ 0 then some 8
  else if acc = 0xFF && (field r 12 4 % 512 ≠ 0 || field r 12 4 > 81920) then some 12
  else if field r 16 16 ≠ 0 then some 16
  else none

/-- R339: Understory units that the accounts and slots claim. -/
def State.unitsClaimed (s : State) : Nat :=
  ((s.und.quotas.filter (fun p => p.2.active)).map (fun p => p.2.und)).sum + 2 * s.und.ckptUnits

/-- Pages of Understory that are dropped become `UNWRITTEN`. -/
def State.dropWritten (s : State) (keys : List Nat) : State :=
  keys.foldl (fun (s : State) k => s.dropPage k) s

/-- R339: one record; none where it is refused. -/
def State.applyQuota (s : State) (r : List Byte) : Option State :=
  let acc := field r 0 1
  let discard := bitAt (field r 1 1) 1
  let active := bitAt (field r 1 1) 0
  let und := field r 12 4
  let cut := if acc = 0xFF then [] else s.writtenFrom acc (if active then und * unitPages else 0)
  let slotsCut := acc = 0xFF && s.und.slots.any (fun p => p.2.committed && p.2.data.length + 8192 > und * 0x200000)
  if (!cut.isEmpty || slotsCut) && !discard then none
  else
    let s := s.dropWritten cut
    let s := if acc = 0xFF then
        let s := s.setUnd { s.und with ckptUnits := und }
        if slotsCut then s.setUnd { s.und with slots := s.und.slots.filter (fun p => p.2.data.length + 8192 ≤ und * 0x200000) } else s
      else
        let q : Quota := { active := active, hbm := field r 4 4, cache := field r 8 4, und := und }
        s.setUnd { s.und with quotas := Tab.put acc q s.und.quotas }
    some s

/-- R339: the records in order, from index `i`, with the first index after which too much was claimed: the new state, or the
index of the first record that is refused (DEDUCED, log 94). -/
def State.applyQuotas (s : State) (past : Option Nat) : Nat → List (List Byte) → Except Nat State
  | _, [] => if s.unitsClaimed > s.und.formatted then .error (past.getD 0) else .ok s
  | i, r :: l => match s.applyQuota r with
    | none => .error i
    | some t => State.applyQuotas t (if past.isNone && t.unitsClaimed > t.und.formatted then some i else past) (i + 1) l

/-- R467: `QUOTA_SET`: all records or none. -/
def State.quotaSet (a : Accepted) (s : State) : State :=
  let rs := chunks 32 a.request
  match rs.zipIdx.findSome? (fun p => (quotaBad p.1).map (fun o => 32 * p.2 + o)) with
  | some o => s.complete a sBadField o []
  | none =>
    match s.applyQuotas none 0 rs with
    | .error i => s.complete a sQuotaRefused i []
    | .ok t => t.serveTier.complete a sOk 0 []

def execQuotaSet (mb : Fin 32) (s : State) : Result := done (s.command mb cmdQuotaSet State.quotaSet)

end Sys2Proof.Machine
end

