-- ==== Sys2Proof/Machine/Publish.lean ====
section
/-! DEFINITION. The device area of HBM stack 0 (R321), the output ring and its slots (R470, R471), and the tick telemetry
record (R573, R574). -/

namespace Sys2Proof.Machine

/-! ### The device area -/

/-- HBM key of a byte of the device area of a stack. -/
def State.deviceKey (s : State) (k off : Nat) : Nat :=
  k * stackSpan + s.deviceGranule k (off / granule) * granule + off % granule

/-- Writes bytes of the output ring, which lies lowest in the device area of stack 0 (R470), through the partition (R309) (DESIGN CHOICE, log 126). -/
def State.ringWrite (s : State) (off : Nat) (bs : List Byte) : State :=
  ((pieces off bs.length).foldl (fun (p : State × List Byte) q =>
    (p.1.writeHbm (p.1.deviceKey 0 q.1) 0 (p.2.take q.2), p.2.drop q.2)) (s, bs)).1

/-- R470: bytes of a slot. -/
def slotSize (outLen : Nat) : Nat := alignUp 4096 (64 + outLen)

/-- The busy value (R470). -/
def busySlot : List Byte := leBytes 8 0xFFFFFFFFFFFFFFFF

/-- R471: publication time in CORE cycles. -/
def publicationTime (outLen : Nat) : Nat := 2400 + ceilDiv outLen 256

/-- Offset of the slot of a tick. -/
def State.slotOf (s : State) (tick : Nat) : Nat := (tick % max 1 s.job.outDepth) * slotSize s.job.outLen

/-- Ring offsets of every slot header. -/
def State.busyAll (s : State) : State :=
  (List.range s.job.outDepth).foldl (fun (s : State) k => s.ringWrite (k * slotSize s.job.outLen) busySlot) s

/-- R471: the oldest publication under way ends: header bytes 8 to 63, then `TICK`; vector 32 follows under `OUT_IRQ` (DEDUCED, log 97). -/
def State.endPublication (s : State) : State :=
  match s.host.publishing with
  | [] => s
  | p :: rest =>
    let s := s.reach p.due
    let s := (s.ringWrite (p.slot + 8) p.header).ringWrite p.slot (leBytes 8 p.tick)
    let s := s.setHost { s.host with publishing := rest }
    let every := s.host.outIrq.toNat
    if every ≠ 0 && p.tick % every = 0 then s.raise 32 else s

/-- R470: header bytes 8 to 63 of a tick's slot. -/
def State.slotHeader (s : State) (flags : Nat) (payload : List Byte) : List Byte :=
  byteField (leBytes 8 s.job.stepNo.toNat ++ leBytes 4 s.job.outLen ++ leBytes 4 flags ++ leBytes 2 s.job.tag.toNat ++ leBytes 6 0 ++
    leBytes 8 s.time ++ leBytes 4 (crc32c payload).toNat) 0 56

/-- R471: publication of tick `t` starts: the busy value, then the copy of its output (DEDUCED, log 97). -/
def State.publish (s : State) (t flags : Nat) : State :=
  let src := if t % 2 = 0 then s.job.outSrc0 else s.job.outSrc1
  let payload := s.readLocal src s.job.outLen
  let slot := s.slotOf t
  let s := ((s.noteRead src s.job.outLen 0).ringWrite slot busySlot).ringWrite (slot + 64) payload
  s.setHost { s.host with publishing := s.host.publishing ++
    [{ tick := t, slot := slot, due := s.cc + publicationTime s.job.outLen, header := s.slotHeader flags payload }] }

def execOutputPublicationDone (s : State) : Result := done s.endPublication

/-! ### The telemetry record -/

/-- A section of the record: kind, index and 8-byte fields. -/
abbrev TelSection := Nat × Nat × List Nat

/-- The counters of a section. -/
def State.counters (s : State) (kind index n : Nat) : List Nat := (List.range n).map (fun f => s.counter (ctrKey kind index f))

/-- A section that is written only when one of its fields is not 0. -/
def State.someCounters (s : State) (kind index n : Nat) : List TelSection :=
  let fs := s.counters kind index n
  if fs.all (· = 0) then [] else [(kind, index, fs)]

/-- The indices of a kind that have a counter. -/
def State.counterIndices (s : State) (kind : Nat) : List Nat :=
  ((s.ctr.filter (fun p => p.1 / 2 ^ 32 = kind)).map (fun p => p.1 / 2 ^ 16 % 2 ^ 16)).eraseDups

/-- R417: the nine completion records of a die as 36 fields. -/
def State.completionFields (s : State) (d : Nat) : List Nat :=
  let bytes := (List.range 9).flatMap (fun q => (Tab.get {} (d * 16 + q) s.fab.comps).bytes)
  (chunks 8 bytes).map leNat

/-- R551, R573: the cycles in power states up to now are counted. -/
def State.countStates (s : State) : State :=
  let s := s.power.states.foldl (fun (s : State) p => s.countState p.1 p.2.1 p.2.2 s.cc) s
  { s with power := { s.power with states := s.power.states.map (fun (p : Nat × Nat × Nat) => (p.1, p.2.1, s.cc)) } }

/-- R573: conditions that last over the commit count up to it; what follows belongs to the next record (DEDUCED, log 98). -/
def State.splitWaits (s : State) : State :=
  let s := ([0, 1, 2, 3] : List Nat).foldl (fun (s : State) d =>
    let s := (s.countHeld d s.cc).countBusy d
    let r := s.router d
    let s := match r.openFence with
      | some f => (s.count (cFenceCc d) (s.cc - f.since)).setRouter d { r with openFence := some { f with since := s.cc } }
      | none => s
    let s := match (s.copies.filter (fun p => p.1 / 16 = d)).flatMap (·.2) with
      | [] => s
      | o :: _ => s.count (cCopyBusy d) (s.cc - o.since)
    ([0, 1, 2, 3, 4] : List Nat).foldl (fun (s : State) i => if (s.pool d i).count = 0 then s else s.countPool d i) s) s
  let copies := s.copies.map (fun (p : Nat × List CopyOp) => (p.1, p.2.map (fun (o : CopyOp) => { o with since := s.cc })))
  let s := s.countWaits s.fab.queued
  let queued := s.fab.queued.map (fun (q : Queued) => { q with since := s.cc })
  let s := s.countStates
  { s with copies := copies, fab := { s.fab with queued := queued } }

/-- R573: the values of the record, taken at commit. -/
def State.tickValues (s : State) : State :=
  let s := ([0, 1, 2, 3] : List Nat).foldl (fun (s : State) d =>
    ([0, 1, 2, 3, 4] : List Nat).foldl (fun (s : State) i => s.setCount (cPool d i 0) (s.pool d i).least) s) s
  let s := (List.range 8).foldl (fun (s : State) k =>
    (s.setCount (ctrKey 5 k 2) (s.stack k).retired.length).setCount (ctrKey 5 k 3) (s.stack k).highRate) s
  let s := (List.range 16).foldl (fun (s : State) a =>
    let mine := s.und.pages.filter (fun p => s.pageAccount p.1 = a)
    (s.setCount (ctrKey 8 a 0) (mine.filter (fun p => p.2.state.resident)).length).setCount (ctrKey 8 a 1)
      (mine.filter (fun p => p.2.state == .dirty || p.2.state == .writeback)).length) s
  let s := ((List.range 8).foldl (fun (s : State) p =>
    if s.fab.up.getLsbD p then s.count (ctrKey 6 p 0) (Config.fecCorrected s.free p) else s) s).spend
  let s := s.setCount (ctrKey 10 0 11) (b2n s.und.readOnly)
  let w := s.power
  let s := (s.setCount (ctrKey 10 0 31) (w.tickInput / max 1 w.tickSteps / 1000)).setCount (ctrKey 10 0 32) (w.tickInputPeak / 1000)
  (s.setCount (ctrKey 10 0 33) (w.tickBallast / 1000000)).setCount (ctrKey 10 0 34) w.maxDuty

/-- R574: the sections of the record, in order (DEDUCED, log 98). -/
def State.telSections (s : State) : List TelSection :=
  (List.range 64).map (fun n => (1, n, s.counters 1 n 9)) ++
    (sortBy (fun (a b : Nat) => a ≤ b) (s.counterIndices 2)).flatMap (fun l => s.someCounters 2 l 12) ++
    (List.range 16).map (fun r => (3, r, s.counters 3 r 2)) ++
    (List.range 4).map (fun d => (4, d, s.counters 4 d 67)) ++
    (List.range 8).map (fun k => (5, k, s.counters 5 k 4)) ++
    (List.range 8).map (fun p => (6, p, s.counters 6 p 8)) ++
    (List.range 16).map (fun c => (7, c, s.counters 7 c 6)) ++
    (List.range 16).map (fun a => (8, a, s.counters 8 a 2)) ++
    (sortBy (fun (a b : Nat) => a ≤ b) (s.counterIndices 9)).flatMap (fun t => s.someCounters 9 t 1) ++
    [(10, 0, s.counters 10 0 35)] ++
    (List.range 4).map (fun d => (11, d, s.completionFields d))

/-- The directory of the sections from an offset on. -/
def telDirectory : Nat → List TelSection → List Byte
  | _, [] => []
  | off, x :: l =>
    leBytes 2 x.1 ++ leBytes 2 x.2.1 ++ leBytes 4 off ++ leBytes 4 x.2.2.length ++ leBytes 4 0 ++
      telDirectory (off + 8 * x.2.2.length) l

/-- R573: the record of a tick. -/
def State.telRecord (s : State) (tick flags : Nat) : List Byte :=
  let xs := s.telSections
  let body := xs.flatMap (fun x => x.2.2.flatMap (leBytes 8))
  let dir := telDirectory (128 + 16 * xs.length) xs
  let header := byteField ("TICKTEL1".toList.map (fun c => BitVec.ofNat 8 c.toNat) ++ leBytes 8 tick ++
    leBytes 8 s.job.stepNo.toNat ++ leBytes 4 (128 + dir.length + body.length) ++ leBytes 2 xs.length ++ leBytes 2 (flags % 32) ++
    leBytes 8 s.time ++ leBytes 2 s.job.tag.toNat) 0 128
  header ++ dir ++ body

/-- R438, R453, R526: the values with which a record starts: the reduction contexts in use on each die that has any, and the bounce buffer's. -/
def State.contextCounts (s : State) : Tab Nat :=
  ([0, 1, 2, 3] : List Nat).filterMap (fun d =>
    let k := (s.coll.nodes.filter (fun n => n.die = d && n.context)).length
    if k = 0 then none else some (ctrKey 4 d 53, k)) ++
  (match s.seed.copying with
    | some c => if c.bounce.isEmpty then [] else [(cSbBounce, c.bounce.length * 16384)]
    | none => [])

/-- R573: the record of a tick is written, the newest 256 are kept, and the counts start again. -/
def State.writeTelemetry (s : State) (tick flags : Nat) : State :=
  let s := s.splitWaits.tickValues
  let r := s.telRecord tick flags
  let kept := (Tab.put tick r (s.sec.telemetry.filter (fun p => p.1 + 256 > tick)))
  let sill := s.sill.map (fun (p : Nat × Sillage) =>
    (p.1, { p.2 with pools := p.2.pools.map (fun (q : Nat × Pool) => (q.1, { q.2 with least := q.2.free })) }))
  let rated := s.hbmStacks.map (fun (p : Nat × Stack) => (p.1, { p.2 with highRate := p.2.rate }))
  { s with
    ctr := s.contextCounts
    sill := sill
    hbmStacks := rated
    fab := { s.fab with comps := [] }
    power := { s.power with
      maxDuty := max s.power.thermalDuty s.power.powerDuty, tickInput := 0, tickSteps := 0, tickInputPeak := 0, tickBallast := 0 }
    sec := { s.sec with telemetry := kept, telemLast := BitVec.ofNat 48 tick, telemCount := kept.length
                        telemLen := r.length } }

end Sys2Proof.Machine
end

