-- ==== Sys2Proof/Machine/Arrive.lean ====
section
/-! DEFINITION. Arrivals of the exchange: the receive unit's checks and writes (R247, R251, R259), acknowledgements
(R235), integrity faults (R260, R261, R263), and the end of a Sillage operation. -/

namespace Sys2Proof.Machine

def cXstale (d : Nat) : Nat := ctrKey 4 d 11

/-- What becomes of an arrival. -/
inductive Arrival where
  | fault (check : Nat)
  | stale
  | blocked
  | status (n : Nat)
  | accept
  deriving DecidableEq, Repr

/-- R247, R259: the checks of a token packet that do not look at its tick (DEDUCED, log 39). -/
def State.checkTok (s : State) (d : Nat) (x : XDesc) (t : Tok) : Option Nat :=
  let ty := t.typ.toNat
  let row := ty = 1 || ty = 4
  if !t.hcrcOk then some 1
  else if !t.pcrcOk then some 2
  else if ty = 0 || ty > 4 then some 13
  else if x.scope = 0 || x.scope > 4 then some 3
  else if t.src.toNat ≥ x.srcs then some 4
  else if row && t.hidx.toNat ≥ x.h then some 5
  else if row && (s.hostedRec d x t.hidx.toNat).expert ≠ t.expert.toNat then some 6
  else if row && t.slot.toNat ≥ x.rcap then some 7
  else none

/-- Place of a row in the receive area of a parity, and of a reference in command-list mode. -/
def XDesc.rowAt (x : XDesc) (r : Hosted) (p : Nat) (t : Tok) : Nat :=
  r.recv + (p * x.srcs * x.rcap + t.src.toNat * x.rcap + t.slot.toNat) * x.rpitch
def XDesc.refAt (x : XDesc) (r : Hosted) (p : Nat) (t : Tok) : Nat :=
  r.recv + 4 * (p * x.srcs * x.rcap + t.src.toNat * x.rcap + t.slot.toNat)

/-- R243: writes a segment into a row: segment 0 with its header. -/
def State.writeSegment (s : State) (row largest : Nat) (t : Tok) : State :=
  let s := if t.segIndex = 0 then s.setSram (putBlock zeroByte row t.header s.sram) else s
  s.setSram (putBlock zeroByte (row + 32 + t.segIndex * largest) t.payload s.sram)

/-- R247: an arrival entry changes in one indivisible write. -/
def State.setArrival (s : State) (x : XDesc) (p src v : Nat) : State :=
  s.setSram (putBlock zeroByte (x.arrivalAt p src) (leBytes 8 v) s.sram)

/-- Status of the bytes that an arrival writes (R261). -/
def State.spanStatus (s : State) (d a len : Nat) : Nat := ((s.rangeFault d a len).map (·.2)).getD 0

/-- R247: a row segment of `TYPE` 1 for the current tick or the next. -/
def State.takeRow (s : State) (d : Nat) (x : XDesc) (t : Tok) : State × Arrival :=
  let p := t.tick.toNat % 2
  let v := s.arrival x p t.src.toNat
  let row := x.rowAt (s.hostedRec d x t.hidx.toNat) p t
  let st := max (s.spanStatus d row x.rpitch) (s.spanStatus d (x.arrivalAt p 0) (8 * x.srcs))
  if arrDeclared v && arrSegs v + 1 > arrRows v * x.segs then (s, .fault 9)
  else if st ≠ 0 then (s, .status st)
  else ((s.writeSegment row x.largest t).setArrival x p t.src.toNat (v + 1), .accept)

/-- R247: a count packet. -/
def State.takeCount (s : State) (d : Nat) (x : XDesc) (t : Tok) : State × Arrival :=
  let p := t.tick.toNat % 2
  let v := s.arrival x p t.src.toNat
  let rows := field t.payload 0 3
  let st := s.spanStatus d (x.arrivalAt p 0) (8 * x.srcs)
  if arrSegs v > rows * x.segs then (s, .fault 9)
  else if st ≠ 0 then (s, .status st)
  else (s.setArrival x p t.src.toNat (arrSegs v + rows * 2 ^ 32 + 2 ^ 63), .accept)

/-- R251: a return segment of the current tick. -/
def State.takeReturn (s : State) (d : Nat) (x : XDesc) (c : Ctx) (t : Tok) : State × Arrival :=
  let row := x.ret + (t.token.toNat * c.k + t.rank.toNat % 16) * x.retSize
  let v := leNat (getBlock zeroByte x.returnAt 8 s.sram)
  let st := max (s.spanStatus d row x.retSize) (s.spanStatus d x.returnAt 8)
  if st ≠ 0 then (s, .status st)
  else
    let s := s.writeSegment row x.largest t
    (s.setSram (putBlock zeroByte x.returnAt (leBytes 8 (v + 1)) s.sram), .accept)

/-- R259: a command-list row takes a buffer of the completing class. -/
def State.takeBuffered (s : State) (d : Nat) (x : XDesc) (t : Tok) : State × Arrival :=
  let p := t.tick.toNat % 2
  let v := s.arrival x p t.src.toNat
  let ref := x.refAt (s.hostedRec d x t.hidx.toNat) p t
  let st := max (s.spanStatus d ref 4) (s.spanStatus d (x.arrivalAt p 0) (8 * x.srcs))
  let i := poolFor t.bytes.length
  if arrDeclared v && arrSegs v + 1 > arrRows v * x.segs then (s, .fault 9)
  else if st ≠ 0 then (s, .status st)
  else if leNat (getBlock zeroByte ref 4 s.sram) ≠ 0 then (s, .fault 15)
  else if !(s.pool d i).grants false then (s.waitPool d i, .blocked)
  else
    let (s, off) := s.allocate d i t.bytes
    let s := s.setSram (putBlock zeroByte ref (leBytes 4 (off / 32)) s.sram)
    (s.setArrival x p t.src.toNat (v + 1), .accept)

/-- R263: a packet for a parity that `XLIST` has cleared: in the cycle of the clearing it is applied first, so that a row goes
beyond its source's declaration and a count is cleared with its entry; later it is an integrity fault. -/
def State.afterList (s : State) (d : Nat) (t : Tok) : Arrival :=
  if (Tab.get (0, 0) t.xd.toNat (s.sillage d).listed).2 = s.cc then (if t.typ = 3 then .accept else .fault 9) else .fault 14

/-- R247, R251, R259, R263: the receive unit takes a packet (DEDUCED, log 39). -/
def State.receiveTok (s : State) (d : Nat) (t : Tok) : State × Arrival :=
  let x := xdescOf d (s.xdescBytes d t.xd.toNat)
  let now := s.tick.count.toNat
  match s.checkTok d x t with
  | some k => (s, .fault k)
  | none =>
    if t.tick.toNat < now then (s, .stale)
    else if t.tick.toNat > now + 1 || (t.typ = 2 && t.tick.toNat > now) then (s, .fault 8)
    else if t.typ ≠ 2 && (Tab.get (0, 0) t.xd.toNat (s.sillage d).listed).1 = t.tick.toNat + 1 then
      (s, s.afterList d t)
    else match t.typ.toNat with
      | 1 => s.takeRow d x t
      | 2 => s.takeReturn d x (ctxOf d (s.context d t.xd.toNat)) t
      | 3 => s.takeCount d x t
      | _ => s.takeBuffered d x t

/-- Die of this device that sent a token packet, by the scope of the descriptor at the receiver (R238). -/
def State.senderOf (s : State) (d : Nat) (t : Tok) : Option Nat :=
  let x := xdescOf d (s.xdescBytes d t.xd.toNat)
  if x.scope ≤ 2 then some d
  else if x.scope = 3 then some (t.src.toNat % 4)
  else if t.src.toNat / 4 = x.member then some (t.src.toNat % 4) else none

/-- R235, R261: the acknowledgement of a packet reaches its sender: its buffer is freed; any status but OK is an
integrity fault there. -/
def State.tokAcked (s : State) (d : Nat) (t : Tok) (status : Nat) : State :=
  match (s.sillage d).sent.find? (fun w => w.tok = t) with
  | none => s
  | some w =>
    let u := s.sillage d
    let s := s.setSillage d { u with sent := u.sent.erase w }
    let s := match w.pool with
      | some (i, off) => s.freeBuffer d i off
      | none => s
    if status ≠ 0 then s.integrityFault d 5 12 t.xd.toNat t.src.toNat else s.wakeSillage d

/-- Answer to give to the sender of a packet: a status, or none. -/
def Arrival.answer : Arrival → Option Nat
  | .stale => some 0
  | .accept => some 0
  | .status n => some n
  | _ => none

/-- What a packet's arrival does to the receiving die, and the answer to its sender. -/
def State.arriveTok (s : State) (d : Nat) (t : Tok) : State × Option Nat :=
  if s.fenced (0x50 + d) then (s, some 2)
  else
    let (s, r) := s.receiveTok d t
    let s := match r with
      | .fault k => s.integrityFault d 6 k t.xd.toNat t.src.toNat
      | .stale => s.count (cXstale d) 1
      | .blocked =>
        let u := s.sillage d
        s.setSillage d { u with arriving := u.arriving ++ [t] }
      | .status _ => s
      | .accept => s.wakeSillage d
    (s, r.answer)

/-- A packet on the die network: its arrival, and its acknowledgement to a sender of this device. -/
def State.tokOnNetwork (s : State) (d : Nat) (t : Tok) : State :=
  let (s, a) := s.arriveTok d t
  match a, s.senderOf d t with
  | some st, some e => s.tokAcked e t st
  | _, _ => s

/-- R258: rows that waited at the receive port try again. -/
def State.retryArrivals (s : State) (d : Nat) : State :=
  let u := s.sillage d
  if u.arriving.isEmpty then s
  else u.arriving.foldl (fun s t => s.tokOnNetwork d t) (s.setSillage d { u with arriving := [] })

/-- R258: every receive port tries again after buffers may have been freed. -/
def State.retryAll (s : State) : State := ([0, 1, 2, 3] : List Nat).foldl State.retryArrivals s

def execDispatchRowArrival (d : Fin 4) (t : Tok) (s : State) : Result := done (s.tokOnNetwork d t).retryAll
def execCountArrival (d : Fin 4) (t : Tok) (s : State) : Result := done (s.tokOnNetwork d t).retryAll
def execReturnRowArrival (d : Fin 4) (t : Tok) (s : State) : Result := done (s.tokOnNetwork d t).retryAll
def execCmdlistRowArrival (d : Fin 4) (t : Tok) (s : State) : Result := done (s.tokOnNetwork d t).retryAll

def execSillageOperationEnd (d : Fin 4) (exchange : Bool) (s : State) : Result := done (s.endSillage d exchange).retryAll

end Sys2Proof.Machine
end

