-- ==== Sys2Proof/Machine/Collective.lean ====
section
/-! DEFINITION. Fused collectives (R422 to R453): instances, tree nodes, chunks, reduction in Grove and Windfall order,
pass-through, results and pruning; `COLL_ISSUE`, `CBIND`, and the ends of cluster operations. -/

namespace Sys2Proof.Machine

def cCollIssued (d : Nat) : Nat := ctrKey 4 d 50
def cCollPt (d : Nat) : Nat := ctrKey 4 d 51
def cPtRootCc (d : Nat) : Nat := ctrKey 4 d 52
def cCtxPeak (d : Nat) : Nat := ctrKey 4 d 53
def cCollDup (d : Nat) : Nat := ctrKey 4 d 54
def cCollStale (d : Nat) : Nat := ctrKey 4 d 55
def cCollPruned (d : Nat) : Nat := ctrKey 4 d 56

/-! ### A tree as a node of this device sees it (R428) -/

/-- A node's place in its tree. -/
structure TreeInfo where
  desc : CollDesc
  tree : List TreeRec
  me : Nat
  deriving DecidableEq, Repr

def State.treeInfo (s : State) (d cdesc t : Nat) : Option TreeInfo :=
  match s.collDesc d cdesc with
  | none => none
  | some c =>
    if t ≥ c.trees then none
    else
      let tree := s.treeOf c t
      (s.nodeIndex tree d).map (fun k => ⟨c, tree, k⟩)

namespace TreeInfo

def nodeAt (i : TreeInfo) (j : Nat) : TreeRec := i.tree.getD j ⟨0, 0, 0xFFFF, 0⟩
def clustersOf (i : TreeInfo) (j : Nat) : List Nat := maskBits 16 (i.nodeAt j).clusters
def kidsOf (i : TreeInfo) (j : Nat) : List Nat := (List.range i.tree.length).filter (fun k => (i.nodeAt k).parent = j)
def root (i : TreeInfo) : Nat := (i.tree.findIdx? (fun r => r.parent = 0xFFFF)).getD 0
def isRoot (i : TreeInfo) : Bool := i.me = i.root
def parent (i : TreeInfo) : Nat := (i.nodeAt i.me).parent

/-- R428: the participants in order: node and cluster. -/
def members (i : TreeInfo) : List (Nat × Nat) :=
  (List.range i.tree.length).flatMap (fun j => (i.clustersOf j).map (fun c => (j, c)))
def memberIndex (i : TreeInfo) (j c : Nat) : Nat := (i.members.findIdx? (· = (j, c))).getD 0

/-- Whether node `j` lies in the subtree of node `k`, by climbing at most `fuel` edges. -/
def under (i : TreeInfo) (k : Nat) : Nat → Nat → Bool
  | 0, j => j = k
  | f + 1, j => j = k || ((i.nodeAt j).parent ≠ 0xFFFF && i.under k f (i.nodeAt j).parent)

def inSubtree (i : TreeInfo) (k j : Nat) : Bool := i.under k i.tree.length j

/-- Chunks of a participant, and those that travel on tree `t` (R428). -/
def chunkCount (i : TreeInfo) : Nat := i.desc.len / i.desc.chunk
def treeChunks (i : TreeInfo) (t : Nat) : List Nat := (List.range i.chunkCount).filter (fun c => c % i.desc.trees = t)

/-- R429: the kinds. -/
def reduces (i : TreeInfo) : Bool := i.desc.kind = 1 || i.desc.kind = 2 || i.desc.kind = 4

/-- R429: bytes of a participant's share in `REDUCE_SCATTER`, and the owner of a chunk. -/
def share (i : TreeInfo) : Nat := i.desc.len / i.members.length
def owner (i : TreeInfo) (chunk : Nat) : Nat := chunk * i.desc.chunk / i.share

/-- Whether a cluster is the root cluster. -/
def isRootCluster (i : TreeInfo) (j c : Nat) : Bool := j = i.root && (i.nodeAt j).die * 16 + c = i.desc.rcluster

/-- R429: where in a participant's result a chunk is written: the chunk carries the value of node `tag`, cluster `cl`. -/
def resultOffset (i : TreeInfo) (c chunk tag cl : Nat) : Option Nat :=
  let p := i.memberIndex i.me c
  let at0 := chunk * i.desc.chunk
  match i.desc.kind with
  | 1 => some at0
  | 2 => if i.owner chunk = p then some (at0 - p * i.share) else none
  | 3 => some (i.memberIndex tag cl * i.desc.len + at0)
  | 4 => if i.isRootCluster i.me c then some at0 else none
  | _ => if i.isRootCluster i.me c then none else some at0

/-- R429: bytes of the whole result of a cluster of this node. -/
def resultBytes (i : TreeInfo) (c : Nat) : Nat :=
  match i.desc.kind with
  | 1 => i.desc.len
  | 2 => i.share
  | 3 => i.members.length * i.desc.len
  | 4 => if i.isRootCluster i.me c then i.desc.len else 0
  | _ => if i.isRootCluster i.me c then 0 else i.desc.len

/-- R429: the children that a downward chunk is due to. -/
def dueKids (i : TreeInfo) (chunk : Nat) : List Nat :=
  match i.desc.kind with
  | 2 => (i.kidsOf i.me).filter (fun k => i.inSubtree k (((i.members)[i.owner chunk]?.map (·.1)).getD 0))
  | 4 => []
  | _ => i.kidsOf i.me

/-- Downward chunks that this node gets on a tree (for `ALL_GATHER` one for each origin). -/
def dueResults (i : TreeInfo) (t : Nat) : Nat :=
  let cs := i.treeChunks t
  match i.desc.kind with
  | 2 => if i.isRoot then cs.length else
    (cs.filter (fun c => i.inSubtree i.me (((i.members)[i.owner c]?.map (·.1)).getD 0))).length
  | 3 => i.members.length * cs.length
  | 4 => if i.isRoot then cs.length else 0
  | _ => cs.length

/-- Upward chunks that this node sends on a tree. -/
def dueUp (i : TreeInfo) (t : Nat) : Nat :=
  if i.isRoot then 0
  else if i.reduces then (i.treeChunks t).length
  else if i.desc.kind = 3 then (i.members.filter (fun m => i.inSubtree i.me m.1)).length * (i.treeChunks t).length
  else 0

end TreeInfo

/-! ### Arithmetic (R431 to R433) -/

/-- R431, R433: one reduction step in FP32 or INT32. -/
def ropStep (rop : Nat) (int : Bool) (a b : Val) : Val :=
  match rop with
  | 0 => if int then Fmt.i32.decode (Fmt.i32.encode .rne (a.add b)).code else fAdd a b
  | 1 => if a.isNan || b.isNan then .nan else if a.lt b then b else a
  | _ => if a.isNan || b.isNan then .nan else if b.lt a then b else a

/-- Elements of a chunk in a format. -/
def chunkVals (code : Nat) (bs : List Byte) : List Val := (unpackCodes (fmtOf code).bits bs).map (fmtOf code).decode
where
  /-- Format of a code; FP32 where the code names none. -/
  fmtOf (code : Nat) : Fmt := (Fmt.ofCode code).getD .f32

/-- A chunk from its elements. -/
def chunkBytes (code : Nat) (vs : List Val) : List Byte :=
  let f := (Fmt.ofCode code).getD .f32
  packCodes f.bits (vs.map (fun v => (f.encode .rne v).code))

/-- The sum, maximum or minimum of inputs in their order. -/
def reduceAll (rop : Nat) (int : Bool) (ins : List (List Val)) : List Val :=
  match ins with
  | [] => []
  | v :: l => l.foldl (fun a b => a.zipWith (ropStep rop int) b) v

/-! ### Keys -/

/-- Key of an input of a chunk: the partial of node `j` (sub 0), or what its cluster `sub - 1` contributes. -/
def pieceKey (chunk j sub : Nat) : Nat := chunk * 2 ^ 22 + j * 32 + sub
def keyChunk (k : Nat) : Nat := k / 2 ^ 22
def keySub (k : Nat) : Nat := k % 32

/-- The value of a piece. -/
def pieceVals (c : CollDesc) (key : Nat) (bs : List Byte) : List Val :=
  chunkVals (if keySub key = 0 then c.wfmt else c.dfmt) bs

def Node.find (n : Node) (key : Nat) : Option (List Byte) := (n.held.find? (fun p => p.1 = key)).map (·.2)

/-- The keys of a node's inputs of a chunk in input order (R428). -/
def TreeInfo.inputKeys (i : TreeInfo) (j chunk : Nat) : List Nat :=
  (i.clustersOf j).map (fun c => pieceKey chunk j (c + 1)) ++ (i.kidsOf j).map (fun k => pieceKey chunk k 0)

/-- R441: the value of a node's inputs of a chunk, rebuilt from pieces: a child that ran pass-through by its own inputs.
The fuel is the number of nodes. -/
def TreeInfo.rebuild (i : TreeInfo) (n : Node) (chunk : Nat) : Nat → Nat → Option (List Val)
  | 0, _ => none
  | f + 1, j =>
    let own := (i.clustersOf j).map (fun c =>
      (n.find (pieceKey chunk j (c + 1))).map (pieceVals i.desc (pieceKey chunk j (c + 1))))
    let kids := (i.kidsOf j).map (fun k =>
      match n.find (pieceKey chunk k 0) with
      | some b => some (pieceVals i.desc (pieceKey chunk k 0) b)
      | none => (i.rebuild n chunk f k).map (fun v => chunkVals i.desc.wfmt (chunkBytes i.desc.wfmt v)))
    let all := own ++ kids
    if all.all (·.isSome) then some (reduceAll i.desc.rop (i.desc.dfmt = 14) (all.filterMap id)) else none

/-- R431, R432: a node's value of a chunk from inputs that are all held: in input order, or in order of arrival. -/
def TreeInfo.nodeValue (i : TreeInfo) (n : Node) (chunk : Nat) : List Val :=
  let mine := n.held.filter (fun p => keyChunk p.1 = chunk)
  let vals (l : List (Nat × List Byte)) : List (List Val) := l.map (fun p => pieceVals i.desc p.1 p.2)
  if i.desc.windfall then reduceAll i.desc.rop (i.desc.dfmt = 14) (vals mine)
  else reduceAll i.desc.rop (i.desc.dfmt = 14)
    (vals ((i.inputKeys i.me chunk).filterMap (fun k => (n.find k).map (fun b => (k, b)))))

/-! ### Nodes and instances in the state -/

def Node.same (a b : Node) : Bool := a.die = b.die && a.cdesc = b.cdesc && a.tree = b.tree && a.inst = b.inst

def State.setNode (s : State) (n : Node) : State :=
  let l := if s.coll.nodes.any (fun m => m.same n) then s.coll.nodes.map (fun m => if m.same n then n else m)
    else s.coll.nodes ++ [n]
  { s with coll := { s.coll with nodes := l } }

def State.node (s : State) (d c t i : Nat) : Option Node :=
  s.coll.nodes.find? (fun n => n.die = d && n.cdesc = c && n.tree = t && n.inst = i)

def State.inst (s : State) (d c i : Nat) : Option CollInst :=
  s.coll.insts.find? (fun x => x.die = d && x.cdesc = c && x.inst = i)

def State.updInst (s : State) (d c i : Nat) (f : CollInst → CollInst) : State :=
  { s with coll := { s.coll with insts := s.coll.insts.map (fun (x : CollInst) =>
      if x.die = d && x.cdesc = c && x.inst = i then f x else x) } }

/-- Instances of a descriptor that a die has issued since release. -/
def State.instCount (s : State) (d c : Nat) : Nat := Tab.get 0 (d * 4096 + c) s.coll.counts

/-- R438: a node for an instance on a tree, with a context if one is free; the peak is recorded. -/
def State.openNode (s : State) (d c t i : Nat) : State :=
  match s.node d c t i, s.treeInfo d c t with
  | none, some info =>
    let used := (s.coll.nodes.filter (fun n => n.die = d && n.context)).length
    let ctx := info.reduces && used < 64
    let s := if ctx && used + 1 > s.counter (cCtxPeak d) then s.setCount (cCtxPeak d) (used + 1) else s
    s.setNode { die := d, cdesc := c, tree := t, inst := i, context := ctx, passAll := info.reduces && !ctx }
  | _, _ => s

/-! ### Answers that wait (R436) -/

/-- Answers that wait for a number of acknowledgements, under a new number. -/
def State.await (s : State) (ps : List Pkt) (k : Nat) : State × Option Nat :=
  let id := s.coll.nextOwed
  ({ s with coll := { s.coll with
    owed := Tab.put id ⟨ps.map (fun p => { p with body := [] }), k⟩ s.coll.owed, nextOwed := id + 1 } }, some id)

/-- An answer that waits for a number of acknowledgements; with none it leaves at once. -/
def State.owe (s : State) (p : Option Pkt) (k : Nat) : State × Option Nat :=
  match p with
  | none => (s, none)
  | some p => if k = 0 then (s.sendAck p 0, none) else s.await [p] k

/-- One of the acknowledgements that answers wait for has come. -/
def State.payOwed (s : State) (o : Option Nat) : State :=
  match o with
  | none => s
  | some id =>
    match Tab.find id s.coll.owed with
    | none => s
    | some w =>
      if w.left ≤ 1 then
        w.pkts.foldl (fun s p => s.sendAck p 0) { s with coll := { s.coll with owed := Tab.drop id s.coll.owed } }
      else { s with coll := { s.coll with owed := Tab.put id { w with left := w.left - 1 } s.coll.owed } }

/-- R436: one more answer waits with others; where nothing is waited for any more, it leaves at once. -/
def State.joinOwed (s : State) (o : Option Nat) (p : Pkt) : State :=
  match o.bind (fun id => (Tab.find id s.coll.owed).map (fun w => (id, w))) with
  | none => s.sendAck p 0
  | some (id, w) =>
    { s with coll := { s.coll with owed := Tab.put id { w with pkts := w.pkts ++ [{ p with body := [] }] } s.coll.owed } }

/-- Whether the answer to a packet waits for acknowledgements. -/
def State.answerWaits (s : State) (p : Pkt) : Bool :=
  s.coll.owed.any (fun w => w.2.pkts.any (fun q => q.src = p.src && q.seq = p.seq))

/-! ### Chunks on the wire (R435, R436) -/

/-- R435: the header address of a chunk for a node. -/
def chunkAddr (i : TreeInfo) (n : Node) (dest chunk tag cl kind : Nat) : Nat :=
  n.cdesc + n.inst % 4096 * 2 ^ 12 + chunk * 2 ^ 24 + tag * 2 ^ 36 + cl * 2 ^ 52 + kind * 2 ^ 56 + n.tree * 2 ^ 59 +
    (i.nodeAt dest).die * 2 ^ 62

/-- A chunk joins the packets of a node that wait for their window. -/
def State.sendChunk (s : State) (i : TreeInfo) (n : Node) (dest chunk tag cl kind : Nat) (body : List Byte) (owed : Option Nat) :
    State × Node :=
  let p := s.newPkt (i.nodeAt dest).coord tColl (if kind = 3 then 2 else 0) body.length (chunkAddr i n dest chunk tag cl kind) body
  (s, { n with outbox := n.outbox ++ [(dest, p, owed)] })

/-- R436: unacknowledged chunks of a node to a node on its tree. -/
def State.inFlight (s : State) (i : TreeInfo) (n : Node) (dest : Nat) : Nat :=
  let mine (die : Nat) (p : Pkt) (o : Origin) : Bool := die = n.die && p.dest.toNat = (i.nodeAt dest).coord &&
    bitsOf p.addr.toNat 62 2 = (i.nodeAt dest).die && (match o with
      | .coll d c t _ => d = n.die && c = n.cdesc && t = n.tree
      | _ => false)
  (s.fab.kept.filter (fun k => !k.answered && mine k.die k.pkt k.origin)).length +
    (s.fab.queued.filter (fun q => mine q.die q.pkt q.origin)).length

/-- The chunks of a node that its windows allow leave. -/
def State.flushNode (s : State) (i : TreeInfo) (n : Node) : State × Node :=
  n.outbox.foldl (fun (a : State × Node) (x : Nat × Pkt × Option Nat) =>
    if a.1.inFlight i n x.1 < i.desc.window && !a.2.outbox.any (fun y => y.1 = x.1) then
      (a.1.post n.die x.2.1 (.coll n.die n.cdesc n.tree x.2.2), a.2)
    else (a.1, { a.2 with outbox := a.2.outbox ++ [x] })) (s, { n with outbox := [] })

/-- Whether a node has packets that are not acknowledged; `up` looks at upward ones only. -/
def State.nodeBusy (s : State) (n : Node) (up : Bool) : Bool :=
  let mine (p : Pkt) (o : Origin) : Bool := (match o with
    | .coll d c t _ => d = n.die && c = n.cdesc && t = n.tree
    | _ => false) && bitsOf p.addr.toNat 12 12 = n.inst % 4096 && (!up || bitsOf p.addr.toNat 56 3 ≠ 3)
  s.fab.kept.any (fun k => !k.answered && mine k.pkt k.origin) || s.fab.queued.any (fun q => mine q.pkt q.origin)

/-! ### Results (R429, R436, R448, R449) -/

/-- A chunk of a result is written for one cluster. -/
def State.writeResult (s : State) (i : TreeInfo) (n : Node) (chunk tag cl : Nat) (bs : List Byte) (c : Nat) : State :=
  match i.resultOffset c chunk tag cl, (s.inst n.die n.cdesc n.inst).bind (fun x => Tab.find c x.dsts) with
  | some off, some dst =>
    let a := nearBase (16 * n.die + c) + dst + off
    if s.clusterFenced (16 * n.die + c) then s.addrFault n.die 2 a
    else
      (s.setSram (putBlock zeroByte a bs s.sram)).updInst n.die n.cdesc n.inst
        (fun x => { x with delivered := Tab.put c (Tab.get 0 c x.delivered + bs.length) x.delivered })
  | _, _ => s

/-- R448: whether a child cannot be reached. -/
def State.childLost (s : State) (i : TreeInfo) (k : Nat) : Bool :=
  let r := i.nodeAt k
  if r.coord = s.fab.coord.toNat then s.fenced (0x6E + r.die)
  else match s.route r.coord false true with
  | .unreachable => true
  | .waits p => (Tab.get {} p s.fab.ports).state = 7
  | _ => s.noRoute r.coord

/-- R449: a child is pruned: recorded, and reported to the root unless this node is the root. -/
def State.pruneChild (s : State) (i : TreeInfo) (n : Node) (k chunk : Nat) (owed : Option Nat) : State × Node :=
  let r := i.nodeAt k
  let s := (s.count (cCollPruned n.die) 1).updInst n.die n.cdesc n.inst
    (fun x => { x with pruned := x.pruned ++ [(r.coord, r.die, n.tree, k)] })
  let n := { n with pruned := k :: n.pruned }
  if i.isRoot then (s.payOwed owed, n)
  else s.sendChunk i n i.root chunk k 0 5 (byteField (leBytes 2 k ++ leBytes 2 r.coord) 0 32) owed

/-- R451: whether a chunk is due in the near SRAM of a fenced cluster of this node. -/
def State.destFenced (s : State) (i : TreeInfo) (n : Node) (chunk tag cl : Nat) : Bool :=
  (i.clustersOf i.me).any (fun c => (i.resultOffset c chunk tag cl).isSome && s.clusterFenced (16 * n.die + c))

/-- R429, R436, R451: a result chunk is written to this node's participants and sent on to its children; one that finds a fenced
near SRAM ends with status 2. -/
def State.spread (s : State) (i : TreeInfo) (n : Node) (chunk tag cl : Nat) (bs : List Byte) (p : Option Pkt) : State × Node :=
  let n := { n with results := pieceKey chunk tag cl :: n.results }
  let s := (i.clustersOf i.me).foldl (fun s c => s.writeResult i n chunk tag cl bs c) s
  let kids := (i.dueKids chunk).filter (fun k => !n.pruned.contains k)
  let o := match p with
    | some q => if s.destFenced i n chunk tag cl then (s.sendAck q 2, none) else s.owe p kids.length
    | none => (s, none)
  kids.foldl (fun (a : State × Node) k =>
    if a.1.childLost i k then a.1.pruneChild i a.2 k chunk o.2
    else a.1.sendChunk i a.2 k chunk tag cl 3 bs o.2) (o.1, n)

/-! ### The upward phase -/

/-- R440, R441: whether the root completes a chunk from pieces. -/
def TreeInfo.rootPasses (i : TreeInfo) (n : Node) (chunk : Nat) : Bool :=
  n.passAll || n.passed.contains chunk ||
    n.held.any (fun p => keyChunk p.1 = chunk && !(i.inputKeys i.me chunk).contains p.1)

/-- R441: a piece is written into the pass-through area, at a place that no rule gives (DEDUCED, log 93). -/
def State.keepPiece (s : State) (i : TreeInfo) (bs : List Byte) : State :=
  let room := i.desc.ptaLen * 0x200000 / i.desc.chunk
  if room = 0 then s else (s.writeLocal (i.desc.pta + Config.ptaPlace s.free % room * i.desc.chunk) 0 bs).spend

/-- R441: the pieces of a chunk that is found to be one of pass-through are written, or the newest alone if it was one before. -/
def State.keepPieces (s : State) (i : TreeInfo) (before : Node) (n : Node) (chunk : Nat) : State :=
  let mine := n.held.filter (fun p => keyChunk p.1 = chunk)
  if !i.rootPasses n chunk then s
  else (if i.rootPasses before chunk then mine.drop (mine.length - 1) else mine).foldl (fun s p => s.keepPiece i p.2) s

/-- A chunk completes at the root. -/
def State.finishRoot (s : State) (i : TreeInfo) (n : Node) (chunk : Nat) (v : List Val) : State × Node :=
  let n := { n with held := n.held.filter (fun p => keyChunk p.1 ≠ chunk) }
  s.spread i n chunk i.me 0 (chunkBytes i.desc.dfmt v) none

/-- R440: a node sends an input of a chunk straight to the root. -/
def State.passInput (s : State) (i : TreeInfo) (n : Node) (key : Nat) (bs : List Byte) (owed : Option Nat) : State × Node :=
  let j := key % 2 ^ 22 / 32
  if keySub key = 0 then s.sendChunk i n i.root (keyChunk key) j 0 0 bs owed
  else s.sendChunk i n i.root (keyChunk key) j (keySub key - 1) 1 bs owed

/-- A chunk whose inputs have all come, been added or passed, has gone up. -/
def TreeInfo.goneUp (i : TreeInfo) (n : Node) (chunk : Nat) : Node :=
  if (i.inputKeys i.me chunk).all (fun k => (n.find k).isSome) then
    { n with sentUp := chunk :: n.sentUp, held := n.held.filter (fun p => keyChunk p.1 ≠ chunk) }
  else n

/-- R440: a node that is not the root goes over to pass-through for a chunk: its note, and the inputs it holds. -/
def State.enterPass (s : State) (i : TreeInfo) (n : Node) (chunk : Nat) (p : Option Pkt) : State × Node :=
  let mine := n.held.filter (fun q => keyChunk q.1 = chunk)
  let o := s.await p.toList ((i.clustersOf i.me).length + 1)
  let s := (o.1.count (cCollPt n.die) 1).updInst n.die n.cdesc n.inst (fun x => { x with flags := x.flags ||| 1 })
  let n := { n with passed := chunk :: n.passed, notes := Tab.put chunk (o.2.getD 0) n.notes }
  let a := s.sendChunk i n i.parent chunk i.me 0 4 (List.replicate 32 0) o.2
  let a := mine.foldl (fun (a : State × Node) q =>
    a.1.passInput i a.2 q.1 q.2 (if keySub q.1 = 0 then none else o.2)) a
  (a.1, i.goneUp a.2 chunk)

/-- R431, R436, R440: an input of a chunk at a node that is not the root. -/
def State.takeInput (s : State) (i : TreeInfo) (n : Node) (key : Nat) (bs : List Byte) (p : Option Pkt) : State × Node :=
  let chunk := keyChunk key
  let (s, n) := if n.passAll && !n.passed.contains chunk then s.enterPass i n chunk none else (s, n)
  if n.passed.contains chunk then
    let o := if keySub key = 0 then s.owe p 1 else (s, Tab.find chunk n.notes)
    let a := o.1.passInput i n key bs o.2
    (a.1, i.goneUp { a.2 with held := a.2.held ++ [(key, bs)] } chunk)
  else
    let s := (s.owe p 0).1
    let n := { n with held := n.held ++ [(key, bs)] }
    if (i.inputKeys i.me chunk).all (fun k => (n.find k).isSome) then
      let a := s.sendChunk i n i.parent chunk i.me 0 0 (chunkBytes i.desc.wfmt (i.nodeValue n chunk)) none
      (a.1, i.goneUp a.2 chunk)
    else (s, n)

/-- R441: a piece of a chunk at the root. -/
def State.takePiece (s : State) (i : TreeInfo) (n : Node) (key : Nat) (bs : List Byte) (p : Option Pkt) : State × Node :=
  let chunk := keyChunk key
  let before := n
  let n := { n with held := n.held ++ [(key, bs)] }
  let s := (s.owe p 0).1.keepPieces i before n chunk
  if !i.rootPasses n chunk && (i.inputKeys i.me chunk).all (fun k => (n.find k).isSome) then
    s.finishRoot i n chunk (i.nodeValue n chunk)
  else (s, n)

/-- R442: the lowest chunk of a root's instance, over all its trees, that is not complete. -/
def State.lowestOpen (s : State) (i : TreeInfo) (n : Node) : Option Nat :=
  (List.range i.chunkCount).find? (fun c => !(s.coll.nodes.any (fun m =>
    m.die = n.die && m.cdesc = n.cdesc && m.inst = n.inst && m.results.contains (pieceKey c i.me 0))))

/-- R442: pieces and notes in the pass-through area of a root's descriptor. -/
def State.piecesKept (s : State) (i : TreeInfo) (n : Node) : Nat :=
  ((s.coll.nodes.filter (fun m => m.die = n.die && m.cdesc = n.cdesc)).map (fun m =>
    (m.held.filter (fun p => i.rootPasses m (keyChunk p.1))).length +
      (m.passed.filter (fun c => !m.results.contains (pieceKey c i.me 0))).length)).sum

/-- R442: whether the pass-through area of the root has room for a piece of a chunk. -/
def State.roomForPiece (s : State) (i : TreeInfo) (n : Node) (chunk : Nat) : Bool :=
  s.lowestOpen i n = some chunk || (s.piecesKept i n + 1) * i.desc.chunk ≤ i.desc.ptaLen * 0x200000

/-- R429: a gather slice goes up, or at the root goes down as a result. -/
def State.takeSlice (s : State) (i : TreeInfo) (n : Node) (chunk tag cl : Nat) (bs : List Byte) (p : Option Pkt) : State × Node :=
  if i.isRoot then s.spread i n chunk tag cl bs p
  else
    let o := s.owe p 1
    let a := o.1.sendChunk i n i.parent chunk tag cl 2 bs o.2
    (a.1, { a.2 with sentUp := pieceKey chunk tag cl :: a.2.sentUp })

/-- R440: a note for a chunk from a child. -/
def State.takeNote (s : State) (i : TreeInfo) (n : Node) (chunk : Nat) (p : Pkt) : State × Node :=
  if i.isRoot then
    let m := { n with passed := if n.passed.contains chunk then n.passed else chunk :: n.passed }
    let s := s.sendAck p 0
    (if i.rootPasses n chunk then s else s.keepPieces i n m chunk, m)
  else if n.passed.contains chunk then (s.joinOwed (Tab.find chunk n.notes) p, n)
  else s.enterPass i n chunk (some p)

/-- R424: the contributions of a node's own clusters go in, once. -/
def State.feedCluster (s : State) (i : TreeInfo) (n : Node) (c : Nat) : State × Node :=
  match (s.inst n.die n.cdesc n.inst).bind (fun x => if x.running then Tab.find c x.contrib else none) with
  | none => (s, n)
  | some b =>
    if n.fed.contains c then (s, n)
    else
      let n := { n with fed := c :: n.fed }
      (i.treeChunks n.tree).foldl (fun (a : State × Node) chunk =>
        let bs := byteField b (chunk * i.desc.chunk) i.desc.chunk
        if i.reduces then
          if i.isRoot then a.1.takePiece i a.2 (pieceKey chunk i.me (c + 1)) bs none
          else a.1.takeInput i a.2 (pieceKey chunk i.me (c + 1)) bs none
        else if i.desc.kind = 3 then a.1.takeSlice i a.2 chunk i.me c bs none
        else if i.isRootCluster i.me c then a.1.spread i a.2 chunk i.me c bs none
        else a) (s, n)

/-- R436: whether a result chunk waits for a `DST` that no operation of this die has named yet. -/
def State.tooEarly (s : State) (i : TreeInfo) (n : Node) (chunk tag cl : Nat) : Bool :=
  (i.clustersOf i.me).any (fun c => (i.resultOffset c chunk tag cl).isSome &&
    ((s.inst n.die n.cdesc n.inst).bind (fun x => Tab.find c x.dsts)).isNone)

/-- R436: a result chunk is taken, or waits for its places, unacknowledged (DEDUCED, log 93). -/
def State.takeEarly (s : State) (i : TreeInfo) (n : Node) (p : Pkt) : State × Node :=
  let a := p.addr.toNat
  if s.tooEarly i n (bitsOf a 24 12) (bitsOf a 36 16) (bitsOf a 52 4) then (s, { n with early := n.early ++ [p] })
  else s.spread i n (bitsOf a 24 12) (bitsOf a 36 16) (bitsOf a 52 4) p.data (some p)

/-! ### Instances end (R425, R433, R438) -/

/-- Whether a node has done all that its instance asks of it. -/
def State.nodeDone (s : State) (n : Node) : Bool :=
  match s.treeInfo n.die n.cdesc n.tree with
  | none => true
  | some i => n.outbox.isEmpty && !s.nodeBusy n false && n.sentUp.length = i.dueUp n.tree && n.results.length = i.dueResults n.tree

/-- R433: the completion record. -/
def CollInst.record (x : CollInst) (windfall : Bool) : List Byte :=
  byteField (leBytes 4 x.inst ++ leBytes 1 (if x.pruned.isEmpty then 0 else 2) ++ leBytes 1 (x.flags ||| 4 * b2n windfall) ++
    leBytes 2 (min 65535 x.pruned.length) ++ (x.pruned.take 6).flatMap (fun p =>
      leBytes 2 p.1 ++ leBytes 1 p.2.1 ++ leBytes 1 p.2.2.1 ++ leBytes 2 p.2.2.2 ++ leBytes 2 0)) 0 64

/-- One node: its contributions go in, its packets leave, and its context is released when its last partial is
acknowledged (R438). -/
def State.pumpNode (s : State) (n : Node) : State :=
  match s.treeInfo n.die n.cdesc n.tree with
  | none => s
  | some i =>
    let a := (i.clustersOf i.me).foldl (fun (a : State × Node) c => a.1.feedCluster i a.2 c) (s, n)
    let a := a.2.early.foldl (fun (a : State × Node) p => a.1.takeEarly i a.2 p) (a.1, { a.2 with early := [] })
    let a := a.1.flushNode i a.2
    let n := a.2
    let past := if i.isRoot then n.results.length = i.dueResults n.tree
      else n.sentUp.length = i.dueUp n.tree && n.outbox.isEmpty && !a.1.nodeBusy n true
    a.1.setNode (if past then { n with context := false } else n)

/-- R425, R433: an instance whose nodes on a die are done ends there. -/
def State.endInst (s : State) (x : CollInst) : State :=
  let nodes := s.coll.nodes.filter (fun n => n.die = x.die && n.cdesc = x.cdesc && n.inst = x.inst)
  if !x.running || x.ended || !nodes.all s.nodeDone then s
  else
    match s.collDesc x.die x.cdesc with
    | none => s
    | some c =>
      let s := s.writeLocal c.crec 0 (x.record c.windfall)
      let s := s.updInst x.die x.cdesc x.inst (fun y => { y with ended := true })
      let s := { s with coll := { s.coll with nodes := s.coll.nodes.filter (fun n =>
        !(n.die = x.die && n.cdesc = x.cdesc && n.inst = x.inst)) } }
      s.endFab x.die x.fq

/-- One pass over nodes and instances. -/
def State.collPass (s : State) : State :=
  let s := s.coll.nodes.foldl (fun s n => match s.node n.die n.cdesc n.tree n.inst with
    | some m => s.pumpNode m
    | none => s) s
  s.coll.insts.foldl (fun s x => match s.inst x.die x.cdesc x.inst with
    | some y => s.endInst y
    | none => s) s

/-- Whatever may go on in collectives goes on; nothing does while the job is held. -/
def State.wakeColl (s : State) : State :=
  if s.job.state = .held then s
  else (List.range (s.coll.insts.length + 1)).foldl (fun s _ => s.collPass) s

/-! ### Arrivals (R436, R437) -/

/-- What a chunk does at its node. -/
def State.takeChunk (s : State) (i : TreeInfo) (n : Node) (chunk tag cl kind : Nat) (p : Pkt) : State :=
  let bs := p.data
  let root := i.isRoot
  let direct := (i.kidsOf i.me).contains tag
  let busy := root && (kind = 1 || kind = 4 || (kind = 0 && !direct)) && !s.roomForPiece i n chunk
  if busy then (s.setNode n).sendAck p 5
  else
    let n := { n with seen := p.addr.toNat % 2 ^ 61 :: n.seen }
    let a := match kind with
      | 0 => if root then s.takePiece i n (pieceKey chunk tag 0) bs (some p)
        else if direct then s.takeInput i n (pieceKey chunk tag 0) bs (some p) else (s.sendAck p 0, n)
      | 1 => if root then s.takePiece i n (pieceKey chunk tag (cl + 1)) bs (some p) else (s.sendAck p 0, n)
      | 2 => s.takeSlice i n chunk tag cl bs (some p)
      | 3 => s.takeEarly i n p
      | 4 => s.takeNote i n chunk p
      | _ =>
        ((s.sendAck p 0).updInst n.die n.cdesc n.inst
          (fun x => { x with pruned := x.pruned ++ [(field bs 2 2, (i.nodeAt (field bs 0 2)).die, n.tree, field bs 0 2)] }), n)
    a.1.setNode a.2

/-- R437: a chunk arrives at a die. -/
def State.receiveChunk (s : State) (p : Pkt) : State :=
  let a := p.addr.toNat
  let d := bitsOf a 62 2
  let c := bitsOf a 0 12
  let i12 := bitsOf a 12 12
  let t := bitsOf a 59 2
  let kind := bitsOf a 56 3
  let cur := s.instCount d c
  let s := if i12 = (cur + 1) % 4096 then s.openNode d c t (cur + 1) else s
  match s.coll.nodes.find? (fun n => n.die = d && n.cdesc = c && n.tree = t && n.inst % 4096 = i12), s.treeInfo d c t with
  | some n, some i =>
    if kind > 5 then s
    else if n.seen.contains (a % 2 ^ 61) then
      let released := i.reduces && kind < 2 && !n.context && !n.passAll
      let s := s.count (if released then cCollStale d else cCollDup d) 1
      if s.answerWaits p || n.early.any (fun q => q.src = p.src && q.seq = p.seq) then s else s.sendAck p 0
    else s.takeChunk i n (bitsOf a 24 12) (bitsOf a 36 16) (bitsOf a 52 4) kind p
  | _, _ => (s.count (cCollStale d) 1).sendAck p 0

/-- A `COLL` packet arrives. -/
def State.arriveColl (s : State) (p : Pkt) : State :=
  s.deliver p tColl (bitsOf p.addr.toNat 62 2) (s.tagMatches p) (fun s => (s.receiveChunk p).wakeColl)

def execCollPartial (p : Pkt) (s : State) : Result := done (s.arriveColl p)
def execCollResult (p : Pkt) (s : State) : Result := done (s.arriveColl p)
def execCollNote (p : Pkt) (s : State) : Result := done (s.arriveColl p)
def execPruneReport (p : Pkt) (s : State) : Result := done (s.arriveColl p)

/-- R441, R442: the root completes the lowest incomplete chunk of a tree from its pieces, if all are present. -/
def State.completePass (s : State) (d cdesc chunk : Nat) : State :=
  let trees := ((s.collDesc d cdesc).map (·.trees)).getD 1
  match s.coll.nodes.find? (fun n => n.die = d && n.cdesc = cdesc && n.tree = chunk % trees) with
  | none => s
  | some n =>
    match s.treeInfo d cdesc n.tree with
    | none => s
    | some i =>
      if !i.isRoot || s.lowestOpen i n ≠ some chunk || !i.rootPasses n chunk then s
      else match i.rebuild n chunk i.tree.length i.me with
      | none => s
      | some v =>
        let mine := n.held.filter (fun p => keyChunk p.1 = chunk)
        let v := if i.desc.windfall then
            reduceAll i.desc.rop (i.desc.dfmt = 14) (mine.map (fun p => pieceVals i.desc p.1 p.2)) else v
        let cycles := ceilDiv (mine.length * v.length) 2048 + 12
        let s := (s.reach (s.cc + cycles)).count (cPtRootCc d) cycles
        let s := (if n.passAll then s.count (cCollPt d) 1 else s).updInst d cdesc n.inst
          (fun x => { x with flags := x.flags ||| (2 + b2n n.passAll) })
        let a := s.finishRoot i n chunk v
        (a.1.setNode a.2).wakeColl

def execPassThroughComplete (d : Fin 4) (cdesc : Nat) (chunk : Nat) (s : State) : Result :=
  done (s.completePass d cdesc chunk)

/-! ### Issue (R422, R425) -/

/-- R422, R438: an instance of a descriptor starts on a die. -/
def State.issueColl (s : State) (d cdesc : Nat) : State :=
  let i := s.instCount d cdesc + 1
  let old := s.coll.insts.filter (fun (x : CollInst) => !(x.die = d && x.cdesc = cdesc && x.ended))
  let new : CollInst := { die := d, cdesc := cdesc, inst := i }
  let unit := { s.coll with counts := Tab.put (d * 4096 + cdesc) i s.coll.counts, insts := old ++ [new] }
  let trees := ((s.collDesc d cdesc).map (·.trees)).getD 0
  ((List.range trees).foldl (fun (s : State) t => s.openNode d cdesc t i) { s with coll := unit }).count (cCollIssued d) 1

/-- R425: `CBIND` binds the newest unbound instance of the die to a queue. -/
def State.bindColl (s : State) (d q : Nat) : State :=
  match s.coll.insts.reverse.find? (fun x => x.die = d && x.fq = 255) with
  | none => s
  | some x =>
    let s := s.updInst d x.cdesc x.inst (fun y => { y with fq := q })
    (s.pushFab d q { op := 0x10, desc := [], coll := some (x.cdesc, x.inst) }).wakeColl

/-- R425: what reading a `CBIND` slot finds. -/
def State.planCbind (s : State) (d : Nat) (arg : BitVec 56) : SlotPlan :=
  if slotField arg 55 1 ≠ 0 || slotField arg 0 52 ≠ 0 then .bad
  else if (s.fabQueue d (slotField arg 52 3)).length ≥ 8 then .wait 3 else .ok

/-- R53, R56: what reading a `COLL_ISSUE` operand finds. -/
def State.planCollIssue (s : State) (d : Nat) (operand : BitVec 24) : SlotPlan :=
  if operand.toNat ≥ 65536 || (s.collDesc d operand.toNat).isNone then .bad else .ok

def execCbind (d : Fin 4) (arg : BitVec 56) (s : State) : Result :=
  done (s.slotAlone d 0x10 [] (·.planCbind d arg) (fun s => s.bindColl d (slotField arg 52 3)))

def execCollIssue (d : Fin 4) (operand : BitVec 24) (s : State) : Result :=
  done (s.slotAlone d 5 [] (·.planCollIssue d operand) (fun s => s.issueColl d operand.toNat))

/-! ### The end of a cluster operation -/

/-- R423: whether the result due to a cluster is written. -/
def State.resultWritten (s : State) (n cdesc : Nat) : Bool :=
  match s.coll.insts.reverse.find? (fun x => x.die = n / 16 && x.cdesc = cdesc && (Tab.find (n % 16) x.contrib).isSome),
    s.treeInfo (n / 16) cdesc 0 with
  | some x, some i => Tab.get 0 (n % 16) x.delivered ≥ i.resultBytes (n % 16)
  | _, _ => false

/-- Replaces or removes the operation at a place in a cluster's list. -/
def State.setOp (s : State) (n i : Nat) (o : Option ClusterOp) : State :=
  let c := s.cluster n
  s.setCluster n { c with ops := match o with
    | some o => c.ops.set i o
    | none => c.ops.eraseIdx i }

/-- R423: a `GET` form whose result has come runs its compute half, or ends (DEDUCED, log 45). -/
def State.getResult (s : State) (n i : Nat) (o : ClusterOp) : State :=
  match o.thenOp with
  | none => s.setOp n i none
  | some (op, b) =>
    match s.planThen n op b with
    | .ok units slots dur now effs accOnly =>
      (s.applyAll now).setOp n i (some { o with
        units := units, slots := slots, accOnly := accOnly, due := s.cc + dur, effects := effs, waitColl := none, thenOp := none })
    | .badMeta c a => s.metaFault n o.op c a
    | _ => s.imageFault (n / 16)

/-- R50, R142: the writes of a cluster's operation land; among vector operations that end in one cycle, those of the unit with the
higher index remain (DEDUCED, log 120). -/
def State.landOp (s : State) (n : Nat) (o : ClusterOp) : State :=
  let s := s.hideFrom n o.effects
  if 0x40 ≤ o.op && o.op < 0x70 then s.landRanked 1 ((maskBits 8 (o.units / 2)).foldl max 0) o.effects else s.applyAll o.effects

/-- R50, R423, R598: an operation of a cluster ends: its writes land and its claims go. A `GET` form first posts, and stays
until its result is written. -/
def State.endOp (s : State) (n i : Nat) : State :=
  match (s.cluster n).ops[i]? with
  | none => s
  | some o =>
    let s := (s.reach o.due).landOp n o
    match o.waitColl with
    | none => s.setOp n i none
    | some c =>
      let o := { o with effects := [] }
      let s := (s.setOp n i (some o)).wakeColl
      if s.resultWritten n c then s.getResult n i o else s

def execOperationEnd (n : Fin 64) (i : Nat) (s : State) : Result := done (s.endOp n i).wakeColl

end Sys2Proof.Machine
end

