-- ==== Sys2Proof/Machine/Kernel.lean ====
section
/-! DEFINITION. Items of a Clearing and the kernels that run them (R60, R61, R143 to R148): taking an entry, and the words
of the scalar cores. -/

namespace Sys2Proof.Machine

/-! ### The kernel table (R144) -/

def kernelCount (t : List Byte) : Nat := field t 0 4
def kernelStart (t : List Byte) (k core : Nat) : Nat := field t (8 + 16 * k + 2 * core) 2
def kernelMask (t : List Byte) (k : Nat) : Nat := field t (8 + 16 * k + 8) 4

/-- Word `i` of the code; beyond the placed code a word reads 0 (DEDUCED, log 82). -/
def kernelWord (t : List Byte) (i : Nat) : Nat :=
  if i < field t 4 4 then field t (8 + 16 * kernelCount t + 8 * i) 8 else 0

/-- The kernel memory of the clusters of a die. -/
def State.kernels (s : State) (d : Nat) : List Byte := s.sectionBytes 5 d

/-! ### Taking an entry (R60, R61, R145) -/

/-- R61: the list that a cluster of die-local region `q` takes from: its own, else the next that holds an entry. -/
def Window.listFor (w : Window) (q : Nat) : Option Nat :=
  (List.range 4).map (fun i => (q + i) % 4) |>.find? (fun j => w.next.getD j 0 < (w.lists.getD j (0, 0)).2)

/-- R145: the registers of a core at the start of an item. -/
def itemRegs (e : List Byte) (q index : Nat) : Vector Word 32 :=
  let r : Vector Word 32 := Vector.replicate 32 0
  let w (v : Nat) : Word := BitVec.ofNat 64 v
  ((((r.set! 1 (w (field e 0 8))).set! 2 (w (field e 8 8))).set! 3 (w (field e 16 8))).set! 4 (w (field e 24 8))).set! 5
    (w (q * 65536 + index))

/-- R60, R61, R145: at cycle `at1` a cluster without an item takes one if its die's window has an entry left. The bytes of an entry are
those at its take; `COUNT` is that of the open (DESIGN CHOICE, log 111; DEDUCED, log 83). -/
def State.takeItem (s : State) (at1 n : Nat) : State :=
  let d := n / 16
  let q := s.seq d
  match q.window with
  | none => s
  | some w =>
    let c := s.cluster n
    if !(w.clusters.testBit (n % 16)) || c.item.isSome then s
    else match w.listFor (n % 16 / 4) with
    | none => s
    | some j =>
      let i := w.next.getD j 0
      let e := getBlock zeroByte (windowBase d + (w.lists.getD j (0, 0)).1 + 32 + 32 * i) 32 s.sram
      let k := field e 28 2
      let t := s.kernels d
      let s := s.setSeq d { q with window := some { w with next := w.next.set j (i + 1) } }
      if k ≥ kernelCount t || field e 30 2 ≥ 2 then s.kernelFault n 0 k 0xFFFF
      else
        let cost := if j = n % 16 / 4 then 6 else 24
        let c := c.zeroSlots (kernelMask t k)
        s.setCluster n { c with
          item := some ⟨j, i, k, e⟩
          cores := c.cores.mapIdx (fun core (_ : Core) =>
            { regs := itemRegs e j i, pc := kernelStart t k core, running := true, freeAt := at1 + cost }) }

/-- R61: order of takes: by cycle, and in one cycle by cluster number. -/
def takesFirst (a b : Nat × Nat) : Bool := a.1 < b.1 || (a.1 = b.1 && a.2 ≤ b.2)

/-- R61: the clusters of a die that take an entry up to a cycle take it, those of one cycle in ascending order (DEDUCED, log 105). -/
def State.grantTakes (s : State) (d limit : Nat) : State :=
  match (s.seq d).window with
  | none => s
  | some w =>
    let now := w.takers.filter (fun t => t.1 ≤ limit)
    let s := s.setSeq d { s.seq d with window := some { w with takers := w.takers.filter (fun t => t.1 > limit) } }
    (sortBy takesFirst now).foldl (fun (s : State) t => s.takeItem t.1 (16 * d + t.2)) s

/-- R145: the item of a cluster ends; the cluster takes the next entry in the following cycle (DEDUCED, log 105). -/
def State.endItem (s : State) (n : Nat) : State :=
  let s := s.setCluster n { s.cluster n with item := none }
  let q := s.seq (n / 16)
  match q.window with
  | some w => s.setSeq (n / 16) { q with window := some { w with
      lastEnd := max w.lastEnd s.cc, takers := w.takers ++ [(s.cc + 1, n % 16)] } }
  | none => s

/-- R61: a cluster without an item that is about to take an entry takes it, after those whose turn comes before its own. -/
def State.dueTake (s : State) (n : Nat) : State :=
  if (s.cluster n).item.isSome then s
  else match (s.seq (n / 16)).window.bind (fun w => w.takers.find? (fun t => t.2 = n % 16)) with
  | some t => s.grantTakes (n / 16) t.1
  | none => s

/-! ### Words -/

/-- A register (R143). -/
def Core.reg (c : Core) (r : Nat) : Word := if r = 0 then 0 else c.regs.getD r 0

/-- A register written: x0 ignores writes (R143). -/
def Core.setReg (c : Core) (r : Nat) (v : Word) : Core := if r = 0 then c else { c with regs := c.regs.set! r v }

/-- The fields of a word (R146). -/
def wOp (w : Nat) : Nat := bitsOf w 56 8
def wFn (w : Nat) : Nat := bitsOf w 48 8
def wRd (w : Nat) : Nat := bitsOf w 43 5
def wRs1 (w : Nat) : Nat := bitsOf w 38 5
def wRs2 (w : Nat) : Nat := bitsOf w 33 5
def wImm (w : Nat) : Word := BitVec.ofInt 64 (signExt 32 w)

/-- R146: whether a word is one of the forms (DEDUCED, log 82). -/
def wordDefined (w : Nat) : Bool :=
  match wOp w with
  | 0x01 => true
  | 0x02 => true
  | 0x03 => true
  | 0x04 => true
  | 0x05 => true
  | 0x10 => wFn w % 128 ≤ 12
  | 0x20 => wFn w ≤ 3
  | 0x21 => wFn w ≤ 3
  | 0x30 => wFn w ≤ 5
  | 0x31 => true
  | _ => false

/-- A core of a cluster. -/
def Cluster.core (c : Cluster) (core : Nat) : Core := c.cores.getD core {}

def State.setCore (s : State) (n core : Nat) (f : Core → Core) : State :=
  let c := s.cluster n
  s.setCluster n { c with cores := Machine.setCore c core f }

/-- A word completes (R143): the core's next word and the cycle in which it may run. -/
def State.nextWord (s : State) (n core pc latency : Nat) : State :=
  s.setCore n core (fun k => { k with pc := pc, freeAt := s.cc + latency })

/-- Kernel index of the item of a cluster. -/
def Cluster.kernel (c : Cluster) : Nat := (c.item.map (·.kernel)).getD 0

/-- R148: a kernel fault at the word that a core is at. -/
def State.wordFault (s : State) (n core : Nat) : State :=
  s.kernelFault n core (s.cluster n).kernel ((s.cluster n).core core).pc

/-- R31, R148: a kernel address fault of a core. -/
def State.coreAddrFault (s : State) (n core status addr : Nat) : State :=
  s.hold { kind := 4, unit := unitLocator n 2 core, die := n / 16, check := status, detail := leBytes 8 addr }

/-- Runs the word that a core is at if the core runs and the word has the opcode; a word of no form is a kernel fault.
With the core stopped or waiting, or at a word of another form, nothing happens. -/
def State.word (s : State) (n core op : Nat) (f : State → Core → Nat → State) : State :=
  let s := if s.job.state = .held then s else s.dueTake n
  let c := s.cluster n
  let k := c.core core
  if s.job.state = .held || c.item.isNone || !k.running || k.waiting.isSome then s
  else
    let w := kernelWord (s.kernels (n / 16)) k.pc
    if !wordDefined w then s.wordFault n core
    else if wOp w ≠ op then s
    else f (s.reach k.freeAt) k w

/-- R146: `ISSUE`. -/
def State.wIssue (s : State) (n core : Nat) (k : Core) (w : Nat) : State :=
  let op := bitsOf w 40 8
  let arg := BitVec.ofNat 40 (bitsOf w 0 40)
  if isCollOp op then s.wordFault n core
  else match clusterPlan op with
  | none => s.wordFault n core
  | some plan =>
    match s.attempt n op arg plan with
    | .bad => s.wordFault n core
    | .badMeta c a => s.metaFault n op c a
    | .refuse a st => s.coreAddrFault n core st a
    | .wait => s
    | .go o now => (s.accept n o now).nextWord n core (k.pc + 1) 1

/-- R146: `WAITU`. -/
def State.wWaitu (s : State) (n core : Nat) (k : Core) (w : Nat) : State :=
  let m := bitsOf w 0 12
  if (s.cluster n).ops.all (fun o => o.units &&& m = 0 && !(bitAt m 0 && o.accOnly)) then
    s.nextWord n core (k.pc + 1) 1
  else s

/-- R146: `SIGNAL`. -/
def State.wSignal (s : State) (n core : Nat) (k : Core) (w : Nat) : State :=
  let s := (maskBits 4 (bitsOf w 0 4)).foldl (fun s j => s.setCore n j (fun c => { c with flags := c.flags ||| 2 ^ core })) s
  s.nextWord n core (k.pc + 1) 1

/-- R146: `WAITSIG`. -/
def State.wWaitsig (s : State) (n core : Nat) (k : Core) (w : Nat) : State :=
  let m := bitsOf w 0 4
  if k.flags &&& m = m then
    (s.setCore n core (fun c => { c with flags := c.flags - m })).nextWord n core (k.pc + 1) 1
  else s

/-- R146, R145, R403: `END`. -/
def State.wEnd (s : State) (n core : Nat) (k : Core) (_w : Nat) : State :=
  if k.outstanding ≠ 0 then s
  else
    let s := s.setCore n core (fun c => { c with running := false, freeAt := s.cc + 1 })
    if (s.cluster n).cores.all (fun c => !c.running) then s.endItem n else s

/-- R146: the functions of `ALU`. -/
def aluResult (fn : Nat) (a b : Word) : Word :=
  let sh := b.toNat % 64
  match fn with
  | 0 => a + b
  | 1 => a - b
  | 2 => a * b
  | 3 => a &&& b
  | 4 => a ||| b
  | 5 => a ^^^ b
  | 6 => a <<< sh
  | 7 => a >>> sh
  | 8 => a.sshiftRight sh
  | 9 => BitVec.ofNat 64 (b2n (a.slt b))
  | 10 => BitVec.ofNat 64 (b2n (a.ult b))
  | 11 => if a.slt b then a else b
  | _ => if a.slt b then b else a

/-- R146: `ALU`. -/
def State.wAlu (s : State) (n core : Nat) (k : Core) (w : Nat) : State :=
  let b := if bitAt (wFn w) 7 then wImm w else k.reg (wRs2 w)
  (s.setCore n core (fun c => c.setReg (wRd w) (aluResult (wFn w % 128) (k.reg (wRs1 w)) b))).nextWord n core (k.pc + 1) 1

/-- R146: the conditions of `BR`. -/
def brTaken (cond : Nat) (a b : Word) : Bool :=
  match cond with
  | 0 => a == b
  | 1 => a != b
  | 2 => a.slt b
  | 3 => !a.slt b
  | 4 => a.ult b
  | _ => !a.ult b

/-- R146: `BR`. -/
def State.wBr (s : State) (n core : Nat) (k : Core) (w : Nat) : State :=
  s.nextWord n core (if brTaken (wFn w) (k.reg (wRs1 w)) (k.reg (wRs2 w)) then bitsOf w 0 16 else k.pc + 1) 1

/-- R146: `JMP`. -/
def State.wJmp (s : State) (n core : Nat) (_k : Core) (w : Nat) : State := s.nextWord n core (bitsOf w 0 16) 1

/-- R403: the 32-byte units that a scalar access touches: start, and the bytes of the access in each (offset in the unit,
offset in the access, count). -/
def scalarUnits (a size : Nat) : List (Nat × Nat × Nat × Nat) :=
  let u := a / 32 * 32
  let n := min size (u + 32 - a)
  (u, a - u, 0, n) :: (if n < size then [(u + 32, 0, n, size - n)] else [])

/-- R416: an access to a destination without a route ends with status 6 at its source. -/
def State.coreNoRoute (s : State) (n core : Nat) (addr : Nat) : State :=
  let s := (s.noteStatus (n / 16) 8 0xFF addr 6).noteEnd (n / 16) 8 true
  s.remoteFault (n / 16) 8 6 (unitLocator n 2 core) addr

/-- R146, R290, R328, R403: `LD`. -/
def State.wLd (s : State) (n core : Nat) (k : Core) (w : Nat) : State :=
  let a := (k.reg (wRs1 w) + wImm w).toNat
  let size := 2 ^ wFn w
  match s.localOf a with
  | some l =>
    match s.rangeFault (n / 16) l size with
    | some f => s.coreAddrFault n core f.2 f.1
    | none =>
      let s := (s.count cStageMiss (s.missingPages l size).length).wakeRanges [(l, size)]
      let v := leNat (s.readLocal l size)
      let lat := s.latency n l + s.wakeWait [(l, size)]
      ((s.noteRead l size 0).setCore n core (fun c => c.setReg (wRd w) (BitVec.ofNat 64 v))).nextWord n core (k.pc + 1) lat
  | none =>
    let dest := a / 2 ^ 48
    let u := a % 2 ^ 48 / 32 * 32
    let len := 32 * (scalarUnits (a % 2 ^ 48) size).length
    if s.noRoute dest then s.coreNoRoute n core a
    else
      let s := (s.setCore n core (fun c => { c with waiting := some dest })).nextWord n core (k.pc + 1) 1
      s.post (n / 16) (s.newPkt dest tLoadReq 0 32 u (leBytes 2 len ++ [0, 1])) (.coreLoad n core (wRd w) (a % 2 ^ 48 - u) size)

/-- R403: the packet of one unit of a remote store: its data bytes and its byte mask (DESIGN CHOICE, log 47). -/
def State.maskedStore (s : State) (dest : Nat) (bytes : List Byte) (u : Nat × Nat × Nat × Nat) : Pkt :=
  let data := List.replicate u.2.1 0 ++ (bytes.drop u.2.2.1).take u.2.2.2
  let mask := (2 ^ u.2.2.2 - 1) * 2 ^ u.2.1
  s.newPkt dest tStore 0 32 u.1 (byteField data 0 32 ++ leBytes 4 mask)

/-- R146, R328, R403: `ST`. -/
def State.wSt (s : State) (n core : Nat) (k : Core) (w : Nat) : State :=
  let a := (k.reg (wRs1 w) + wImm w).toNat
  let size := 2 ^ wFn w
  let bytes := leBytes size (k.reg (wRs2 w)).toNat
  match s.localOf a with
  | some l =>
    match s.rangeFault (n / 16) l size with
    | some f => s.coreAddrFault n core f.2 f.1
    | none =>
      let s := (s.count cStageMissW (s.missingPages l size).length).wakeRanges [(l, size)]
      let lat := (if nearBase n ≤ l && l < nearBase n + nearSize then 1 else s.latency n l) + s.wakeWait [(l, size)]
      (s.writeLocal l 0 bytes).nextWord n core (k.pc + 1) lat
  | none =>
    let dest := a / 2 ^ 48
    let us := scalarUnits (a % 2 ^ 48) size
    if s.noRoute dest then s.coreNoRoute n core a
    else
      let s := (s.setCore n core (fun c => { c with outstanding := c.outstanding + us.length })).nextWord n core (k.pc + 1) 1
      us.foldl (fun s u => s.post (n / 16) (s.maskedStore dest bytes u) (.coreStore n core)) s

/-! ### The meanings -/

def execIssue (n : Fin 64) (core : Fin 4) (s : State) : Result :=
  done (s.word n core 0x01 (fun s k w => s.wIssue n core k w))
def execWaitu (n : Fin 64) (core : Fin 4) (s : State) : Result :=
  done (s.word n core 0x02 (fun s k w => s.wWaitu n core k w))
def execSignal (n : Fin 64) (core : Fin 4) (s : State) : Result :=
  done (s.word n core 0x03 (fun s k w => s.wSignal n core k w))
def execWaitsig (n : Fin 64) (core : Fin 4) (s : State) : Result :=
  done (s.word n core 0x04 (fun s k w => s.wWaitsig n core k w))
def execEndWord (n : Fin 64) (core : Fin 4) (s : State) : Result :=
  done (s.word n core 0x05 (fun s k w => s.wEnd n core k w))
def execAlu (n : Fin 64) (core : Fin 4) (s : State) : Result :=
  done (s.word n core 0x10 (fun s k w => s.wAlu n core k w))
def execLd (n : Fin 64) (core : Fin 4) (s : State) : Result :=
  done (s.word n core 0x20 (fun s k w => s.wLd n core k w))
def execSt (n : Fin 64) (core : Fin 4) (s : State) : Result :=
  done (s.word n core 0x21 (fun s k w => s.wSt n core k w))
def execBr (n : Fin 64) (core : Fin 4) (s : State) : Result :=
  done (s.word n core 0x30 (fun s k w => s.wBr n core k w))
def execJmp (n : Fin 64) (core : Fin 4) (s : State) : Result :=
  done (s.word n core 0x31 (fun s k w => s.wJmp n core k w))

end Sys2Proof.Machine
end

