-- ==== Sys2Proof/Machine/SaveMarks.lean ====
section
/-! DEFINITION. The save-mark table (R501 to R503): its header, its entries and their live ranges. -/

namespace Sys2Proof.Machine

/-- A live range (R502): address, 16 KiB units, flags. -/
structure LiveRange where
  addr : Nat
  units : Nat
  flags : Nat
  deriving DecidableEq, Repr

/-- Bytes of a unit of a live range (R499). -/
def unitBytes : Nat := 16384

/-- Bytes of a range. -/
def LiveRange.len (r : LiveRange) : Nat := r.units * unitBytes

/-- A save-mark entry (R502). -/
structure SaveMark where
  body : Nat
  set : Nat
  ranges : List LiveRange
  deriving DecidableEq, Repr

/-- R501: `MARKS`, `SB_SLOT`, `SB_MODE` and `RATE` of the table's header. -/
def saveMarkCount (t : List Byte) : Nat := field t 0 4
def sbSlotOf (t : List Byte) : Nat := field t 8 8
def sbModeOf (t : List Byte) : Nat := field t 16 1
def sbRateOf (t : List Byte) : Nat := if field t 17 1 = 0 then 50 else field t 17 1

/-- Entry `i` of the table. -/
def saveMarkEntry (t : List Byte) (i : Nat) : SaveMark :=
  let b := (t.drop (64 + 32 * i)).take 32
  let roff := field b 8 8
  { body := field b 0 4, set := field b 16 8
    ranges := (List.range (field b 4 2)).map (fun k =>
      let r := (t.drop (roff + 16 * k)).take 16
      { addr := field r 0 8, units := field r 8 4, flags := field r 12 1 }) }

/-- The entry for a next body index, if the table holds one. -/
def saveMarkAt (t : List Byte) (body : Nat) : Option SaveMark :=
  ((List.range (saveMarkCount t)).find? (fun i => field t (64 + 32 * i) 4 = body)).map (saveMarkEntry t)

/-- Whether two ranges share a byte. -/
def LiveRange.meets (a b : LiveRange) : Bool := a.addr < b.addr + b.len && b.addr < a.addr + a.len

/-- No range of a list meets a later one. -/
def rangesApart : List LiveRange → Bool
  | [] => true
  | r :: l => !l.any (r.meets ·) && rangesApart l

/-- R502, R503: what of an entry does not depend on the layout: reserved fields, counts, alignment and `SET`. -/
def saveMarkOk (t : List Byte) (i : Nat) : Bool :=
  let b := (t.drop (64 + 32 * i)).take 32
  let e := saveMarkEntry t i
  let reserved := field b 6 2 = 0 && field b 24 8 = 0 && (List.range (field b 4 2)).all (fun k =>
    let r := (t.drop (field b 8 8 + 16 * k)).take 16
    r.length = 16 && field r 12 1 < 2 && field r 13 3 = 0)
  b.length = 32 && reserved && 1 ≤ field b 4 2 && field b 4 2 ≤ 120 &&
    e.ranges.all (fun r => r.addr % unitBytes = 0 && 1 ≤ r.units) && rangesApart e.ranges &&
    e.set = 4096 + (e.ranges.map LiveRange.len).sum && (sbModeOf t = 0 || e.set + 64 ≤ sbSlotOf t)

/-- Bodies of the entries strictly rise. -/
def bodiesRise (t : List Byte) : Nat → Bool
  | 0 => true
  | 1 => true
  | n + 1 => field t (64 + 32 * (n - 1)) 4 < field t (64 + 32 * n) 4 && bodiesRise t n

/-- R501 to R503: the table is well formed, but for the places of its ranges. -/
def saveMarksOk (t : List Byte) : Bool :=
  let n := saveMarkCount t
  let slot := sbSlotOf t
  64 ≤ t.length && 1 ≤ n && n ≤ 65536 && field t 4 4 = 0 && field t 18 46 = 0 && sbModeOf t ≤ 2 && field t 17 1 ≤ 200 &&
    (if sbModeOf t = 0 then slot = 0 else slot % 0x200000 = 0 && 0x1000000 ≤ slot && slot ≤ 0x1400000000) &&
    bodiesRise t n && (List.range n).all (saveMarkOk t)

end Sys2Proof.Machine
end

