-- ==== Sys2Proof/Machine/Stream.lean ====
section
/-! DEFINITION. The stream of a die (R44 to R63, R422): fetching and reading a bundle, its checks, the waits that hold it, its
issue as a whole, and the operations of the control slot. -/

namespace Sys2Proof.Machine

/-! ### Bundles -/

/-- A bundle as its slots (R47 to R49): cluster slots as opcode and operand, the three 64-bit slots as opcode and operand,
and the control slot. -/
structure Bundle where
  clusters : List (Nat × Nat) := []
  sill : Nat × Nat := (0, 0)
  mem : Nat × Nat := (0, 0)
  fab : Nat × Nat := (0, 0)
  ctl : Nat := 0
  operand : Nat := 0
  hold : Nat := 0
  reserved : Nat := 0
  deriving DecidableEq, Repr

/-- R47: the slots of the 128 bytes of a bundle. -/
def bundleOf (bytes : List Byte) : Bundle :=
  let v := leNat bytes
  let wide (lo : Nat) : Nat × Nat := (bitsOf v (lo + 56) 8, bitsOf v lo 56)
  { clusters := (List.range 16).map (fun c => (bitsOf v (48 * c + 40) 8, bitsOf v (48 * c) 40))
    sill := wide 768, mem := wide 832, fab := wide 896
    ctl := bitsOf v 1000 8, operand := bitsOf v 976 24, hold := bitsOf v 960 16, reserved := bitsOf v 1008 16 }

/-- The cluster slots in use: die-local cluster, opcode, operand. -/
def Bundle.used (b : Bundle) : List (Nat × Nat × Nat) :=
  (b.clusters.zipIdx.map (fun p => (p.2, p.1.1, p.1.2))).filter (fun x => x.2.1 ≠ 0)

/-- R48: a slot without operation has every other bit 0, and every opcode is one that its class defines. -/
def Bundle.slotsDefined (b : Bundle) : Bool :=
  b.reserved = 0 && b.clusters.all (fun c => if c.1 = 0 then c.2 = 0 else (clusterPlan c.1).isSome) &&
    (if b.sill.1 = 0 then b.sill.2 = 0 else [1, 2, 3, 4, 0x0F, 0x10, 0x11, 0x12, 0x13].contains b.sill.1) &&
    (if b.mem.1 = 0 then b.mem.2 = 0 else b.mem.1 ≤ 4) &&
    (if b.fab.1 = 0 then b.fab.2 = 0 else [1, 2, 4, 0x10, 0x11, 0x3F].contains b.fab.1) &&
    b.ctl ≤ 6 && (b.ctl ≠ 0 || b.operand = 0)

/-! ### Reading the control slot -/

/-- R44, R54: whether the save-mark table holds an entry for a body (R506). -/
def State.hasSaveMark (s : State) (body : Nat) : Bool :=
  (saveMarkAt (s.sectionBytes 3 0) body).isSome

/-- R53 to R63: the control slot of a bundle refuses before anything waits. -/
def State.ctlBad (s : State) (d ctl operand : Nat) : Bool :=
  let q := s.seq d
  match ctl with
  | 1 => bitsOf operand 20 2 ≠ 0 || (!s.job.cmdlist && bitsOf operand 0 20 ≥ s.job.bodyCount) ||
    (bitAt operand 23 && !s.job.training) || (bitAt operand 22 && !s.hasSaveMark (bitsOf operand 0 20))
  | 2 => bitsOf operand 4 4 ≠ 0 || bitsOf operand 16 8 ≠ 0 || !operand.testBit d ||
    (List.range 4).any (fun e => e ≠ d && operand.testBit e && (match (s.seq e).sync with
      | some (m, id, _) => m.testBit d && id ≠ bitsOf operand 8 8
      | none => false))
  | 3 => operand ≥ 65536 || q.window.isSome || (match s.clearDesc d operand with
      | none => true
      | some c => c.reserved || c.length < 64 || c.length > 12000000 || c.clusters = 0 ||
        (List.range 4).any (fun k => c.lists.getD k 0 ≠ 0 && !s.inWindow (c.lists.getD k 0) (32 + 32 * c.maxes.getD k 0)))
  | 4 => operand ≠ 0 || q.window.isNone
  | 5 => operand ≥ 65536 || (s.collDesc d operand).isNone
  | 6 => operand ≠ 0
  | _ => operand ≠ 0

/-- R59: the lists of a Clearing descriptor that are present: region, offset, `COUNT`. -/
def State.clearLists (s : State) (d : Nat) (c : ClearDesc) : List (Nat × Nat) :=
  (List.range 4).map (fun k =>
    let off := c.lists.getD k 0
    (off, if off = 0 then 0 else leNat (s.readLocal (windowBase d + off) 4)))

/-- R59, R60, R63: a `CLEAR_OPEN` waits for its clusters, whose operations may still write the lists; then lists that are fenced or
overfull are faults. -/
def State.clearPlan (s : State) (d operand : Nat) : SlotPlan :=
  match s.clearDesc d operand with
  | none => .bad
  | some c =>
    if (maskBits 16 c.clusters).any (fun k => !(s.cluster (16 * d + k)).ops.isEmpty) then .wait 0
    else match (c.lists.zip c.maxes).findSome? (fun l =>
        if l.1 = 0 then none else s.rangeFault d (windowBase d + l.1) (32 + 32 * l.2)) with
    | some f => .refuse f.1 f.2
    | none => if ((s.clearLists d c).zip c.maxes).any (fun l => l.1.2 > l.2) then .bad else .ok

/-- R63: whether every item of a window is done. -/
def State.windowDone (s : State) (d : Nat) (w : Window) : Bool :=
  (maskBits 16 w.clusters).all (fun k => (s.cluster (16 * d + k)).item.isNone) &&
    (List.range 4).all (fun q => w.next.getD q 0 ≥ (w.lists.getD q (0, 0)).2)

/-- R422: the collective slots of a bundle agree with its control slot. -/
def State.collBad (s : State) (d : Nat) (b : Bundle) : Bool :=
  let coll := b.used.filter (fun x => isCollOp x.2.1)
  if b.ctl ≠ 5 then !coll.isEmpty
  else
    let part := s.collClusters d b.operand
    b.fab.1 ≠ 0x10 || coll.any (fun x => !part.testBit x.1) ||
      (maskBits 16 part).any (fun c => !coll.any (fun x => x.1 = c)) ||
      coll.any (fun x => match s.wideDescriptor (16 * d + x.1) (BitVec.ofNat 40 x.2.2) with
        | some w => field w 32 2 ≠ b.operand
        | none => true)

/-- R63: a slot of a cluster that takes part in an open window, or in the window that this bundle opens. -/
def State.windowBad (s : State) (d : Nat) (b : Bundle) : Bool :=
  let open1 := match (s.seq d).window with
    | some w => if b.ctl = 4 then 0 else w.clusters
    | none => 0
  let open2 := if b.ctl = 3 then ((s.clearDesc d b.operand).map (·.clusters)).getD 0 else 0
  b.used.any (fun x => (open1 ||| open2).testBit x.1)

/-- R46, R57: a bundle's place in its body. -/
def State.placeBad (s : State) (d : Nat) (b : Bundle) : Bool :=
  let n := (s.bodyOf d).2
  let i := (s.seq d).bundle
  (b.ctl = 1) ≠ (i + 1 = n) || (b.ctl = 6 && i + 2 ≠ n)

/-! ### Plans of a whole bundle -/

/-- What the slots of a bundle find, as die-level plans. -/
def State.slotPlans (s : State) (d : Nat) (b : Bundle) : List SlotPlan :=
  let sill := match b.sill.1 with
    | 0 => []
    | 0x0F => [s.planSfence d (BitVec.ofNat 56 b.sill.2)]
    | op => [s.planSillage d op (BitVec.ofNat 56 b.sill.2)]
  let mem := match b.mem.1 with
    | 0 => []
    | 4 => [s.planMwait d (BitVec.ofNat 56 b.mem.2)]
    | op => [s.planCopy d op (BitVec.ofNat 56 b.mem.2)]
  let fab := match b.fab.1 with
    | 0 => []
    | 4 => [s.planFwait d (BitVec.ofNat 56 b.fab.2)]
    | 0x10 => [s.planCbind d (BitVec.ofNat 56 b.fab.2)]
    | 0x11 => [s.planCfence d (BitVec.ofNat 56 b.fab.2)]
    | op => [s.planFab d op (BitVec.ofNat 56 b.fab.2)]
  let ctl := if b.ctl = 3 then [s.clearPlan d b.operand] else []
  sill ++ mem ++ fab ++ ctl

/-- The attempts of a bundle's cluster slots. -/
def State.attempts (s : State) (d : Nat) (b : Bundle) : List (Nat × Nat × Attempt) :=
  b.used.map (fun x => (16 * d + x.1, x.2.1, match clusterPlan x.2.1 with
    | some plan => s.attempt (16 * d + x.1) x.2.1 (BitVec.ofNat 40 x.2.2) plan
    | none => .bad))

/-- R597: the level of the wait that decides, if any slot waits. -/
def waitLevel (ps : List SlotPlan) (as : List (Nat × Nat × Attempt)) : Option Nat :=
  let levels := ps.filterMap (fun p => match p with
    | .wait l => some l
    | _ => none)
  let levels := if as.any (fun a => a.2.2 == .wait) then levels ++ [0] else levels
  if levels.contains 3 then some 3 else if levels.contains 2 then some 2 else levels.head?

/-- The fault that a bundle's slots find once nothing waits. -/
def State.slotFault (s : State) (d : Nat) (b : Bundle) (ps : List SlotPlan) (as : List (Nat × Nat × Attempt)) : Option State :=
  if ps.any (· == .bad) || as.any (fun a => a.2.2 == .bad) then some (s.imageFault d)
  else match as.findSome? (fun a => match a.2.2 with
      | .badMeta c x => some (s.metaFault a.1 a.2.1 c x)
      | .refuse x st => some (s.clusterAddrFault a.1 a.2.1 (BitVec.ofNat 40 (b.clusters.getD (a.1 % 16) (0, 0)).2) st x)
      | _ => none) with
    | some t => some t
    | none => ps.findSome? (fun p => match p with
      | .badMeta c x => some (s.hold { kind := 3, die := d, check := c, detail := leBytes 1 0x3F ++ leBytes 8 x })
      | .refuse x st f => some (s.hold { kind := 4, func := f, die := d, check := st, detail := leBytes 8 x })
      | _ => none)

/-! ### SYNC, Clearing and the end of a body -/

/-- R55: a die arrives at its `SYNC`; when every die of the mask waits with the identifier, all are let go 5 cc after the last
arrival. Dies that wait with one identifier are let go by the mask of the die that arrives last (DESIGN CHOICE, log 110). -/
def State.arriveSync (s : State) (d operand t : Nat) : State :=
  let mask := bitsOf operand 0 4
  let id := bitsOf operand 8 8
  let q := s.seq d
  let s := if q.sync.isSome then s else s.setSeq d { q with sync := some (mask, id, t) }
  let dies := maskBits 4 mask
  let at4 (e : Nat) : Option Nat := match (s.seq e).sync with
    | some (_, i, a) => if i = id && (s.seq e).syncAt.isNone then some a else none
    | none => none
  if dies.all (fun e => (at4 e).isSome) then
    let go := (dies.filterMap at4).foldl max 0 + 5
    dies.foldl (fun s e => s.setSeq e { s.seq e with syncAt := some go }) s
  else s

/-- R59 to R61: the window opens and its clusters take entries in ascending order. -/
def State.openWindow (s : State) (d operand t : Nat) : State :=
  match s.clearDesc d operand with
  | none => s
  | some c =>
    let w : Window := { openAt := t, length := if s.job.cmdlist then 64 else c.length, clusters := c.clusters
                        lists := s.clearLists d c, next := [0, 0, 0, 0], lastEnd := t
                        takers := (maskBits 16 c.clusters).map (fun k => (t, k)) }
    (s.setSeq d { s.seq d with window := some w }).grantTakes d t

/-- R54, R57: when the last of the four dies waits, operands and `JOB_END` must agree; the fault is at the `TICK_WAIT` of the die
that waited last (DESIGN CHOICE, log 109). -/
def State.compareWaits (s : State) (d : Nat) : State :=
  let qs := (List.range 4).map s.seq
  if qs.any (fun q => q.waiting.isNone) then s
  else if qs.any (fun q => q.waiting ≠ (s.seq d).waiting || q.jobEnd ≠ (s.seq d).jobEnd) then s.imageFaultAt d ((s.seq d).bundle - 1)
  else s

/-! ### Issue -/

/-- The operations of a bundle's slots are accepted. -/
def State.acceptSlots (s : State) (d : Nat) (b : Bundle) (as : List (Nat × Nat × Attempt)) : State :=
  let s := if b.ctl = 5 then s.issueColl d b.operand else s
  let s := if b.fab.1 = 0x10 then s.bindColl d (slotField (BitVec.ofNat 56 b.fab.2) 52 3) else s
  let s := as.foldl (fun s a => match a.2.2 with
    | .go o now => s.accept a.1 o now
    | _ => s) s
  let s := if b.sill.1 = 0 || b.sill.1 = 0x0F then s else s.joinSillage d b.sill.1 (BitVec.ofNat 56 b.sill.2)
  let s := if b.mem.1 = 0 || b.mem.1 = 4 then s else s.joinCopy d b.mem.1 (BitVec.ofNat 56 b.mem.2)
  match b.fab.1 with
  | 0 => s
  | 4 => s
  | 0x10 => s
  | 0x11 => s.closeCfence d
  | op => s.joinFab d op (BitVec.ofNat 56 b.fab.2)

/-- The control operation of a bundle that issues at cycle `t`. -/
def State.doControl (s : State) (d ctl operand t : Nat) : State :=
  match ctl with
  | 1 => (s.setSeq d { s.seq d with waiting := some operand, waitAt := t }).compareWaits d
  | 2 => s.setSeq d { s.seq d with sync := none, syncAt := none }
  | 3 => s.openWindow d operand t
  | 4 => s.setSeq d { s.seq d with window := none }
  | 6 => s.setSeq d { s.seq d with jobEnd := true }
  | _ => s

/-- A bundle issues as a whole at cycle `t`, after a wait of a level and cause (R49, R51) (DESIGN CHOICE, log 80). -/
def State.issueAt (s : State) (d : Nat) (b : Bundle) (as : List (Nat × Nat × Attempt)) (level cause t : Nat) : State :=
  let ready := s.fetchReady d
  let s := ((s.endHold d level cause t).reach t).acceptSlots d b as
  let q := s.seq d
  let s := s.setSeq d { q with bundle := q.bundle + 1, freeAt := t + b.hold + 1, fetchAt := ready, recent := (t :: q.recent).take 64 }
  s.doControl d b.ctl b.operand t

/-- Whether a slot of a die's bundle needs a part: any slot needs the die, a Sillage slot the units of Sillage, and an operation the
memory that refuses it while fenced. -/
def State.slotsNeed (s : State) (d : Nat) (b : Bundle) (key : Nat) : Bool :=
  let any := !b.used.isEmpty || b.sill.1 ≠ 0 || b.mem.1 ≠ 0 || b.fab.1 ≠ 0
  (key = stateKey 3 d && any) || ((sillageUnits d).contains key && b.sill.1 ≠ 0) ||
    (1 ≤ key / 2 ^ 16 && key / 2 ^ 16 ≤ 3 && ((s.without key).slotPlans d b).any SlotPlan.refused &&
      !(s.slotPlans d b).any SlotPlan.refused)

/-- R33, R51, R533: whether a bundle needs a part. -/
def State.bundleNeeds (s : State) (d : Nat) (b : Bundle) (key : Nat) : Bool :=
  s.slotsNeed d b key || b.used.any (fun x => match clusterPlan x.2.1 with
    | some plan => s.attemptNeeds (16 * d + x.1) x.2.1 (BitVec.ofNat 40 x.2.2) plan key
    | none => false)

/-- R55: a bundle with `SYNC` that nothing else holds arrives at cycle `t`, or issues once the dies of its mask are let go. -/
def State.syncBundle (s : State) (d : Nat) (b : Bundle) (as : List (Nat × Nat × Attempt)) (t : Nat) : State :=
  let s := if (s.seq d).sync.isSome then s
    else
      let s := (s.unblock d t).arriveSync d b.operand t
      s.setSeq d { s.seq d with blocked := some (3, 4, t) }
  match (s.seq d).syncAt with
  | none => s
  | some go => s.issueAt d b as 3 4 go

/-- R51, R597: a bundle that nothing faults, at the earliest cycle that freeze duty, fetch and wake-up leave: it waits for its window,
for what it needs to wake, for its units, queues, lists and `SYNC`, or issues. -/
def State.tryBundle (s : State) (d : Nat) (b : Bundle) : State :=
  let s := if b.ctl = 4 then s.grantTakes d (s.issueCycle d) else s
  match s.thawed (max (s.issueCycle d) (s.fetchReady d)) with
  | none => s.holdBundle d 3 2
  | some t0 =>
    if b.ctl = 4 && (s.seq d).window.any (fun w => !s.windowDone d w) then s.holdBundle d 2 windowWait
    else match s.wakeNeeded t0 (s.bundleNeeds d b) with
    | .hold s => s.holdBundle d 1 3
    | .from1 s ready =>
      let ps := s.slotPlans d b
      let as := s.attempts d b
      match waitLevel ps as with
      | some l => (s.openCfence d b.fab).holdBundle d l 0
      | none =>
        match s.slotFault d b ps as with
        | some t => t
        | none =>
          let t1 := (s.thawed ready).getD ready
          if b.ctl = 2 then s.syncBundle d b as t1
          else if b.ctl = 4 then
            match (s.seq d).window with
            | some w => s.issueAt d b as 2 windowWait (max t1 (max (w.openAt + w.length) w.lastEnd))
            | none => s
          else s.issueAt d b as 1 3 t1

/-- R46 to R48, R57, R63, R422: the checks of a bundle that come before any wait. -/
def State.bundleBad (s : State) (d : Nat) (b : Bundle) : Bool :=
  !b.slotsDefined || s.ctlBad d b.ctl b.operand || s.windowBad d b || s.collBad d b

/-- Whether the sequencer of a die issues at all: the job runs, the tick has started, and the die is not in `TICK_WAIT`. -/
def State.streams (s : State) (d : Nat) : Bool :=
  s.job.state = .running && s.tick.started && (s.seq d).waiting.isNone

/-- R51, R52, R58: the bundle that a die is at issues, waits or faults. -/
def State.issueBundle (s : State) (d : Nat) : State :=
  if !s.streams d || (s.seq d).bundle ≥ (s.bodyOf d).2 then s
  else
    let a := s.bundleAddr d
    match s.rangeFault d a 128 with
    | some f => s.addrFault d f.2 a
    | none =>
      let b := bundleOf (s.readLocal a 128)
      if s.bundleBad d b || s.placeBad d b then s.imageFault d else s.tryBundle d b

def execBundleIssue (d : Fin 4) (s : State) : Result := done (s.issueBundle d).wakeColl

/-- A control operation as the only slot of a bundle that stands where it may. -/
def State.controlAlone (s : State) (d ctl : Nat) (operand : BitVec 24) : State :=
  if s.job.state = .held || (s.seq d).waiting.isSome then s
  else if s.ctlBad d ctl operand.toNat then s.imageFault d
  else s.tryBundle d { ctl := ctl, operand := operand.toNat }

def execTickWait (d : Fin 4) (operand : BitVec 24) (s : State) : Result := done (s.controlAlone d 1 operand)
def execSync (d : Fin 4) (operand : BitVec 24) (s : State) : Result := done (s.controlAlone d 2 operand)
def execClearOpen (d : Fin 4) (operand : BitVec 24) (s : State) : Result := done (s.controlAlone d 3 operand)
def execClearClose (d : Fin 4) (s : State) : Result := done (s.controlAlone d 4 0)
def execJobEnd (d : Fin 4) (s : State) : Result := done (s.controlAlone d 6 0)

end Sys2Proof.Machine
end

