-- ==== Sys2Proof/Machine/TickBase.lean ====
section
/-! DEFINITION. Ticks: the boundary that a tick ends at, the start of a tick, the release, the records on the beacon tree
(R71 to R73), overruns (R76) and the stretch that a device requests (R316, R544). -/

namespace Sys2Proof.Machine

/-! ### The boundary -/

/-- Whether all four dies wait in their `TICK_WAIT` (R54). -/
def State.allWait (s : State) : Bool := ([0, 1, 2, 3] : List Nat).all (fun d => (s.seq d).waiting.isSome)

/-- The operand of the `TICK_WAIT`s of the tick. -/
def State.boundary (s : State) : Nat := (s.seq 0).waiting.getD 0

/-- R53, R54: next body, `SAVE` and `STEP` of the boundary; in a command-list job every boundary is both (R503). -/
def State.nextBodyOf (s : State) : Nat := bitsOf s.boundary 0 20
def State.isSave (s : State) : Bool := s.job.cmdlist || bitAt s.boundary 22
def State.isStep (s : State) : Bool := s.job.cmdlist || bitAt s.boundary 23

/-- R497: whether every copy, fabric, Sillage and collective operation has ended. -/
def State.queuesIdle (s : State) : Bool :=
  s.copies.all (fun p => p.2.isEmpty) && s.fab.queues.all (fun p => p.2.isEmpty) &&
    s.sill.all (fun p => p.2.choice.isEmpty && p.2.exch.isEmpty) && s.coll.insts.all (fun i => i.ended)

/-- Whether tick `count` is complete but for its edge: it has started and all four dies wait. -/
def State.tickDone (s : State) : Bool := s.job.state == .running && s.tick.started && s.allWait

/-- R327: the job's last tick is committed, and its dirty pages are not all written back. -/
def State.endPending (s : State) : Bool :=
  s.job.state == .running && !s.tick.started && s.job.committed == some s.tick.count.toNat &&
    ([0, 1, 2, 3] : List Nat).any (fun d => (s.seq d).jobEnd)

/-! ### Start of a tick -/

/-- R256: a die whose body for tick `t` is empty waits at once; one whose body is not built waits for it with cause 5. -/
def State.startCmdlistDie (s : State) (t d : Nat) : State :=
  if (Tab.find t s.job.lists).isNone then
    (s.count (ctrKey 4 d 66) 1).setSeq d { s.seq d with waiting := some 0, waitAt := s.cc }
  else if (Tab.find (bodyKey d t) s.job.built).any (fun b => b.1 = t) then s
  else s.holdBundle d 2 5

/-- R52: the cycle from which a die fetches the body of the next tick: it prefetches while it waits in `TICK_WAIT`, and before the
release. -/
def State.prefetchFrom (s : State) (d : Nat) : Nat := if (s.seq d).waiting.isSome then (s.seq d).waitAt else s.cc - 128

/-- R54, R67: tick `t` starts with a body; holds and registrations change at its edge (R334, R467). A window that is still open is
dropped (DESIGN CHOICE, log 116). -/
def State.startTick (s : State) (t body : Nat) : State :=
  let s := s.setTick { s.tick with
    count := BitVec.ofNat 64 t, started := true
    stretchedTicks := s.tick.stretchedTicks.filter (fun k => k ≥ t)
    lateLog := s.tick.lateLog.filter (fun p => p.1 ≥ t) }
  let s := (s.tierEdge t).tablesEdge
  let s := s.setJob { s.job with nextBody := body, lists := s.job.lists.filter (fun p => p.1 ≥ t) }
  let s := ([0, 1, 2, 3] : List Nat).foldl (fun (s : State) d =>
    s.setSeq d { body := body, freeAt := s.cc, fetchAt := s.prefetchFrom d }) s
  if s.job.cmdlist then ([0, 1, 2, 3] : List Nat).foldl (fun (s : State) d => s.startCmdlistDie t d) s else s

/-! ### Records on the beacon tree -/

/-- R73: body of a beacon. -/
def beaconBody (tick stretch flags sender corr : Nat) : List Byte :=
  leBytes 6 tick ++ leBytes 2 stretch ++ leBytes 1 flags ++ leBytes 1 sender ++ leBytes 2 0 ++ leBytes 4 corr ++ leBytes 16 0

/-- R73: body of a beacon reply. -/
def replyBody (tick flags cause stretch : Nat) : List Byte :=
  leBytes 6 tick ++ leBytes 1 flags ++ leBytes 1 cause ++ leBytes 2 stretch ++ leBytes 22 0

/-- R73: body of a `READY`. -/
def readyBody (tag status epoch : Nat) : List Byte := leBytes 2 tag ++ leBytes 1 status ++ leBytes 1 0 ++ leBytes 4 epoch ++ leBytes 24 0

/-- A beacon record leaves on one port, addressed to the peer there (R72). -/
def State.sendTree (s : State) (p typ : Nat) (body : List Byte) : State :=
  if p < 8 && s.portUp p then s.transmit p false (s.newPkt (s.port p).peer.toNat typ 0 32 0 body).sealed else s

/-- Ports of the children in the beacon tree. -/
def State.childPorts (s : State) : List Nat := maskBits 8 s.fab.children.toNat

/-- A record goes to every child. -/
def State.sendChildren (s : State) (typ : Nat) (body : List Byte) : State :=
  s.childPorts.foldl (fun (s : State) p => s.sendTree p typ body) s

/-- R71, R73: the rank in which a device sends beacons. -/
def State.senderRank (s : State) : Nat := s.tick.backup.toNat

/-! ### Stretch requests -/

/-- R544: the stretch for freeze duty. -/
def State.thermalStretch (s : State) : Nat :=
  let d := if s.duty ≥ 64 then 48 else s.duty
  let slack := s.tick.period.toNat - s.job.workCc
  if s.duty = 0 then 0 else ceilDiv (s.job.workCc * d - slack * (64 - d)) (12 * (64 - d))

/-- R316: the stretch while a stack refreshes at ×4. -/
def State.refreshStretch (s : State) : Nat :=
  if s.hbmStacks.any (fun p => p.2.rate = 4) then ceilDiv (s.tick.period.toNat * 80) 12000 else 0

/-- R316, R544: stretch requested and its cause bits. -/
def State.stretchRequest (s : State) : Nat × Nat :=
  let t := s.thermalStretch
  let r := s.refreshStretch
  (min 65535 (t + r), b2n (t ≠ 0) + 2 * b2n (r ≠ 0))

/-! ### Overruns -/

/-- R83: the stall cause with the most cycles in the tick, over all four dies; the lower code of equals (DESIGN CHOICE, log 117). -/
def State.largestCause (s : State) : Nat :=
  let total (c : Nat) : Nat := (([0, 1, 2, 3] : List Nat).map (fun d => Tab.get 0 c (s.seq d).stalls)).sum
  (List.range 6).foldl (fun b c => if total c > total b then c else b) 0

/-- R83: an overrun log entry. -/
def overrunEntry (tick late dies cause : Nat) : List Byte :=
  leBytes 8 tick ++ leBytes 4 (min late 0xFFFFFFFF) ++ leBytes 1 (dies % 16 + 16 * cause) ++ leBytes 3 0

/-- R11: one more overrun is counted in this cycle. -/
def State.freshOverruns (s : State) : Nat × Nat × Nat :=
  let f := s.tick.ovrFresh
  if f.1 = s.cc && f.2.2 ≠ 0 then (f.1, f.2.1, f.2.2 + 1) else (s.cc, s.tick.ovrCount.toNat, 1)

/-- R76, R83: tick `t` overruns at an edge: the log entry, the count, and, for a single device, `REPRO`. Until the commit the entry's
`LATE_CC` and `CAUSE` read 0, and a tick that has not started names all four dies (DESIGN CHOICE, log 117). -/
def State.overran (s : State) (t : Nat) : State :=
  let late := if t = s.tick.count.toNat && s.tick.started then
      (([0, 1, 2, 3] : List Nat).filter (fun d => (s.seq d).waiting.isNone)).foldl (fun m d => m + 2 ^ d) 0
    else 15
  let i := s.tick.ovrHead.toNat
  let repro := s.tick.repro && s.job.multi
  s.setTick { s.tick with
    ovrLog := Tab.put i (overrunEntry t 0 late 0) s.tick.ovrLog
    ovrHead := BitVec.ofNat 4 (i + 1)
    ovrCount := BitVec.ofNat 32 (satAdd 32 s.tick.ovrCount.toNat 1), ovrFresh := s.freshOverruns
    lateLog := Tab.put t (i, s.tick.edge) s.tick.lateLog
    ovrFlag := true
    repro := repro }

/-- R83: `LATE_CC` and `CAUSE` of a tick that overran, once its last `TICK_WAIT` has been reached. -/
def State.closeOverrun (s : State) (t : Nat) : State :=
  match Tab.find t s.tick.lateLog with
  | none => s
  | some (i, edge) =>
    let e := Tab.get [] i s.tick.ovrLog
    if field e 0 8 ≠ t then s
    else
      let last := (([0, 1, 2, 3] : List Nat).map (fun d => (s.seq d).waitAt)).foldl max 0
      s.setTick { s.tick with
        ovrLog := Tab.put i (overrunEntry t (last - edge) (field e 12 1) s.largestCause) s.tick.ovrLog }

/-! ### Release -/

/-- The master's beacon at an edge of tick `t` (R71): what its children's replies and its host asked for since the last. -/
def State.sendBeacon (s : State) (t : Nat) : State :=
  let r := s.tick.replies
  let ovr := r.flags.getLsbD 0
  let flags := r.cause.toNat % 8 + 16 * b2n ovr + 32 * s.tick.markReq
  let s := if s.job.multi then s.sendChildren tBeacon (beaconBody t r.stretch flags s.senderRank 0) else s
  let from1 (k : Nat) (old : Option Nat) : Option Nat := if s.tick.markReq = k && old.isNone then some (t + 1) else old
  s.setTick { s.tick with
    strNext := BitVec.ofNat 16 r.stretch, strCause := BitVec.ofNat 4 (r.cause.toNat % 8)
    repro := s.tick.repro && !ovr
    stopFrom := from1 1 s.tick.stopFrom, snapFrom := from1 2 s.tick.snapFrom
    markReq := 0, replies := {} }

/-- R584: `TICK_MON` is pulsed at a tick edge of a running job. -/
def State.tickMon (s : State) : State := if s.job.state == .running then s.send (.pin 1 true) else s

/-- R67: the release: it is edge `S` of the job, in the current cycle (DEDUCED, log 93; DESIGN CHOICE, log 96). -/
def State.release (s : State) (S : Nat) : State :=
  let body := if s.job.resumeTick = 0 then s.job.entryBody else s.job.nextBody
  let s := s.setJob { s.job with stepNo := if S = 0 then 0 else s.job.stepNo, everReleased := true }
  let s := s.setJobState .running
  let s := s.setTick { s.tick with
    run := true, edges := true, missedFor := none, repro := true, beaconOk := false, missed := 0, ovrHead := 0, ovrLog := [], lateLog := []
    edge := s.cc, nextEdge := s.cc + s.tick.period.toNat, nextNo := S + 1
    strCur := 0, strNext := 0, strCause := 0, stretchedTicks := []
    ovrFlag := false, align := false, replies := {}, markReq := 0, stopFrom := none, snapFrom := none
    release := .idle, lastBeacon := none }
  let s := { s with
    ctr := [], coll := {}
    fab := { s.fab with comps := [], routers := s.fab.routers.map (fun (p : Nat × Router) => (p.1, { p.2 with fences := 0, opNo := 0, openFence := none })) }
    seed := { s.seed with pending := false, cutTick := none }
    power := { s.power with peaks := [], tickPeak := 0, sinceRelease := 0 } }
  let s := (s.startTick S body).tickMon
  if s.tick.master || !s.job.multi then s.sendBeacon S else s

/-! ### Ends of a run -/

/-- The device stops: edges, the job tag (R391), waiting beacons. `RUN` stays until the end of the job (R82). -/
def State.endRun (s : State) : State :=
  let s := s.setTick { s.tick with
    edges := false, started := false, master := false, release := .idle, pendingReady := none, stopFrom := none,
    snapFrom := none, markReq := 0 }
  s.setFab { s.fab with jobTag := 0 }

/-- R467: result of `JOB_STOP`: tick and step of the last committed boundary (DEDUCED, log 42). -/
def State.stopResult (s : State) : List Byte := leBytes 8 (s.job.committed.getD 0) ++ leBytes 8 s.job.committedStep.toNat

/-- A `JOB_STOP` that waits for its mark completes (R473), or goes on to unload. -/
def State.finishStop (s : State) : State :=
  match s.longIs 0x12 with
  | some l =>
    if l.phase ≠ 1 then s
    else if bitAt (field l.req.request 0 1) 1 then s.setLong { l with phase := 2 }
    else s.finishLong sOk 0 s.stopResult
  | none => s

end Sys2Proof.Machine
end

