-- ==== Sys2Proof/Machine/Snapshot.lean ====
section
/-! DEFINITION. Snapshots (R497 to R500), set headers (R504), hosted slots (R507, R508, R513), pulls and the end of a restore
(R516 to R519), and the sets of durable checkpoints (R522 to R524). -/

namespace Sys2Proof.Machine

/-! ### Set headers -/

/-- A stored range of a set: the range, its `RFLAGS` as stored, its stored size. -/
abbrev StoredRange := LiveRange × Nat × Nat

/-- R504: the range entries of a header, `DOFF` from an offset on. -/
def rangeEntries : Nat → List StoredRange → List Byte
  | _, [] => []
  | off, r :: l =>
    leBytes 8 r.1.addr ++ leBytes 8 r.1.len ++ leBytes 8 off ++ leBytes 1 r.2.1 ++ leBytes 7 0 ++ rangeEntries (off + r.2.2) l

/-- What a cut records beside the ranges: generation, next body, step, first tick. -/
structure CutPoint where
  gen : Nat
  body : Nat
  step : Nat
  tick : Nat
  deriving DecidableEq, Repr

/-- R504: the 4 KiB set header. -/
def State.setHeader (s : State) (magic : String) (c : CutPoint) (rs : List StoredRange) : List Byte :=
  let len := setHeaderSize + (rs.map (fun r => r.2.2)).sum
  let flags := b2n (rs.any (fun r => r.2.1.testBit 1))
  let fixed := ascii magic ++ leBytes 8 c.gen ++ leBytes 2 s.job.tag.toNat ++ leBytes 2 s.fab.coord.toNat ++ leBytes 4 c.body ++
    leBytes 6 c.step ++ leBytes 2 0 ++ leBytes 8 len ++ leBytes 8 s.job.seed.toNat ++ leBytes 6 c.tick ++ leBytes 2 rs.length ++
    leBytes 4 s.tick.period.toNat ++ leBytes 1 s.tick.guard.toNat ++ leBytes 1 flags ++ leBytes 2 0 ++
    byteField (if s.job.cmdlist then [] else s.job.digest) 0 64
  byteField (byteField fixed 0 256 ++ rangeEntries setHeaderSize rs) 0 setHeaderSize

/-- R503: the ranges of a command-list job: every placed section and every `PINNED` segment, in whole units. -/
def State.cmdlistRanges (s : State) : List LiveRange :=
  let whole (a n : Nat) : LiveRange :=
    { addr := a / unitBytes * unitBytes, units := ceilDiv (a + n - a / unitBytes * unitBytes) unitBytes, flags := 0 }
  ((s.job.sections.filter (fun x => x.load ≠ 0)).map (fun x => whole x.load x.bytes.length) ++
    (s.job.segments.filter (fun g => g.cls = 1)).map (fun g => whole g.base g.size)).take 120

/-- R497: the live ranges of the boundary before a body. -/
def State.rangesAt (s : State) (body : Nat) : Option (List LiveRange) :=
  if s.job.cmdlist then some s.cmdlistRanges else (saveMarkAt (s.sectionBytes 3 0) body).map (·.ranges)

/-- The step that the boundary of the current tick ends (R285), whether or not its tick has been committed yet. -/
def State.stepAtCut (s : State) : Nat :=
  if s.job.committed = some s.tick.count.toNat then s.job.stepNo.toNat else s.job.stepNo.toNat + 1

/-! ### Durable checkpoints -/

/-- R524: the FP32 bytes of a narrowed range of `n` bytes. -/
def widened (n : Nat) (bs : List Byte) : List Byte :=
  let count := n / 4
  let elems := unpackCodes 8 (bs.take count)
  let scales := (byteField bs count (count / 32)).map (·.toNat)
  packCodes 32 ((mxRowValues .mx8a count (count / 32) elems scales []).map (fp32.encode .rne))

/-- R522, R523: the set of a checkpoint: header and stored ranges. -/
def State.ckptSet (s : State) (c : CutPoint) (rs : List LiveRange) : List Byte :=
  let stored := rs.map (fun r =>
    let bs := s.readLocal r.addr r.len
    if r.flags.testBit 0 then (r, r.flags + 2, narrowed bs) else (r, r.flags, bs))
  s.setHeader "CKPTHDR1" c (stored.map (fun r => (r.1, r.2.1, r.2.2.length))) ++ stored.flatMap (fun r => r.2.2)

/-- R522, R352: a checkpoint's set has been taken: it is written, or waits for its generation; one that does not fit fails. -/
def State.haveCheckpoint (s : State) (l : LongCmd) (c : CutPoint) (rs : List LiveRange) (phase : Nat) : State :=
  let k := s.ckptTarget
  let gen := max (s.ckptSlot 0).gen (s.ckptSlot 1).gen + 1
  let data := s.ckptSet { c with gen := gen } rs
  if data.length + 4096 > s.und.ckptUnits * 0x200000 then s.finishLong sCkptFailed k []
  else
    let l := { l with phase := phase, note := k, data := if phase = 1 then data else data.take setHeaderSize }
    if phase = 1 then
      let units := rs.flatMap (fun r => (List.range r.units).map (fun k => r.addr + unitBytes * k))
      (s.noteReads (rs.map (fun r => (r.addr, r.len))) 0).beginCheckpoint { l with unread := units }
    else s.setLong l

/-- R352: the checkpoint is written, and its commit record last: after whatever data its page holds. -/
def State.endCheckpoint (s : State) (l : LongCmd) : State :=
  let k := l.note % 2
  let last := byteField (l.data.drop ((s.slotPages - 1) * pageSize)) 0 (pageSize - 4096) ++ commitRecord l.data
  match s.programPage (s.commitKey k) last with
  | none => s.finishLong sCkptFailed k []
  | some s =>
  let s := s.checkReadOnly
  let gen := field l.data 8 8
  let step := field l.data 24 6
  let slot : CkptSlot := { gen := gen, tag := field l.data 16 2, step := step, committed := true, digest := sha512 l.data, data := l.data }
  let s := { s with und := { s.und with slots := Tab.put k slot s.und.slots } }
  s.finishLong sOk 0 (leBytes 8 k ++ leBytes 8 gen ++ leBytes 8 step)

/-! ### The cut (R497) -/

/-- R79, R525: whether a snapshot acts at the boundary of the current tick, and has not been cut. -/
def State.cutDue (s : State) : Bool :=
  s.isStep && s.isSave && s.tick.snapFrom.any (fun k => k ≤ s.tick.count.toNat) && s.seed.cutTick ≠ some s.tick.count.toNat &&
    !([0, 1, 2, 3] : List Nat).any (fun d => (s.seq d).jobEnd)

/-- R505: the homes that a new generation is written to. -/
def State.homesInUse (s : State) : List Nat :=
  let b := s.seed.buddy.toNat
  if s.seed.mode = 1 then [s.fab.coord.toNat]
  else if s.seed.mode = 2 && s.seed.tag ≠ 0 then
    (if bitAt b 32 then [bitsOf b 0 16] else []) ++ (if bitAt b 33 then [bitsOf b 16 16] else [])
  else []

/-- The units of a list of ranges, from a set offset on. -/
def State.unitsFrom (s : State) : Nat → List LiveRange → List CopyUnit
  | _, [] => []
  | off, r :: l =>
    (List.range r.units).map (fun k =>
      { off := off + unitBytes * k, addr := r.addr + unitBytes * k, bytes := s.readLocal (r.addr + unitBytes * k) unitBytes }) ++
      s.unitsFrom (off + r.len) l

/-- R509, R511: a generation begins: an invalidate goes to every home. -/
def State.beginGeneration (s : State) (c : CutPoint) (rs : List LiveRange) : State :=
  let header := s.setHeader "SEEDBNK1" c (rs.map (fun r => (r, r.flags, r.len)))
  let units := s.unitsFrom setHeaderSize rs
  let homes := s.homesInUse
  let s := s.noteReads (units.map (fun u => (u.addr, unitBytes))) 0
  let s := (s.setCopying { gen := c.gen, step := c.step, header := header, units := units, unread := units.map (·.addr)
                           buddy := s.seed.buddy.toNat, homes := homes.foldl (fun t h => Tab.put h 0 t) [] }).count cSbCuts 1
  let s := match s.longIs 0x40 with
    | some l => s.setLong { l with phase := 1 }
    | none => s
  homes.foldl (fun (s : State) h => s.sendSnap h 0 2 (c.gen % 2) s.tagPlace (List.replicate 64 0) 0) s

/-- R512: no cut is taken because a copy is busy. -/
def State.skipCut (s : State) : State :=
  let s := ({ s with seed := { s.seed with lastEnd := 1 } }).count cSbSkip 1
  let s := s.report 0x44 s.sbStatus
  match s.longIs 0x40 with
  | some l => if l.phase = 0 then s.finishLong sAborted 0 [] else s
  | none => s

/-- R497, R498, R512: the cut of the boundary of the current tick (DEDUCED, log 95). -/
def State.takeCut (s : State) : State :=
  let t := s.tick.count.toNat
  let wants := (s.longIs 0x42).filter (fun l => l.phase = 0)
  let s := (s.setTick { s.tick with snapFrom := none }).setSeed { s.seed with cutTick := some t, pending := false }
  match s.rangesAt s.nextBodyOf with
  | none => s
  | some rs =>
    let c : CutPoint := { gen := s.seed.counter + 1, body := s.nextBodyOf, step := s.stepAtCut, tick := t + 1 }
    if s.seed.copying.isSome then
      (if wants.isSome then s.setTick { s.tick with snapFrom := some (t + 1) } else s).skipCut
    else
      let late := s.tick.nextNo ≥ t + 3
      let s := match wants with
        | some l => if late then s.finishLong sCkptFailed s.ckptTarget []
                    else s.haveCheckpoint l c rs (if s.homesInUse.isEmpty then 1 else 2)
        | none => s
      let s := s.setSeed { s.seed with counter := s.seed.counter + 1 }
      if late then (s.count cSbLate 1).endCut 2
      else if s.homesInUse.isEmpty then (if wants.isSome then s.count cSbCuts 1 else s.endCut 5)
      else s.beginGeneration c rs

/-- R497: the cut happens once every die waits and every queue has ended. The tick after a committed boundary starts with it. -/
def State.snapshotCut (s : State) : State :=
  if s.job.state == .running && s.allWait && s.queuesIdle && s.cutDue && (s.tick.started || s.seed.pending) then
    let was := s.seed.pending
    let s := s.takeCut
    if was then s.startTick (s.tick.count.toNat + 1) s.nextBodyOf else s
  else s

def execSnapshotCut (s : State) : Result := done s.snapshotCut

/-! ### Writes into units that are not read (R499) -/

/-- Units of the bounce buffer (R499). -/
def bounceUnits : Nat := 16384

/-- R499, R522: the units that are being copied and not read, and the units in the bounce buffer: of a generation, or of a checkpoint
with a cut of its own. -/
def State.copyUnits (s : State) : List Nat × List Nat :=
  match s.seed.copying with
  | some c => (c.unread, c.bounce)
  | none => match s.longIs 0x42 with
    | some l => (l.unread, l.bounce)
    | none => ([], [])

/-- The units that are left to read, and the bounce buffer, of what is being copied. -/
def State.setCopyUnits (s : State) (unread bounce : List Nat) : State :=
  match s.seed.copying with
  | some c => s.setCopying { c with unread := unread, bounce := bounce }
  | none => match s.longIs 0x42 with
    | some l => s.setLong { l with unread := unread, bounce := bounce }
    | none => s

/-- R320, R499, R522: a write into units that are copied and not read waits while they are, and is then performed. -/
def State.copyAhead (s : State) (addr : Nat) (data : List Byte) : State :=
    let (unread, held) := s.copyUnits
    let hit := unread.filter (fun a => a < addr + data.length && addr < a + unitBytes)
    if hit.isEmpty || held.length + hit.length > bounceUnits then s
    else
      let bounce := held ++ hit
      let s := s.setCopyUnits (unread.filter (fun a => !hit.contains a)) bounce
      let s := (s.count cSbCbwUnits hit.length).count cSbCbwWait (Config.holdCycles s.free % 2401)
      let s := s.setCount cSbBounce (max (s.counter cSbBounce) (bounce.length * unitBytes))
      s.spend.writeLocal addr 0 data

def execCopyBeforeWrite (addr : BitVec 48) (data : List Byte) (s : State) : Result := done (s.copyAhead addr.toNat data)

/-! ### The home's side (R513) -/

/-- R515: whether an area's granule for a place in a slot is mapped. -/
def State.areaMapped (s : State) (area k off : Nat) : Bool :=
  ((Tab.get [] area s.seed.areas).getD ((k * s.seed.slotBytes + off) / granule) unmapped) ≠ unmapped

/-- R513: the area that accepts a packet, if its tag, source, offset and reserved bits are right. -/
def State.snapArea (s : State) (p : Pkt) : Option Nat :=
  let a := s.areaOf p.src.toNat
  let tagOk := p.jobTag ≠ 0 && p.jobTag = s.snapTagFor p.src.toNat
  if tagOk && snapOff p % 32 = 0 && snapOff p + p.len.toNat ≤ s.seed.slotBytes && p.addr.toNat < 2 ^ 44 then
    a.filter (fun x => (Tab.find x s.seed.areas).isSome && s.areaMapped x (snapSlot p) (snapOff p))
  else none

/-- A `SNAP` packet of a kind arrives: it is delivered, and answered with status 1 where the check of R513 fails. -/
def State.takeSnap (s : State) (p : Pkt) (kind : Nat) (f : State → Nat → State) : State :=
  s.deliver p tSnap 1 true (fun s =>
    if snapKind p ≠ kind then s
    else
      let s := s.countRetry p
      match s.snapArea p with
      | none => s.sendAck p 1
      | some a => f s a)

def execSnapData (p : Pkt) (s : State) : Result :=
  done (s.takeSnap p 0 (fun s a => (s.putSlot a (snapSlot p) (snapOff p) p.data).sendAck p 0))

def execSnapTag (p : Pkt) (s : State) : Result :=
  done (s.takeSnap p 1 (fun s a => (s.putSlot a (snapSlot p) (snapOff p) p.data).sendAck p 0))

def execSnapInvalidate (p : Pkt) (s : State) : Result :=
  done (s.takeSnap p 2 (fun s a => (s.putSlot a (snapSlot p) s.tagPlace (List.replicate 64 0)).sendAck p 0))

/-- R517: a pull request is answered with the header of the set, or with status 4. -/
def State.answerPull (s : State) (a : Nat) (p : Pkt) : State :=
  if field p.body 6 26 ≠ 0 then s.sendAck p 1
  else match s.slotFor a (field p.body 0 6) with
    | none => s.sendAck p 4
    | some k => (s.sendAck p 0).sendSnap p.src.toNat 0 4 k 0 (s.slotBytes a k 0 setHeaderSize) 4

def execPullRequest (p : Pkt) (s : State) : Result := done (s.takeSnap p 3 (fun s a => s.answerPull a p))

/-- R517: the header is acknowledged: the range data follow in offset order, and the tag last. -/
def State.sendPull (s : State) (dest slot : Nat) : State :=
  match s.areaOf dest with
  | none => s
  | some a =>
    let len := field (s.slotBytes a slot 32 8) 0 8
    let bs := s.slotBytes a slot setHeaderSize (len - setHeaderSize)
    (s.sendSpan dest 4 slot setHeaderSize bs 5).sendSnap dest 1 4 slot s.tagPlace (s.slotBytes a slot s.tagPlace 64) 5

/-! ### The restoring side (R516 to R519) -/

/-- R517: a header that the restoring device takes: image, coordinate and ranges are its own. -/
def State.headerTaken (s : State) (h : List Byte) : Bool :=
  let digest := byteField (if s.job.cmdlist then [] else s.job.digest) 0 64
  byteField h 64 64 = digest && field h 18 2 = s.fab.coord.toNat &&
    (match s.rangesAt (field h 20 4) with
      | none => false
      | some rs => field h 54 2 = rs.length && (rs.zipIdx.all (fun r =>
          let b := byteField h (256 + 32 * r.2) 32
          field b 0 8 = r.1.addr && field b 8 8 = r.1.len && field b 24 1 % 2 = r.1.flags % 2)))

/-- R519: the replay limit of a restore from Seedbank. -/
def State.replayLimit (s : State) : Nat := max s.seed.replayUntil.toNat (s.job.committed.getD 0)

/-- R516 steps 8 and 9: the job takes what the set header holds and is `STOPPED`; `RESTORE` completes. -/
def State.restoreDone (s : State) (h : List Byte) (durable : Bool) : State :=
  let j := { s.job with
    stepNo := BitVec.ofNat 48 (field h 24 6), seed := BitVec.ofNat 64 (field h 40 8), nextBody := field h 20 4
    resumeTick := field h 48 6, replayTo := some (if durable then 0 else s.replayLimit) }
  let s := s.setTick { s.tick with period := BitVec.ofNat 24 (field h 56 4), guard := BitVec.ofNat 8 (field h 60 1), edges := false, master := false }
  let s := (s.setJob j).setSeed { s.seed with pulling := none, counter := if durable then 0 else field h 8 8 }
  (s.setJobState .stopped).finishLong sOk 0 (leBytes 8 0 ++ leBytes 8 (field h 24 6))

/-- R513: whether a pull packet comes from an enabled buddy with the tag. -/
def State.fromBuddy (s : State) (p : Pkt) : Bool :=
  let b := s.seed.buddy.toNat
  s.seed.tag ≠ 0 && p.jobTag = s.seed.tag &&
    ((bitAt b 32 && bitsOf b 0 16 = p.src.toNat) || (bitAt b 33 && bitsOf b 16 16 = p.src.toNat))

/-- R517: range data of a set go straight to their addresses. -/
def State.writeRanges (s : State) (h : List Byte) (off : Nat) (bs : List Byte) : State :=
  (storedRanges h).foldl (fun (s : State) r =>
    if r.2.2.1 ≤ off && off < r.2.2.1 + r.2.1 then s.writeLocal (r.1 + (off - r.2.2.1)) 0 bs else s) s

/-- R517, R522: a packet of pull data. -/
def State.takePull (s : State) (p : Pkt) : State :=
  match s.seed.pulling with
  | none => s.sendAck p 1
  | some u =>
    if !s.fromBuddy p || p.src.toNat ≠ u.home then s.sendAck p 1
    else
      let s := (s.countRetry p).count cSbPull p.len.toNat
      match u.header with
      | none =>
        if snapOff p ≠ 0 || p.data.length ≠ setHeaderSize || !s.headerTaken p.data then (s.sendAck p 1).nextHome
        else (s.setSeed { s.seed with pulling := some { u with header := some p.data } }).sendAck p 0
      | some h =>
        if snapOff p = 0 then s.sendAck p 0
        else if snapOff p = s.tagPlace then
          if !tagFits p.data h then (s.sendAck p 1).nextHome
          else match s.longIs 0x42 with
            | some l =>
              let set := getBlock zeroByte 0 (field h 32 8) (putBlock zeroByte 0 h u.cells)
              ((s.sendAck p 0).setSeed { s.seed with pulling := none }).beginCheckpoint { l with
                phase := 1, data := checkpointFrom l.data set }
            | none => (s.sendAck p 0).restoreDone h false
        else if (s.longIs 0x42).isSome then
          (s.setSeed { s.seed with pulling := some { u with cells := putBlock zeroByte (snapOff p) p.data u.cells } }).sendAck p 0
        else (s.writeRanges h (snapOff p) p.data).sendAck p 0

def execPullData (p : Pkt) (s : State) : Result :=
  done (s.deliver p tSnap 1 true (fun s => if snapKind p ≠ 4 then s else s.takePull p))

/-- R511, R514, R517: a kept `SNAP` packet is answered. -/
def State.snapAcked (s : State) (k : Kept) (status : Nat) : State :=
  match k.origin with
  | .snap home what =>
    if what ≤ 2 then s.homeAcked home what status
    else if what = 3 then
      if status ≠ 0 && s.seed.pulling.any (fun u => u.home = home && u.header.isNone) then s.nextHome else s
    else if what = 4 && status = 0 then s.sendPull home (snapSlot k.pkt)
    else s
  | _ => s

end Sys2Proof.Machine
end

