-- ==== Sys2Proof/Machine/Tick.lean ====
section
/-! DEFINITION. The rows of ticks (R54 to R80, R471): edges, commits, the release, and the records of the beacon tree as they
arrive. -/

namespace Sys2Proof.Machine

/-! ### Commit (R471) -/

/-- R470: the flags of a tick. -/
def State.commitFlags (s : State) (t : Nat) : Nat :=
  b2n (s.counter cStageMiss ≠ 0 || s.counter cStageMissW ≠ 0) + 2 * b2n (s.job.replayTo.any (fun r => t ≤ r)) +
    4 * b2n (Tab.find t s.tick.lateLog).isSome + 8 * b2n (!s.tick.repro) + 16 * b2n (s.tick.stretchedTicks.contains t)

/-- R285, R471, R573: the current tick is committed: step, overrun entry, telemetry record and publication. -/
def State.commitTick (s : State) : State :=
  let t := s.tick.count.toNat
  let s := if s.isStep then s.setJob { s.job with stepNo := s.job.stepNo + 1 } else s
  let s := s.closeOverrun t
  let flags := s.commitFlags t
  let s := s.writeTelemetry t flags
  let s := s.setJob { s.job with committed := some t, committedStep := s.job.stepNo }
  let s := s.setTick { s.tick with started := false }
  if s.job.outDepth = 0 then s else s.publish t flags

/-- R57, R310, R327: the job ends once its partitions' lines and its dirty pages are written back (DEDUCED, log 60). -/
def State.endJob (s : State) : State :=
  let s := ([0, 1, 2, 3] : List Nat).foldl (fun (s : State) d => s.writeBackLines d (fun _ => true)) s
  let s := s.flushPages
  if s.dirtyLeft then s
  else
  let s := s.endRun
  ((s.setTick { s.tick with run := false }).setJobState .ended).finishStop

/-- R79: the job stops at a save mark: it would go on at the next body (DEDUCED, log 42; DEDUCED, log 43). -/
def State.stopJob (s : State) (t body : Nat) : State :=
  let s := s.setJob { s.job with resumeTick := t + 1, nextBody := body }
  (s.endRun.setJobState .stopped).finishStop

/-- R471, R79, R497: the current tick is committed if it is complete and its edge has passed; the job then ends, stops, waits
for a cut, or goes on. -/
def State.tryCommit (s : State) : State :=
  let t := s.tick.count.toNat
  if s.endPending then s.endJob
  else if !s.tickDone || s.tick.nextNo < t + 2 then s
  else
    let body := s.nextBodyOf
    let stop := s.isSave && s.tick.stopFrom.any (fun k => k ≤ t)
    let s := s.commitTick
    if ([0, 1, 2, 3] : List Nat).any (fun d => (s.seq d).jobEnd) then s.endJob
    else if stop then s.stopJob t body
    else if s.cutDue then
      if s.queuesIdle then s.takeCut.startTick (t + 1) body else s.setSeed { s.seed with pending := true }
    else s.startTick (t + 1) body

def execTickCommit (s : State) : Result := done s.tryCommit

/-! ### Edges -/

/-- R72: flags of a device's own reply. -/
def State.ownFlags (s : State) : Nat := b2n s.tick.ovrFlag + 2 * b2n (s.job.state == .held) + 4 * b2n s.tick.align

/-- R72: a reply merges into what the device will send: flags and causes by OR, stretch by maximum. -/
def State.mergeReply (s : State) (flags cause stretch : Nat) : State :=
  let r := s.tick.replies
  s.setTick { s.tick with replies :=
    { flags := r.flags ||| BitVec.ofNat 8 (flags % 8), cause := r.cause ||| BitVec.ofNat 8 (cause % 16), stretch := max r.stretch stretch } }

/-- R72: the device's own part of the reply for the tick that an edge closes. -/
def State.mergeOwn (s : State) : State :=
  let q := s.stretchRequest
  let s := s.mergeReply s.ownFlags q.2 q.1
  s.setTick { s.tick with ovrFlag := false, align := false }

/-- R72: the merged reply for tick `t` leaves for the parent: the device's own part and what its children's replies brought since the
last (DESIGN CHOICE, log 114). -/
def State.sendReply72 (s : State) (t : Nat) : State :=
  let s := s.mergeOwn
  let r := s.tick.replies
  let p := s.fab.parent.toNat
  let s := if p = 0 then s else s.sendTree (p - 1) tBeaconReply (replyBody t r.flags.toNat r.cause.toNat r.stretch)
  s.setTick { s.tick with replies := {} }

/-- R77: a backup that has heard no beacon for long enough becomes the sender. -/
def State.takeOver (s : State) : State :=
  let b := s.tick.backup.toNat
  if !s.tick.master && ((b = 1 && s.tick.missed ≥ 2) || (b = 2 && s.tick.missed ≥ 3)) then s.setTick { s.tick with master := true }
  else s

/-- R77: no beacon for four ticks: the job is held, with `BEACON_LOST`. -/
def State.beaconLost (s : State) : State :=
  if s.job.multi && !s.tick.master && s.tick.missed ≥ 4 && s.job.state == .running then
    s.hold { kind := 9, detail := leBytes 8 (s.tick.lastBeacon.getD 0) }
  else s

/-- R76: whether the stream is late for the edge that starts tick `e` (DEDUCED, log 44). -/
def State.lateFor (s : State) (e : Nat) : Bool :=
  s.job.state == .running && !s.endPending && (!(s.tickDone && s.tick.count.toNat + 1 = e) || (s.cutDue && !s.queuesIdle))

/-- R535: the work peak of the tick that an edge closes joins those of the last 16 ticks. -/
def State.closePeak (s : State) : State :=
  { s with power := { s.power with
    peaks := (s.power.tickPeak :: s.power.peaks).take 16, tickPeak := 0, sinceRelease := min 16 (s.power.sinceRelease + 1) } }

/-- R54, R71 to R77: the next aligned edge. -/
def State.tickEdge (s : State) : State :=
  if !s.tick.edges || s.tick.period = 0 then s
  else
    let e := s.tick.nextNo
    let s := s.reach s.tick.nextEdge
    let s := s.setTick { s.tick with
      edge := s.tick.nextEdge, nextEdge := s.tick.nextEdge + s.tick.period.toNat + 12 * s.tick.strNext.toNat, nextNo := e + 1
      strCur := s.tick.strNext, strNext := 0, strCause := 0
      stretchedTicks := if s.tick.strNext = 0 then s.tick.stretchedTicks else s.tick.stretchedTicks ++ [e] }
    let s := s.tickMon.closePeak.takeOver.beaconLost
    let s := if s.lateFor e then s.overran (e - 1) else s
    let s := if s.tick.master || !s.job.multi then (s.sendBeacon e).mergeOwn else s.sendReply72 (e - 1)
    s.tryCommit

def execTickEdge (s : State) : Result := done s.tickEdge.wakeColl

/-- R77: no beacon of the tick by its edge + d_M + 2,400 cc: it is missed, once. -/
def State.missBeacon (s : State) : State :=
  let now := some (s.tick.nextNo - 1)
  if !s.tick.edges || !s.job.multi || s.tick.master || s.tick.lastBeacon = now || s.tick.missedFor = now then s
  else
    let s := s.reach (s.tick.edge + ceilDiv s.tick.delayM 64 + 2400)
    s.setTick { s.tick with
      missed := BitVec.ofNat 8 (satAdd 8 s.tick.missed.toNat 1), beaconOk := false, strNext := 0, strCause := 0, missedFor := now }

def execBeaconMissed (s : State) : Result := done s.missBeacon

/-! ### Start barrier (R66 to R70) -/

/-- R67, R73: path delay from the master that a beacon's `SENDER` names. -/
def State.delayFrom (s : State) (sender : Nat) : Nat :=
  if sender = 0 then s.tick.delayM else if sender = 1 then s.tick.delayB1 else s.tick.delayB2

/-- R73: a `READY` for a fabric manager. -/
def State.sendReady (s : State) (dest : Nat) (tag status : Nat) : State :=
  let p := s.newPkt dest tReady 0 32 0 (readyBody tag status s.fab.teardown.toNat)
  s.inject { p with jobTag := 0 }.sealed

/-- R66, R70: a withheld `READY` leaves once the teardown epoch has reached the one required. -/
def State.tryReady (s : State) : State :=
  match s.tick.pendingReady with
  | some dest =>
    if s.job.state == .waitArm && s.fab.teardown ≥ s.tick.armEpoch then
      (s.sendReady dest s.tick.armTag.toNat 0).setTick { s.tick with pendingReady := none }
    else s
  | none => s

/-- R477: whether a die holds a node of a collective tree. -/
def State.holdsNode (s : State) (d : Nat) : Bool :=
  (List.range ((s.sectionBytes 7 d).length / 64)).any (fun c =>
    (List.range 4).any (fun t => (s.treeInfo d c t).isSome))

/-- R477: the port rows of the used set at `ARM`: the ports whose links are up; the router rows follow them. -/
def State.usePorts (s : State) : State :=
  let up := maskBits 8 s.fab.up.toNat
  let routers := ([0, 1, 2, 3] : List Nat).filter (fun d => up.any (fun p => portDie p = d) || s.holdsNode d)
  let clear (l : List Nat) (m : BitVec 116) : BitVec 116 := l.foldl (fun m f => m &&& ~~~ BitVec.twoPow 116 f) m
  let set (l : List Nat) (m : BitVec 116) : BitVec 116 := l.foldl (fun m f => m ||| BitVec.twoPow 116 f) m
  let base := clear ((List.range 8).map (0x5C + ·) ++ (List.range 4).map (0x6E + ·)) s.fence.used
  s.setFence { s.fence with used := set (up.map (0x5C + ·) ++ routers.map (0x6E + ·)) base }

/-- R73: status of the answer to an `ARM` body; 0: accepted. Of several reasons the first in the order 3, 4, 5, 1, 2 is given
(DEDUCED, log 42; DESIGN CHOICE, log 112). -/
def State.armStatus (s : State) (b : List Byte) : Nat :=
  let d := field b 12 4
  if s.job.state ≠ .waitArm then 3
  else if field b 28 1 > 3 || field b 29 3 ≠ 0 then 4
  else if field b 0 2 = 0 || field b 16 4 > d || field b 20 4 > d || field b 24 4 > d then 5
  else if 2 * d + 1200 * 64 ≥ s.tick.period.toNat * 64 then 1
  else if field b 6 6 ≠ s.job.resumeTick then 2
  else 0

/-- R66, R73, R391: an accepted `ARM`: tag, role, delays and used ports (DEDUCED, log 60). -/
def State.accept73 (s : State) (src : Nat) (b : List Byte) : State :=
  let role := field b 28 1 % 4
  let s := s.setTick { s.tick with
    armTag := BitVec.ofNat 16 (field b 0 2), armEpoch := BitVec.ofNat 32 (field b 2 4), armStart := BitVec.ofNat 48 (field b 6 6)
    delay := field b 12 4, delayM := field b 16 4, delayB1 := field b 20 4, delayB2 := field b 24 4
    master := role = 3, backup := if role = 3 then 0 else BitVec.ofNat 2 role
    release := .armed, pendingReady := some src }
  let s := s.setJob { s.job with tag := BitVec.ofNat 16 (field b 0 2) }
  (s.setFab { s.fab with jobTag := BitVec.ofNat 16 (field b 0 2) }).usePorts.tryReady

/-- R73: an `ARM` arrives. -/
def State.takeArm (s : State) (p : Pkt) : State :=
  match s.armStatus p.body with
  | 0 => s.accept73 p.src.toNat p.body
  | st => s.sendReady p.src.toNat (field p.body 0 2) st

def execArm (port : Fin 8) (p : Pkt) (s : State) : Result :=
  done (s.deliver { p with via := some port } tArm 0 (s.tagMatches p) (fun s => s.takeArm p))

/-- R67: a release `cc64` / 64 cycles after the device reset, rounded to the nearest CORE cycle. -/
def State.goAt (s : State) (cc64 : Nat) : State := s.setTick { s.tick with release := .goAt ((cc64 + 32) / 64) }

/-- R66, R67: a single step of the start: an armed master sends `GO` on its next TICK-aligned cycle, and a device whose `GO` has
come is released. -/
def State.jobRelease (s : State) : State :=
  if s.job.state ≠ .waitArm || s.tick.pendingReady.isSome then s
  else match s.tick.release with
    | .idle => s
    | .goAt cc => (s.reach cc).release s.tick.armStart.toNat
    | .armed =>
      if !s.tick.master then s
      else
        let t0 := alignUp 12 s.cc
        let s := (s.reach t0).sendChildren tBeacon (beaconBody s.tick.armStart.toNat 0 128 0 0)
        s.goAt (t0 * 64 + s.tick.delay)

def execJobRelease (s : State) : Result := done s.jobRelease

/-! ### Beacons as they arrive -/

/-- R73: fields of a beacon. -/
def beaconGo (p : Pkt) : Bool := field p.body 8 1 ≥ 128
def beaconCorr (p : Pkt) : Nat := field p.body 12 4

/-- R68, R368: the body of a forwarded beacon record: `CORR` grows by what the packet stayed beyond its transit figure
(UNVERIFIED, log 108). -/
def State.correctedBody (s : State) (p : Pkt) : List Byte :=
  byteField p.body 0 12 ++ leBytes 4 (field p.body 12 4 + Config.residence s.free) ++ byteField p.body 16 16

/-- R68, R72: a beacon record goes on to each child, each copy with its own correction. -/
def State.passBeacon (s : State) (p : Pkt) : State :=
  s.childPorts.foldl (fun (s : State) c => (s.sendTree c tBeacon (s.correctedBody p)).spend) s

/-- R67, R68: a `GO` arrives at `at64` / 64 cycles. -/
def State.takeGo (s : State) (p : Pkt) (at64 : Nat) : State :=
  if !beaconGo p then s
  else
    let s := (s.reach (at64 / 64)).passBeacon p
    if s.job.state ≠ .waitArm || s.tick.release ≠ .armed || s.tick.master then s
    else
      let sender := field p.body 9 1
      (s.setTick { s.tick with sender := sender }).goAt (at64 - beaconCorr p + s.tick.delay - s.delayFrom sender)

def execGo (port : Fin 8) (p : Pkt) (at64 : Nat) (s : State) : Result :=
  done (s.deliver { p with via := some port } tBeacon 0 (s.tagMatches p) (fun s => s.takeGo p at64))

/-- R74: alignment by a beacon of the tick whose edge was the last: the next edge moves by one cycle. -/
def State.alignTo (s : State) (p : Pkt) (at64 : Nat) : State :=
  let arrived : Int := (at64 : Int) - (beaconCorr p : Int)
  let err : Int := arrived - ((s.tick.edge * 64 + s.delayFrom (field p.body 9 1) : Nat) : Int)
  let next := if err > 64 then s.tick.nextEdge + 1 else if err < -64 then s.tick.nextEdge - 1 else s.tick.nextEdge
  s.setTick { s.tick with nextEdge := next, align := s.tick.align || err > 3072 || err < -3072 }

/-- R71 to R79: a beacon of tick T arrives. -/
def State.takeBeacon (s : State) (p : Pkt) (at64 : Nat) : State :=
  if beaconGo p then s
  else
    let s := (s.reach (at64 / 64)).passBeacon p
    if !s.tick.edges || !s.job.multi then s
    else
      let t := field p.body 0 6
      let flags := field p.body 8 1
      let mark := bitsOf flags 5 2
      let now := t + 1 = s.tick.nextNo
      let s := if now then s.alignTo p at64 else s
      let from1 (k : Nat) (old : Option Nat) : Option Nat := if mark = k && old.isNone then some (t + 1) else old
      s.setTick { s.tick with
        sender := field p.body 9 1, missed := 0, beaconOk := true, lastBeacon := some t
        strNext := if now && s.tick.missedFor ≠ some t then BitVec.ofNat 16 (field p.body 6 2) else s.tick.strNext
        strCause := if now && s.tick.missedFor ≠ some t then BitVec.ofNat 4 flags else s.tick.strCause
        repro := s.tick.repro && !flags.testBit 4
        stopFrom := from1 1 s.tick.stopFrom, snapFrom := from1 2 s.tick.snapFrom }

def execBeacon (port : Fin 8) (p : Pkt) (at64 : Nat) (s : State) : Result :=
  done (s.deliver { p with via := some port } tBeacon 0 (s.tagMatches p) (fun s => s.takeBeacon p at64))

def execBeaconReply (port : Fin 8) (p : Pkt) (s : State) : Result :=
  done (s.deliver { p with via := some port } tBeaconReply 0 (s.tagMatches p) (fun s =>
    if s.fab.children.getLsbD port then s.mergeReply (field p.body 6 1) (field p.body 7 1) (field p.body 8 2) else s))

end Sys2Proof.Machine
end

