-- ==== Sys2Proof/Machine/Answers.lean ====
section
/-! DEFINITION. Answers to the packets that this device keeps (R371, R377, R389, R404, R410, R411, R416, R418), token packets
from the fabric (R390), and the commits and registers of the fabric manager (R379 to R381, R392, R506). -/

namespace Sys2Proof.Machine

/-! ### Answers -/

/-- What may go on once packets have been answered. -/
def State.afterAnswers (s : State) : State := s.forget.pump.wakeColl.retryAll

/-- R451: the queue of the instance that a chunk belongs to. -/
def State.collQueue (s : State) (d c : Nat) : Nat := ((s.coll.insts.find? (fun i => i.die = d && i.cdesc = c && !i.ended)).map (·.fq)).getD 8

/-- What the answer to one kept packet does, by what it belongs to. -/
def State.settleKept (s : State) (k : Kept) (status : Nat) (data : List Byte) : State :=
  match k.origin with
  | .token d => s.tokAcked d (tokOf k.pkt.data) status
  | .coll d c _ owed =>
    if status = 0 then s.payOwed owed
    else if holdStatus status then s.remoteFault d (s.collQueue d c) status 0 (globalAddr k.pkt.dest.toNat (pktAddr k.pkt))
    else s
  | .blaze d _ => s.blazeAcked d k.pkt.dest.toNat
  | .snap _ _ => s.snapAcked k status
  | _ => s.answered k status data

/-- R377, R417: a busy answer: the packet is sent again after 20 µs. -/
def State.busyKept (s : State) (k : Kept) : State :=
  let s := match k.origin with
    | .put d q => s.noteStatus d q 1 0 5
    | .get d q _ _ => s.noteStatus d q 2 0 5
    | .atomic d q _ => s.noteStatus d q 0x3F 0 5
    | .coreLoad n _ _ _ _ => s.noteStatus (n / 16) 8 0xFF 0 5
    | .coreStore n _ => s.noteStatus (n / 16) 8 0xFF 0 5
    | _ => s
  s.updateKept k.pkt.dest.toNat k.pkt.seq.toNat (fun k => { k with busy := some s.cc })

/-- Whether a status-5 answer means that the packet is sent again: everywhere but in Seedbank traffic (R514). -/
def Kept.retriesBusy (k : Kept) : Bool := match k.origin with
  | .snap _ _ => false
  | _ => true

/-- A kept packet is answered with a status and data. -/
def State.answerKept (s : State) (k : Kept) (status : Nat) (data : List Byte) : State :=
  if status = 5 && k.retriesBusy then s.busyKept k
  else (s.updateKept k.pkt.dest.toNat k.pkt.seq.toNat (fun k => { k with answered := true })).settleKept k status data

/-- R371: sequence numbers that an `ACK` covers. -/
def ackSeqs (p : Pkt) : List Nat :=
  let base := field p.body 0 2
  (maskBits 64 (field p.body 4 8)).map (fun i => base / 16384 * 16384 + (base + i) % 16384)

/-- R385, R513: an `ACK`'s tag is the job's, or, where it covers `SNAP` packets, that of the Seedbank traffic. -/
def State.ackTagOk (s : State) (p : Pkt) : Bool :=
  if (ackSeqs p).any (fun q => (s.keptOf p.src.toNat q).any (fun k => k.pkt.typ.toNat = tSnap)) then p.jobTag = s.snapTagFor p.src.toNat
  else s.tagMatches p

/-- R371: an `ACK` answers each packet that it covers and that carries its tag. -/
def State.takeAck (s : State) (p : Pkt) : State :=
  ((ackSeqs p).foldl (fun (s : State) q =>
    match s.keptOf p.src.toNat q with
    | none => s
    | some k => if k.pkt.jobTag = p.jobTag && isAcked k.pkt.typ.toNat then s.answerKept k (field p.body 2 1) [] else s) s).afterAnswers

def execAck (p : Pkt) (s : State) : Result :=
  done (s.deliver p tAck (field p.body 0 2 / 16384) (s.ackTagOk p) (fun s => s.takeAck p))

/-- R404, R411: a reply answers its request. -/
def State.takeReply (s : State) (p : Pkt) (req : Nat) : State :=
  match s.keptOf p.src.toNat p.seq.toNat with
  | none => s
  | some k => if k.pkt.typ.toNat = req then (s.answerKept k p.status.toNat p.body).afterAnswers else s

def execLoadData (p : Pkt) (s : State) : Result :=
  done (s.deliver p tLoadData (p.seq.toNat / 16384) (s.tagMatches p) (fun s => s.takeReply p tLoadReq))

def execAtomicReply (p : Pkt) (s : State) : Result :=
  done (s.deliver p tAtomicReply (p.seq.toNat / 16384) (s.tagMatches p) (fun s => s.takeReply p tAtomicReq))

/-! ### Token packets (R390) -/

/-- R390: the delivery record with room for one more entry, or none if every entry is younger than 2 ms. -/
def deliveryRoom (now : Nat) (l : List (Nat × Nat × Nat)) : Option (List (Nat × Nat × Nat)) :=
  if l.length < 65536 then some l
  else match l.getLast? with
    | some e => if now ≥ e.2.2 + msCc 2 then some l.dropLast else none
    | none => some l

/-- R390: a `TOKEN` is looked up in the die's record, delivered, and acknowledged once written. -/
def State.takeToken (s : State) (p : Pkt) (d : Nat) : State :=
  let r := s.router d
  let key := replayKey p
  match if p.flag 2 then r.delivered.find? (fun e => e.1 = key) else none with
  | some e => (s.count cDupDrop 1).sendAck p e.2.1
  | none =>
    match deliveryRoom s.cc r.delivered with
    | none => s.sendAck p 5
    | some l =>
      let s := s.countRetry p
      let t := tokOf p.data
      if s.fenced (0x50 + d) then s.sendAck p 2
      else if (s.receiveTok d t).2 == .blocked then s
      else
        let (s, a) := s.arriveTok d t
        match a with
        | none => s
        | some st =>
          (s.setRouter d { s.router d with delivered := (key, st, s.cc) :: l }).sendAck p st

def execToken (p : Pkt) (s : State) : Result :=
  let d := p.addr.toNat % 4
  done ((s.deliver p tToken d (s.tagMatches p) (fun s => s.takeToken p d)).retryAll)

/-! ### Resends and losses -/

/-- A kept packet by its place in the list, while it waits for its answer. -/
def State.openKept (s : State) (k : Nat) : Option Kept := s.fab.kept[k]?.filter (fun x => !x.answered)

/-- R389: a kept packet leaves again. -/
def State.sendAgain (s : State) (x : Kept) (resends : Nat) : State :=
  let p := { x.pkt with flags := if resends > 0 then x.pkt.flags ||| 4#8 else x.pkt.flags }
  let p := { p with hcrc := p.headCrc }
  let s := s.updateKept x.pkt.dest.toNat x.pkt.seq.toNat (fun y => { y with pkt := p, last := s.cc, resends := resends, busy := none, again := true })
  match x.origin with
  | .blaze _ port => if port < 8 && s.portUp port then s.transmit port false p else s.inject p
  | _ => s.inject p

/-- R418: cycles after its first sending at which a request without a reply ends. -/
def State.loadLimit (s : State) : Nat := (if s.job.loadTimeout = 0 then 5 else s.job.loadTimeout) * usCc 200

/-- R389: a packet that 200 µs have not answered is sent again, up to four times. -/
def State.resend (s : State) (k : Nat) : State :=
  match s.openKept k with
  | none => s
  | some x =>
    let due := x.last + usCc 200
    if x.busy.isSome || x.resends ≥ 4 || (isRequest x.pkt.typ.toNat && due ≥ x.first + s.loadLimit) then s
    else ((s.reach due).count cE2eResend 1).sendAgain x (x.resends + 1)

def execE2eResend (k : Nat) (s : State) : Result := done (s.resend k)

/-- R389, R418, R514: a packet that is never answered: a home is lost, or the job is held and the destination reported (DEDUCED, log 95). -/
def State.losePacket (s : State) (x : Kept) : State :=
  let s := s.setFab { s.fab with kept := s.fab.kept.filter (fun y => y.answered || y.pkt.dest ≠ x.pkt.dest || y.pkt.seq ≠ x.pkt.seq) }
  match x.origin with
  | .snap home what => if what ≤ 2 then s.loseHome home else if what = 3 then s.nextHome else s
  | _ =>
    let s := s.hold { kind := 8, check := x.pkt.typ.toNat, die := x.die
                      detail := leBytes 2 x.pkt.dest.toNat ++ leBytes 2 x.pkt.seq.toNat }
    s.report 0x42 ((s.fence.ring.head?.map FaultRec.bytes).getD [])

/-- R389: 200 µs after the fourth resend. -/
def State.e2eLost (s : State) (k : Nat) : State :=
  match s.openKept k with
  | none => s
  | some x => if x.busy.isSome || x.resends < 4 then s else ((s.reach (x.last + usCc 200)).losePacket x).pump

def execE2eLost (k : Nat) (s : State) : Result := done (s.e2eLost k)

/-- R418: `LOAD_TIMEOUT` after a request's first sending. -/
def State.loadLate (s : State) (k : Nat) : State :=
  match s.openKept k with
  | none => s
  | some x => if !isRequest x.pkt.typ.toNat then s else ((s.reach (x.first + s.loadLimit)).losePacket x).pump

def execLoadTimeout (k : Nat) (s : State) : Result := done (s.loadLate k)

/-- R377: a packet answered busy is sent again after 20 µs, which does not count as a resend. -/
def State.resendBusy (s : State) (k : Nat) : State :=
  match s.openKept k with
  | none => s
  | some x => match x.busy with
    | none => s
    | some t => (s.reach (t + usCc 20)).sendAgain x x.resends

def execBusyResend (k : Nat) (s : State) : Result := done (s.resendBusy k)

/-- R410: 12 ms after the first sending of a packet that was sent again and is answered, it holds nothing any more. -/
def execOverlapHoldEnd (k : Nat) (s : State) : Result :=
  done (match s.fab.kept[k]? with
    | none => s
    | some x => if x.answered then (s.reach (x.first + msCc 12)).forget.pump else s)

/-- R383: a packet that waits for a port that stays down is discarded. -/
def execEscWaitExpiry (k : Nat) (s : State) : Result :=
  done (match s.fab.escWaits[k]? with
    | none => s
    | some w =>
      let limit := if w.pkt.typ.toNat = tAtomicReq then msCc 1 else msCc 10
      let s := s.reach (w.since + limit)
      (s.setFab { s.fab with escWaits := s.fab.escWaits.eraseIdx k }).count cEscDiscard 1)

/-! ### Tables and registers of the fabric manager -/

/-- R381, R399, R445: every shadow table becomes active, the epoch rises, open fences send Blazes, and packets that wait in buffers
are routed on the new tables; heads of this cycle are still routed on the tables before. -/
def State.commitTables (s : State) : State :=
  let waits := s.fab.escWaits
  let esc := s.fab.escActive
  let subst := s.fab.substActive
  let s := s.setFab { s.fab with
    escActive := s.fab.escShadow, substActive := s.fab.substShadow, epoch := s.fab.epoch + 1, escWaits := [], pending := false
    commitAt := none }
  let s := waits.foldl (fun (s : State) w =>
    if w.pkt.flag 4 then s.setFab { s.fab with escWaits := s.fab.escWaits ++ [w] }
    else match s.escRoute (((s.substOf w.pkt.dest.toNat).map (·.1)).getD w.pkt.dest.toNat) with
      | .waits p => s.setFab { s.fab with escWaits := s.fab.escWaits ++ [{ w with port := p }] }
      | .escape p => s.transmit p true w.pkt
      | .unreachable => s.count cUnreach 1
      | _ => s.inject w.pkt) s
  let s := s.setFab { s.fab with commitAt := some s.cc, escOld := esc, substOld := subst }
  ([0, 1, 2, 3] : List Nat).foldl State.sendBlazes s

/-- R381, R492: `FAB_ROUTE.COMMIT` is written: a commit is in progress until it takes effect; one that is in progress, or transit mode, lets
the write pass (DEDUCED, log 130). -/
def State.askCommit (s : State) : State := if s.power.transit then s else s.setFab { s.fab with pending := true }

/-- R381, R492: a commit takes effect, at once or within 40 µs of the write; in transit mode none is accepted (DEDUCED, log 130). -/
def execCommit (s : State) : Result := done (if s.power.transit then s else s.commitTables)

/-- A coordinate's neighbour in X, one step up or down (R23). -/
def xNeighbour (fabCoord : Nat) (up : Bool) : Nat :=
  let n := extentOf fabCoord 0
  let x := coordOf (fabCoord % 65536) 0
  (if up then (x + 1) % n else (x + n - 1) % n) * 1024 + fabCoord % 1024

/-- R506: default homes and hosted coordinates. -/
def defaultHomes (fabCoord : Nat) : BitVec 64 × BitVec 64 :=
  let up := xNeighbour fabCoord true
  let down := xNeighbour fabCoord false
  match extentOf fabCoord 0 with
  | 1 => (0, 0)
  | 2 => (BitVec.ofNat 64 (up + 2 ^ 32), BitVec.ofNat 64 (up + 2 ^ 32))
  | _ => (BitVec.ofNat 64 (up + down * 65536 + 3 * 2 ^ 32), BitVec.ofNat 64 (down + up * 65536 + 3 * 2 ^ 32))

/-- R358, R378, R379, R506: a write of `FAB_COORD`. -/
def State.writeCoord (s : State) (v : BitVec 32) : State :=
  let s := s.setFab { s.fab with
    coord := v.setWidth 16, extent := (v >>> 16).setWidth 16, coordSet := true, escShadow := { base := v, written := [] } }
  let h := defaultHomes v.toNat
  let s := s.setSeed { s.seed with buddy := h.1, hosts := h.2 }
  (List.range 8).foldl (fun (s : State) p =>
    if s.portDead p && s.fab.up.getLsbD p then s.linkDown p 0
    else if s.fab.up.getLsbD p then s else s.setPort p { s.port p with state := s.downState p }) s

def execFabCoordWrite (value : BitVec 32) (s : State) : Result := done (s.writeCoord value)

/-- R378, R391, R392, R399, R482: the teardown epoch only rises; a rise clears the tag of the job, but for a job whose `READY` waits for it,
which may be sent in the cycle after (DEDUCED, log 60). -/
def State.writeTeardown (s : State) (v : BitVec 32) : State :=
  if v < s.fab.teardown then s
  else
    let waits := s.job.state == .waitArm && s.tick.pendingReady.isSome
    let s := s.setFab { s.fab with teardown := v, jobTag := if waits || v = s.fab.teardown then s.fab.jobTag else 0 }
    if waits && v ≥ s.tick.armEpoch then (s.reach (s.cc + 1)).tryReady else s

def execTeardown (value : BitVec 32) (s : State) : Result := done (s.writeTeardown value)

end Sys2Proof.Machine
end

