-- ==== Sys2Proof/Machine/Image.lean ====
section
/-! DEFINITION. The image container as `JOB_LOAD` checks it (R43 to R45, R52, R144, R191 to R193, R430, R501 to R503): header,
section directory, streams, body tables, kernels, contexts, collective tables and save marks. -/

namespace Sys2Proof.Machine

/-- A refusal: status and detail. -/
abbrev Refused := Nat × Nat

/-- R468: `IMAGE_REFUSED` with a check and an index. -/
def imageRefused (check index : Nat) : Option Refused := some (sImageRefused, check + 256 * index)

/-- The first refusal of a list of checks. -/
def firstRefusal : List (Option Refused) → Option Refused
  | [] => none
  | some r :: _ => some r
  | none :: l => firstRefusal l

/-- A refusal where a condition holds. -/
def refuseIf (bad : Bool) (check index : Nat) : Option Refused := if bad then imageRefused check index else none

/-! ### Header (R43) -/

/-- R43, R467: the header of an image, or of a command-list package (DEDUCED, log 48; DEDUCED, log 50). -/
def headerRefusal (img : List Byte) (cmdlist : Bool) : Option Refused :=
  let f (off n : Nat) : Nat := field img off n
  firstRefusal [
    refuseIf (img.length < 256 || img.take 8 ≠ ascii (if cmdlist then "CMDLSJOB" else "EVFERIMG")) 1 0,
    refuseIf (f 8 2 ≠ 1) 2 0,
    refuseIf (f 10 2 ≠ 0x4816) 3 0,
    refuseIf (sha512 (img.drop 256) ≠ byteField img 0x30 64) 4 0,
    refuseIf (f 12 4 ≥ 2 || f 0x22 2 ≠ 0 || f 0x70 144 ≠ 0) 9 0,
    refuseIf (cmdlist && f 0x10 4 ≠ 0) 10 0x10,
    refuseIf (if cmdlist then f 0x14 4 ≠ 0 else f 0x14 4 = 0 || f 0x14 4 > 1048576) 10 0x14,
    refuseIf (!cmdlist && f 0x18 4 ≥ f 0x14 4) 10 0x18,
    refuseIf (f 0x1C 4 = 0) 10 0x1C,
    refuseIf (f 0x20 2 = 0 || f 0x20 2 > 16) 10 0x20]

/-! ### Section directory (R44) -/

def sectionCount (img : List Byte) : Nat := field img 0x24 4
def directoryAt (img : List Byte) : Nat := field img 0x28 8

/-- R44: entry `i` of the directory. -/
def directoryEntry (img : List Byte) (i : Nat) : List Byte := byteField img (directoryAt img + 32 * i) 32

/-- R44: a section with its bytes. -/
def sectionAt (img : List Byte) (i : Nat) : Section :=
  let e := directoryEntry img i
  { typ := field e 0 2, die := field e 2 1, load := field e 24 8, bytes := (img.drop (field e 8 8)).take (field e 16 8) }

def sectionsIn (img : List Byte) : List Section := (List.range (sectionCount img)).map (sectionAt img)

/-- R44: an entry that is refused by itself. -/
def entryRefusal (img : List Byte) (cmdlist : Bool) (i : Nat) : Option Refused :=
  let e := directoryEntry img i
  let typ := field e 0 2
  firstRefusal [
    refuseIf (field e 3 5 ≠ 0) 9 i,
    refuseIf (typ = 0 || typ > 8 || (cmdlist && typ < 4)) 6 i,
    refuseIf (field e 2 1 > 3 && field e 2 1 ≠ 255) 5 i,
    refuseIf (field e 8 8 + field e 16 8 > img.length) 5 i]

/-- Types of which a die has at most one section (R44). -/
def singleTypes : List Nat := [1, 2, 3, 4, 5, 6, 7]

/-- R44: whether two sections of a type serve one die. -/
def Section.clashes (a b : Section) : Bool :=
  a.typ = b.typ && singleTypes.contains a.typ && (a.typ = 3 || a.typ = 5 || a.die = b.die || a.die = 255 || b.die = 255)

/-- R44: the directory: its place, its entries, and no second section where one may stand. -/
def directoryRefusal (img : List Byte) (cmdlist : Bool) : Option Refused :=
  let n := sectionCount img
  if directoryAt img < 256 || directoryAt img + 32 * n > img.length then imageRefused 5 0
  else
    let xs := sectionsIn img
    firstRefusal ((List.range n).map (entryRefusal img cmdlist) ++
      (List.range n).map (fun i => refuseIf (xs[i]?.any (fun x => (xs.take i).any (·.clashes x))) 5 i))

/-! ### What the streams need (R44) -/

/-- The sections of a type that serve a die, with their index. -/
def servingIn (xs : List Section) (typ d : Nat) : List (Section × Nat) :=
  xs.zipIdx.filter (fun p => p.1.typ = typ && (p.1.die = d || p.1.die = 255))

/-- Bytes of a die's section of a type. -/
def bytesIn (xs : List Section) (typ d : Nat) : List Byte := ((servingIn xs typ d).head?.map (·.1.bytes)).getD []

/-- The bundles of a die's stream. -/
def bundlesIn (xs : List Section) (d : Nat) : List Bundle := (chunks 128 (bytesIn xs 1 d)).map bundleOf

/-- A summary of a stream: the clusters that its slots name, whether it opens a Clearing, issues a collective, uses Sillage, is
active at all (R477), and the slots that name tokens of a context (R188, R222): context, first token, tokens, whether it is
`ADMIT`. -/
structure StreamUse where
  clusters : Nat := 0
  clear : Bool := false
  coll : Bool := false
  sill : Bool := false
  active : Bool := false
  passes : List (Nat × Nat × Nat × Bool) := []
  deriving DecidableEq, Repr

/-- The part of a bundle in the use of its stream. -/
def StreamUse.add (u : StreamUse) (b : Bundle) : StreamUse :=
  let named := b.used.foldl (fun m x => m ||| 2 ^ x.1) 0
  let sill := b.sill ≠ (0, 0)
  let v := b.sill.2
  let pass := if (1 ≤ b.sill.1 && b.sill.1 ≤ 4) || b.sill.1 = 0x10 || b.sill.1 = 0x13 then [(bitsOf v 48 8, bitsOf v 16 16, bitsOf v 32 16 + 1, b.sill.1 == 4)] else []
  { clusters := u.clusters ||| named, clear := u.clear || b.ctl = 3, coll := u.coll || b.ctl = 5, sill := u.sill || sill
    active := u.active || !b.used.isEmpty || sill || b.mem ≠ (0, 0) || b.fab ≠ (0, 0) || [2, 3, 4, 5].contains b.ctl
    passes := u.passes ++ pass }

def streamUse (bs : List Bundle) : StreamUse := bs.foldl StreamUse.add {}

/-- R44: a section that the image lacks. A section of type 4, 6 or 7 is asked only of the dies whose streams use it (DESIGN
CHOICE, log 115). -/
def missingSection (xs : List Section) (uses : List StreamUse) : Bool :=
  let has (typ d : Nat) : Bool := !(servingIn xs typ d).isEmpty
  let dies : List Nat := [0, 1, 2, 3]
  dies.any (fun d =>
    let u := uses.getD d {}
    !has 1 d || !has 2 d || (u.clear && (!has 4 d || !xs.any (fun x => x.typ = 5))) || (u.sill && !has 6 d) || (u.coll && !has 7 d)) ||
    !xs.any (fun x => x.typ = 3)

/-! ### Streams and bodies (R45, R52) -/

/-- A range wholly in near SRAM or the stacked-SRAM window of a die, below its partition of `cache` steps (R28, R52). -/
def inOwnWindow (cache d a n : Nat) : Bool :=
  let o := a - windowBase d
  windowBase d ≤ a && (o + n ≤ 0x20000000 || (0x100000000 ≤ o && o + n ≤ 0x2C0000000 - cache * 0x8000000))

/-- R45: entry `b` of a body table. -/
def bodyBad (table : List Byte) (bundles workCc b : Nat) : Bool :=
  let e := (table.drop (16 * b)).take 16
  field e 4 4 = 0 || field e 0 4 + field e 4 4 > bundles || field e 8 4 > workCc

/-- R45, R52: stream and body table of a die. -/
def bodiesRefusal (img : List Byte) (xs : List Section) (cache d : Nat) : Option Refused :=
  match (servingIn xs 1 d).head?, (servingIn xs 2 d).head? with
  | some (st, i), some (tb, j) =>
    let n := field img 0x14 4
    firstRefusal [
      refuseIf (st.bytes.length % 128 ≠ 0) 5 i,
      refuseIf (!inOwnWindow cache d st.load st.bytes.length) 8 i,
      refuseIf (tb.bytes.length ≠ 16 * n) 11 j,
      refuseIf ((chunks 16 tb.bytes).any (fun e => field e 12 4 ≠ 0)) 9 j,
      refuseIf ((List.range n).any (bodyBad tb.bytes (st.bytes.length / 128) (field img 0x10 4))) 11 j]
  | _, _ => none

/-! ### Other sections -/

/-- R144: a kernel table. -/
def kernelsRefusal (x : Section) (i : Nat) : Option Refused :=
  let n := field x.bytes 0 4
  firstRefusal [
    refuseIf (x.bytes.length > 65536) 8 i,
    refuseIf (x.bytes.length < 8 || n = 0 || n > 1024 || 8 + 16 * n + 8 * field x.bytes 4 4 > x.bytes.length) 5 i,
    refuseIf ((List.range n).any (fun k => field x.bytes (8 + 16 * k + 12) 4 ≠ 0)) 9 i]

/-- R192, R193: a plane of a context that lies outside its window. -/
def planeBad (cache units size : Nat) : Bool :=
  let o := 32 * units
  size ≠ 0 && !(o + size ≤ 0x20000000 || (0x100000000 ≤ o && o + size ≤ 0x2C0000000 - cache * 0x8000000))

/-- R192, R193: whether a context of an image is refused, for the largest token count and `ADMIT` pass of the image. -/
def contextBad (cache : Nat) (b : List Byte) (tokens admitN : Nat) : Bool :=
  let c := ctxOf 0 b
  let hash := c.mode = 2
  let fp := fp32.decode c.capFactor
  let f (off : Nat) : Nat := field b off 4
  let w := if c.sfmt = 12 then 4 else 2
  let cap := if admitN = 0 then 0 else c.capacity admitN
  if c.mode = 0 then false
  else
    c.mode = 3 || field b 0 1 ≥ 64 || c.wmode = 3 || field b 22 2 ≠ 0 || field b 56 8 ≠ 0 ||
    c.k = 0 || c.k > 16 || c.e = 0 || c.e > 65536 || c.capMin = 0 || c.slices = 0 || c.slices > 16 || c.slice ≥ c.slices ||
    !fp.isFinite || fp.isZero || fp.isNeg || (Val.ofNat 256).lt fp ||
    (if hash then c.k ≠ 1 || c.split || c.sfmt ≠ 0 || c.ed ≠ 0 else c.sfmt < 10 || c.sfmt > 12 || c.ed = 0 || c.ed > 16384) ||
    (if c.split then c.slices < 2 || c.expBase + c.ed > c.e
      else c.slices ≠ 1 || c.slice ≠ 0 || c.expBase ≠ 0 || (!hash && c.ed ≠ c.e)) ||
    c.spitch % 32 ≠ 0 || planeBad cache (f 52) (8 * c.e) || planeBad cache (f 32) (8 * tokens) || planeBad cache (f 40) (8 * tokens * c.k) ||
    planeBad cache (f 44) (4 * tokens) || planeBad cache (f 48) (alignUp 32 (2 * c.e) + 4 * c.e * cap) ||
    (!hash && (c.spitch < c.ed * w ||
      planeBad cache (f 24) (if tokens = 0 then 0 else (tokens - 1) * c.spitch + c.ed * w) ||
      (c.split && planeBad cache (f 36) (8 * tokens * c.slices * c.k))))

/-- R191, R193: a die's context set. -/
def contextsRefusal (xs : List Section) (uses : List StreamUse) (cache d : Nat) : Option Refused :=
  match (servingIn xs 6 d).head? with
  | none => none
  | some (x, i) =>
    if x.bytes.length % 64 ≠ 0 || x.bytes.length > 16384 then imageRefused 5 i
    else
      let ps := (uses.getD d {}).passes
      let bad := (List.range (x.bytes.length / 64)).find? (fun c =>
        let mine := ps.filter (fun p => p.1 = c)
        contextBad cache (byteField x.bytes (64 * c) 64) ((mine.map (fun p => p.2.1 + p.2.2.1)).foldl max 0)
          (((mine.filter (fun p => p.2.2.2)).map (fun p => p.2.2.1)).foldl max 0))
      bad.map (fun c => (sContextRefused, d + 256 * c))

/-- R43 to R45, R191 to R193, R501: step 1 of `JOB_LOAD`; `cache` is the partition that the command configures (DEDUCED, log 48; DEDUCED, log 50). -/
def imageRefusal (img : List Byte) (cmdlist : Bool) (cache : Nat) : Option Refused :=
  match headerRefusal img cmdlist with
  | some r => some r
  | none =>
    match directoryRefusal img cmdlist with
    | some r => some r
    | none =>
      let xs := sectionsIn img
      let dies : List Nat := [0, 1, 2, 3]
      let uses := dies.map (fun d => streamUse (bundlesIn xs d))
      let each (typ : Nat) (f : Section → Nat → Option Refused) : List (Option Refused) :=
        (xs.zipIdx.filter (fun p => p.1.typ = typ)).map (fun p => f p.1 p.2)
      firstRefusal (
        [refuseIf (!cmdlist && missingSection xs uses) 7 0] ++
        (if cmdlist then [] else dies.map (bodiesRefusal img xs cache)) ++
        each 3 (fun x i => refuseIf (!saveMarksOk x.bytes ||
          (List.range (saveMarkCount x.bytes)).any (fun k => field x.bytes (64 + 32 * k) 4 ≥ field img 0x14 4)) 8 i) ++
        each 5 kernelsRefusal ++
        each 4 (fun x i => refuseIf (x.bytes.length % 64 ≠ 0) 5 i) ++
        each 7 (fun x i => refuseIf (x.bytes.length % 64 ≠ 0 || x.bytes.length > 64 * 4096) 5 i) ++
        dies.map (contextsRefusal xs uses cache))

/-! ### Collective tables (R427 to R430) -/

/-- R427: a descriptor with a field out of range or a reserved bit set. -/
def collFieldBad (b : List Byte) (c : CollDesc) : Bool :=
  let reduces := c.kind = 1 || c.kind = 2 || c.kind = 4
  field b 0 1 ≥ 8 || c.kind = 0 || c.kind > 5 || field b 1 1 ≥ 16 || c.scope = 0 || c.scope > 4 ||
    (if reduces then c.rop > 2 || !([10, 12, 14].contains c.dfmt) || !(c.wfmt = c.dfmt || (c.dfmt = 10 && c.wfmt = 12))
      else c.rop ≠ 0 || c.dfmt ≠ 0 || c.wfmt ≠ 0) ||
    c.trees = 0 || c.trees > 4 || c.window = 0 || c.window > 255 || c.chunk < 256 || c.chunk > 4096 || c.chunk % 256 ≠ 0 ||
    c.len % max 1 c.chunk ≠ 0 || c.len > 4096 * c.chunk || c.tree % 32 ≠ 0 || field b 36 4 ≥ 64 || field b 48 16 ≠ 0

/-- The root of a tree, and whether every node reaches it. -/
def treeRooted (t : List TreeRec) : Bool :=
  let i : TreeInfo := { desc := collDescOf [], tree := t, me := 0 }
  (t.filter (fun r => r.parent = 0xFFFF)).length = 1 && t.all (fun r => r.parent = 0xFFFF || r.parent < t.length) &&
    (List.range t.length).all (fun j => i.inSubtree i.root j)

/-- R428: what the trees of a descriptor must agree in. -/
def treeShape (t : List TreeRec) : List (Nat × Nat × Nat) := t.map (fun r => (r.coord, r.die, r.clusters))

/-- R430: a descriptor of die `d` whose trees are refused. -/
def State.collTreesBad (s : State) (d : Nat) (c : CollDesc) : Bool :=
  let trees := (List.range c.trees).map (s.treeOf c)
  let t0 := trees.headD []
  let shape := treeShape t0
  let own := s.fab.coord.toNat
  let info : TreeInfo := { desc := c, tree := t0, me := (s.nodeIndex t0 d).getD 0 }
  let members := info.members.length
  let raw := (List.range c.trees).any (fun t =>
    (chunks 8 (s.readLocal (c.tree + t * alignUp 32 (8 * c.nodes)) (8 * c.nodes))).any (fun b => bitsOf (leNat b) 18 14 ≠ 0))
  let roots (t : List TreeRec) : Nat × Nat := ((t.find? (fun r => r.parent = 0xFFFF)).map (fun r => (r.coord, r.die))).getD (0, 0)
  raw || !inOwnWindow s.job.cache d c.crec 64 || trees.any (fun t => !treeRooted t || treeShape t ≠ shape) ||
    (shape.map (fun x => (x.1, x.2.1))).eraseDups.length ≠ shape.length ||
    (c.scope = 1 && !(c.nodes = 1 && members = 1)) || (c.scope = 2 && c.nodes ≠ 1) ||
    (c.scope = 3 && shape.any (fun x => x.1 ≠ own)) ||
    (c.kind = 2 && c.len % (max 1 members * max 1 c.chunk) ≠ 0) ||
    ((c.kind = 4 || c.kind = 5) && !(info.clustersOf info.root).contains (c.rcluster % 16)) ||
    ((c.kind = 4 || c.kind = 5) && (info.nodeAt info.root).die ≠ c.rcluster / 16) ||
    (s.nodeIndex t0 d).any (fun k => trees.any (fun t =>
      let i : TreeInfo := { info with tree := t, me := k }
      (i.clustersOf k).length + (i.kidsOf k).length > 393216 / max 1 c.chunk / max 1 c.window)) ||
    (if trees.any (fun t => roots t = (own, d)) then c.ptaLen * 0x200000 < (members + c.nodes - 1) * c.chunk else c.pta ≠ 0)

/-- R430: the first refusal of the collective tables, once the sections are placed (DEDUCED, log 48). -/
def State.collRefusal (s : State) : Option Refused :=
  firstRefusal (([0, 1, 2, 3] : List Nat).map (fun d =>
    match (servingIn s.job.sections 7 d).head? with
    | none => none
    | some (x, i) => refuseIf ((chunks 64 x.bytes).any (fun b =>
        collFieldBad b (collDescOf b) || s.collTreesBad d (collDescOf b))) 5 i))

end Sys2Proof.Machine
end

