-- ==== Sys2Proof/Machine/Load.lean ====
section
/-! DEFINITION. `JOB_LOAD` (R467, R28, R228, R306, R310, R318 to R323, R405, R507), the used set (R477), and the unloading of a
job. -/

namespace Sys2Proof.Machine

/-! ### Pages and areas of a job -/

/-- R325, R343: the pages of the `TIERED` segments that Understory holds or has lost. -/
def State.homePages (s : State) (segs : List Segment) : Tab Page :=
  let canopy (key : Nat) : List Nat := segs.filterMap (fun g =>
    let off := key % 2 ^ 32 * pageSize
    if g.cls = 2 && g.account = key / 2 ^ 32 && g.voff ≤ off && off < g.voff + g.size then some ((g.base + (off - g.voff)) / pageSize)
    else none)
  let t := (s.und.map.flatMap (fun p => canopy p.1)).foldl (fun (t : Tab Page) p => Tab.put p { state := .home } t) []
  (s.und.lost.flatMap canopy).foldl (fun (t : Tab Page) p => Tab.put p { state := .lost } t) t

/-- The frames of a layout go to the job and to its accounts (R322, R323). -/
def State.takeFrames (s : State) (frames : Tab Nat) (free : Tab (List Nat)) (segs : List Segment) : State :=
  let s := s.setJob { s.job with frames := frames }
  { s with und := { s.und with
    pages := s.homePages segs, freeFrames := free, shares := free.map (fun p => (p.1, p.2.length)), queue := [] } }

/-- R507: the hosted areas that a job needs: 0 and 1 for enabled hosts, 2 the local one. -/
def State.areaKeys (s : State) (mode : Nat) : List Nat :=
  let h := s.seed.hosts.toNat
  if mode = 1 then [2]
  else if mode = 2 then (if bitAt h 32 then [0] else []) ++ (if bitAt h 33 then [1] else [])
  else []

/-- Whether a range lies wholly in `PINNED` segments. -/
def pinnedRange (segs : List Segment) (a len : Nat) : Bool :=
  len = 0 || (pieces a len).all (fun p => segs.any (fun g => g.cls = 1 && g.base ≤ p.1 && p.1 + p.2 ≤ g.base + g.size))

/-- R467: a place where an output buffer may lie (DEDUCED, log 51). -/
def State.bufferOk (s : State) (a len : Nat) : Bool :=
  ([0, 1, 2, 3] : List Nat).any (fun d => inOwnWindow s.job.cache d a len) || pinnedRange s.job.segments a len

/-- R502, R503: the places of the live ranges. -/
def State.rangesOk (s : State) (t : List Byte) : Bool :=
  (List.range (saveMarkCount t)).all (fun i => (saveMarkEntry t i).ranges.all (fun r => s.bufferOk r.addr r.len))

/-! ### The used set (R477) -/

/-- R477: clusters that slots, Clearing descriptors and collective trees of a die name. -/
def State.usedClusters (s : State) (d : Nat) (u : StreamUse) : Nat :=
  let clears := (chunks 64 (s.sectionBytes 4 d)).foldl (fun m b => m ||| (clearDescOf b).clusters) 0
  let colls := (List.range ((s.sectionBytes 7 d).length / 64)).foldl (fun m i => m ||| s.collClusters d i) 0
  u.clusters ||| clears ||| colls

/-- Whether a range meets another. -/
def meetsRange (a la b lb : Nat) : Bool := la ≠ 0 && lb ≠ 0 && a < b + lb && b < a + la

/-- The use of a die's stream; the bodies of a command-list job are built later, and may use Sillage where there is a context
set (DEDUCED, log 50). -/
def State.dieUse (s : State) (d : Nat) : StreamUse :=
  let u := streamUse (bundlesIn s.job.sections d)
  if s.job.cmdlist then
    let some1 := !(s.sectionBytes 6 d).isEmpty
    { u with sill := some1, active := some1 }
  else u

/-- R477: whether a die holds a section, an output buffer or a frame of the job, or pools that it uses. -/
def State.dieHolds (s : State) (d : Nat) (u : StreamUse) : Bool :=
  let here (a len : Nat) : Bool := (pieces a len).any (fun p => placeDie (s.place p.1) = some d)
  let frame (h : Nat) : Bool := h / stackSpan / 2 = d
  s.job.sections.any (fun x => x.load ≠ 0 && here x.load x.bytes.length) || here s.job.outSrc0 s.job.outLen ||
    here s.job.outSrc1 s.job.outLen || s.job.frames.any (fun f => frame f.2) ||
    s.und.freeFrames.any (fun a => a.2.any frame) || u.sill

/-- R477: the functions of the used set that the end of `JOB_LOAD` computes (DEDUCED, log 53). -/
def State.usedFunctions (s : State) : List Nat :=
  let dies : List Nat := [0, 1, 2, 3]
  let uses := dies.map s.dieUse
  let use (d : Nat) : StreamUse := uses.getD d {}
  let clusters := dies.flatMap (fun d => (maskBits 16 (s.usedClusters d (use d))).map (16 * d + ·))
  let region (r : Nat) : Bool :=
    let d := r / 4
    let pools := (s.poolRecord d).zipIdx.any (fun p =>
      meetsRange (windowBase d + p.1.1) (p.1.2 * poolSize p.2) (sliceBase r) sliceSize)
    clusters.any (fun n => n / 4 = r) ||
      s.job.sections.any (fun x => x.load ≠ 0 && meetsRange x.load x.bytes.length (sliceBase r) sliceSize) ||
      ((use d).sill && (r % 4 = 0 || pools)) || (r % 4 = 3 && s.job.cache ≠ 0)
  let stack (k : Nat) : Bool := k = 0 || s.job.frames.any (fun f => f.2 / stackSpan = k) ||
    s.und.freeFrames.any (fun a => a.2.any (fun f => f / stackSpan = k))
  let tier := s.job.laRings ≠ 0 || s.job.segments.any (fun g => g.cls = 2)
  let part := dies.filter (fun d => d = 0 || (use d).active || s.dieHolds d (use d))
  let bridges := (part.flatMap (fun a => part.flatMap (fun b => bridgesOf (dieRoute a b)))).eraseDups
  let routers := dies.filter s.holdsNode
  clusters ++ ((List.range 16).filter region).map (0x40 + ·) ++ (dies.filter (fun d => (use d).sill)).map (0x50 + ·) ++
    ((List.range 8).filter stack).map (0x54 + ·) ++ (if tier then [0x64, 0x65, 0x66, 0x67, 0x68] else []) ++ bridges ++
    routers.map (0x6E + ·) ++ (if s.job.cmdlist then [0x72] else [])

/-- The set as bits. -/
def functionBits (fs : List Nat) : BitVec 116 := fs.foldl (fun m f => m ||| BitVec.twoPow 116 f) 0

/-! ### The command (R467) -/

/-- R467: offset of the first field of a `JOB_LOAD` request that is out of range (DEDUCED, log 51). -/
def loadFieldBad (q : List Byte) : Option Nat :=
  let f (off n : Nat) : Nat := field q off n
  let ring (i : Nat) : Bool := i ≥ f 19 1 && f (72 + 8 * i) 8 ≠ 0
  let checks : List (Nat × Bool) := [
    (16, f 16 1 > 1), (17, f 17 1 > 8), (18, f 18 1 > 5), (19, f 19 1 > 4), (20, f 20 4 = 0 || f 20 4 > 64),
    (32, f 32 8 % 0x200000 ≠ 0), (40, f 40 8 % 0x200000 ≠ 0), (64, f 64 4 % 64 ≠ 0 || f 64 4 > 0x1000000),
    (68, f 68 1 < 2 || f 68 1 > 64), (69, f 69 3 ≠ 0), (72, ring 0), (80, ring 1), (88, ring 2), (96, ring 3),
    (104, f 104 24 ≠ 0)]
  (checks.find? (·.2)).map (·.1)

/-- R467: `JOB_LOAD` starts: the image is read from host memory. -/
def State.startLoad (a : Accepted) (s : State) : State :=
  match loadFieldBad a.request with
  | some o => s.complete a sBadField o []
  | none =>
    let s := (s.setJob { s.job with before := s.job.state }).setJobState .loading
    s.readHost a true (field a.request 0 8) (field a.request 8 8)

def execJobLoad (mb : Fin 32) (s : State) : Result := done (s.command mb cmdJobLoad State.startLoad)

/-- The job that a request and its image describe, before it has frames. -/
def jobOf (q img : List Byte) (segs : List Segment) (old : Job) : Job :=
  let f (off n : Nat) : Nat := field q off n
  let h (off n : Nat) : Nat := field img off n
  { state := old.state, before := old.before, cmdlist := f 16 1 = 1, digest := byteField img 0x30 64
    training := bitAt (h 12 4) 0, workCc := h 0x10 4, bodyCount := h 0x14 4, entryBody := h 0x18 4, maxSaveGap := h 0x1C 4
    group := h 0x20 2, imgLen := f 8 8, sections := sectionsIn img, segments := segs, canopySize := layoutSize segs
    cache := f 17 1, loadTimeout := if f 18 1 = 0 then 5 else f 18 1, laRings := f 19 1
    laRing := (List.range 4).map (fun i => f (72 + 8 * i) 8), ownTable := f 32 8, hostWin := f 40 8
    outSrc0 := f 48 8, outSrc1 := f 56 8, outLen := f 64 4, outDepth := f 68 1 }

/-- R28, R306, R310: the cache partition is written back, and a smaller one leaves undefined contents behind. -/
def State.resizeCache (s : State) (old new : Nat) : State :=
  if old = new then s
  else
    let s := ([0, 1, 2, 3] : List Nat).foldl (fun (s : State) d => (s.writeBackLines d (fun _ => true)).dropLines d (fun _ => true)) s
    if new < old then
      ([0, 1, 2, 3] : List Nat).foldl (fun (s : State) d =>
        s.undefine (windowBase d + 0x2C0000000 - old * 0x8000000) ((old - new) * 0x8000000)) s
    else s

/-- R44: index of the first section whose `LOAD` leads to no memory. -/
def State.placementRefusal (s : State) : Option Refused :=
  firstRefusal (s.job.sections.zipIdx.map (fun p =>
    refuseIf (p.1.load ≠ 0 && (pieces p.1.load (max 1 p.1.bytes.length)).any (fun q => placeStatus (s.place q.1) = 1)) 8 p.2))

/-- R228, R467 step 5: the exchange blocks are zeroed and the sections placed (DEDUCED, log 51). -/
def State.placeSections (s : State) : State :=
  let s := ([0, 1, 2, 3] : List Nat).foldl (fun (s : State) d =>
    s.writeLocal (windowBase d + exchangeBlock) 0 (List.replicate 0x5000 0)) s
  s.job.sections.foldl (fun (s : State) x =>
    if x.load = 0 then s
    else
      let s := s.count cStageMissW (s.missingPages x.load x.bytes.length).length
      s.writeLocal x.load 0 x.bytes) s

/-- R467 step 6, R470: the output buffers and the ring. -/
def State.outputRefusal (s : State) : Option Refused :=
  let j := s.job
  let bad (a : Nat) : Bool := j.outLen ≠ 0 && !s.bufferOk a j.outLen
  if bad j.outSrc0 then some (sOutputRefused, j.outSrc0 ||| 2 ^ 62)
  else if bad j.outSrc1 then some (sOutputRefused, j.outSrc1 ||| 2 ^ 62)
  else if j.outDepth * slotSize j.outLen > 0x20000000 then some (sOutputRefused, 2 ^ 63 ||| j.outDepth * slotSize j.outLen)
  else none

/-- R191: the contexts of every die's Sillage are those of the image. -/
def State.loadContexts (s : State) : State :=
  ([0, 1, 2, 3] : List Nat).foldl (fun (s : State) d =>
    s.setSillage d { s.sillage d with contexts := putBlock zeroByte 0 (s.sectionBytes 6 d) [] }) s

/-- R408: the owner-table caches of the die routers are cleared. -/
def State.clearOwnerCaches (s : State) : State :=
  s.setFab { s.fab with routers := s.fab.routers.map (fun (p : Nat × Router) => (p.1, { p.2 with ownerLines := [] })) }

/-- R467: what a successful load leaves: contexts, the tick unit, telemetry, the used set and the state (DEDUCED, log 52). -/
def State.loaded (s : State) (a : Accepted) : State :=
  let s := s.loadContexts.clearOwnerCaches
  let s := s.setTick { s.tick with period := 0, guard := 30, run := false, edges := false }
  let s := { s with sec := { s.sec with telemetry := [], telemCount := 0 }, coll := {}, ctr := [] }
  let s := s.setFence { s.fence with used := functionBits s.usedFunctions }
  let s := if (s.fence.fenced &&& s.fence.used) ≠ 0 then (s.setJob { s.job with state := .loaded }).settle else s.setJobState .loaded
  s.finishLong sOk 0 (leBytes 8 (field a.request 8 8) ++ leBytes 8 s.job.canopySize)

/-- R467: a load that ends in a refusal: nothing stays loaded, and the partition is as it was (DEDUCED, log 52). -/
def State.refuseLoad (s : State) (old : State) (r : Refused) : State :=
  let s := { s with job := old.job, und := old.und, seed := old.seed, parts := if s.job.cache = old.job.cache then s.parts else [] }
  s.finishLong r.1 r.2 []

/-- R467 steps 3 to 6, once image and layout have passed. -/
def State.placeJob (s : State) (old : State) (a : Accepted) : State :=
  let marks := s.sectionBytes 3 0
  let mode := if s.job.cmdlist then 0 else sbModeOf marks
  let s := { s with seed := { s.seed with areas := [], slots := [], mode := mode, slotBytes := sbSlotOf marks, counter := 0 } }
  match s.placeAreas (s.areaKeys mode) (2 * s.seed.slotBytes / granule) with
  | none => s.refuseLoad old (sLayoutRefused, 0)
  | some areas =>
    let s := { s with seed := { s.seed with areas := areas } }
    match s.assignFrames s.job.segments with
    | .error i => s.refuseLoad old (sLayoutRefused, i)
    | .ok (frames, free) =>
      let s := s.takeFrames frames free s.job.segments
      let table := 4 * (15360 + s.job.canopySize / granule)
      if !pinnedRange s.job.segments s.job.ownTable table then s.refuseLoad old (sBadField, 32)
      else if (s.job.laRing.take s.job.laRings).zipIdx.any (fun r => !pinnedRange s.job.segments r.1 64) then
        s.refuseLoad old (sBadField, 72)
      else
        let s := s.resizeCache old.job.cache s.job.cache
        let marksAt := (servingIn s.job.sections 3 0).head?.map (·.2)
        match firstRefusal [s.placementRefusal,
            if s.job.cmdlist || s.rangesOk marks then none else imageRefused 8 (marksAt.getD 0)] with
        | some r => s.refuseLoad old r
        | none =>
          let s := s.placeSections
          match firstRefusal [s.collRefusal, s.outputRefusal] with
          | some r => s.refuseLoad old r
          | none => s.loaded a

/-- R467: `JOB_LOAD` has its image and its layout table: it takes its steps in order. -/
def State.performJobLoad (s : State) (l : LongCmd) : State :=
  let q := l.req.request
  match imageRefusal l.data (field q 16 1 = 1) (field q 17 1) with
  | some r => s.finishLong r.1 r.2 []
  | none =>
    match s.layoutRefusal l.aux (field q 20 4) with
    | some i => s.finishLong sLayoutRefused i []
    | none => (s.setJob (jobOf q l.data (segmentsOf l.aux (field q 20 4)) s.job)).placeJob s l.req

/-! ### Unloading -/

/-- R327, R467, R507: the job is unloaded: pages and lines are written back or discarded, and everything it held is freed. -/
def State.unload (s : State) (writeback : Bool) : State :=
  let s := if writeback then s.flushPages else s
  let s := s.endRun
  let s := (s.setTick { s.tick with run := false }).setJobState .none
  let s := { s with
    job := {}, parts := [], coll := {}, seqs := [], copies := [], sill := []
    fab := { s.fab with queues := [] }
    seed := { s.seed with areas := [], slots := [], mode := 0, slotBytes := 0, copying := none, pulling := none, pending := false }
    und := { s.und with pages := [], freeFrames := [], shares := [], queue := [], tables := [], tablesNext := [] } }
  s.setFence { s.fence with used := 0 }

end Sys2Proof.Machine
end

