-- ==== Sys2Proof/Machine/Commands.lean ====
section
/-! DEFINITION. Mailbox commands (R467): `IDENTIFY`, `JOB_START`, `JOB_STOP`, `TICK_SET`, `TELEMETRY_READ`, `FW_STAGE` and
`FW_ACTIVATE`. -/

namespace Sys2Proof.Machine

/-- R467: the first of the reserved ranges of a request that is not 0, as the offset that `BAD_FIELD` names. -/
def reservedSet (q : List Byte) (rs : List (Nat × Nat)) : Option Nat := (rs.find? (fun r => !zeroField q r.1 r.2)).map (·.1)

/-- The first of the conditions that hold, as the offset that `BAD_FIELD` names. -/
def firstBad (cs : List (Nat × Bool)) : Option Nat := (cs.find? (·.2)).map (·.1)

/-! ### IDENTIFY -/

/-- R467: the 256 bytes that `IDENTIFY` returns. -/
def State.identity (s : State) : List Byte :=
  let regs := [s.identPart, s.host.serial.toNat, s.identFw, s.identState, s.identLink, s.identFuse].flatMap (leBytes 8)
  let retired := (List.range 8).flatMap (fun k => leBytes 2 (s.stack k).retired.length)
  byteField (regs ++ leBytes 2 s.presentChannels ++ leBytes 1 s.fab.up.toNat ++ leBytes 1 0 ++ leBytes 4 s.und.formatted ++
    leBytes 2 s.fab.coord.toNat ++ leBytes 6 0 ++ retired) 0 256

def execIdentify (mb : Fin 32) (s : State) : Result :=
  done (s.command mb cmdIdentify (fun a (s : State) => s.complete a sOk 0 s.identity))

/-! ### JOB_START -/

/-- R41, R42: work budget of a tick. -/
def State.workBudget (s : State) : Nat := s.tick.period.toNat - s.tick.period.toNat * s.tick.guard.toNat / 1000

/-- R231: the first pool record that is refused: detail of `POOL_REFUSED`. -/
def State.poolsRefusal (s : State) : Option Nat :=
  ([0, 1, 2, 3] : List Nat).findSome? (fun d => (s.poolRefusal d).map (fun i => d + 256 * i))

/-- R467: the first check of `JOB_START` that fails: status and detail (DEDUCED, log 54). -/
def State.startRefusal (s : State) : Option (Nat × Nat) :=
  if s.tick.period = 0 then some (sTickRefused, 0)
  else if s.job.workCc > s.workBudget then some (sWorkTooLong, s.job.workCc)
  else match s.poolsRefusal with
    | some p => some (sPoolRefused, p)
    | none =>
      if publicationTime s.job.outLen > s.tick.period.toNat then some (sOutputRefused, publicationTime s.job.outLen) else none

/-- R214: the per-expert counter tables of the contexts in use are set to 0. -/
def State.zeroCounters (s : State) : State :=
  ([0, 1, 2, 3] : List Nat).foldl (fun (s : State) d => (List.range 256).foldl (fun (s : State) c =>
    let x := ctxOf d (s.context d c)
    if x.mode = 0 then s else s.writeLocal x.counters 0 (List.replicate (8 * x.e) 0)) s) s

/-- R247, R516: the arrival planes and the return counters of the descriptors in use are set to 0. -/
def State.zeroArrivals (s : State) : State :=
  ([0, 1, 2, 3] : List Nat).foldl (fun (s : State) d => (List.range 256).foldl (fun (s : State) c =>
    let x := xdescOf d (s.xdescBytes d c)
    if x.scope = 0 then s else s.writeLocal x.arrive 0 (List.replicate (16 * x.srcs + 8) 0))
    (s.setSillage d { s.sillage d with listed := [] })) s

/-- R52: cycles that the prefetch of a body takes: up to 64 bundles, one cycle each from near SRAM and two from stacked SRAM. -/
def State.prefetchCycles (s : State) (body : Nat) : Nat :=
  (([0, 1, 2, 3] : List Nat).map (fun d =>
    let t := s.sectionBytes 2 d
    let at1 := s.streamBase d + field t (16 * body) 4 * 128
    min 64 (field t (16 * body + 4) 4) * (if at1 % 0x1000000000 < 0x20000000 then 1 else 2))).foldl max 0

/-- R66: the cycle at which a single-device job is released: the first TICK-aligned one after its prefetch (DEDUCED, log 54). -/
def State.soloRelease (s : State) : Nat :=
  let body := if s.job.resumeTick = 0 then s.job.entryBody else s.job.nextBody
  ((s.cc + (if s.job.cmdlist then 0 else s.prefetchCycles body)) / 12 + 1) * 12

/-- R467: what an accepted `JOB_START` prepares: counter tables, arrival planes, pools and slot headers. -/
def State.prepareStart (s : State) : State :=
  (([0, 1, 2, 3] : List Nat).foldl State.buildPools s.zeroCounters.zeroArrivals).busyAll

/-- R467: `JOB_START` (DEDUCED, log 53; DEDUCED, log 60). -/
def State.startJob (a : Accepted) (s : State) : State :=
  let q := a.request
  let mode := field q 8 1
  let tag := field q 10 2
  match firstBad [(8, mode > 1), (9, field q 9 1 ≠ 0), (10, (mode = 0) ≠ (tag ≠ 0)), (12, field q 12 4 ≠ 0)] with
  | some o => s.complete a sBadField o []
  | none =>
    match s.startRefusal with
    | some r => s.complete a r.1 r.2 []
    | none =>
      let s := s.prepareStart
      let seed := if s.job.state == .stopped then s.job.seed else BitVec.ofNat 64 (field q 0 8)
      if mode = 0 then
        let s := s.setJob { s.job with seed := seed, multi := false, tag := BitVec.ofNat 16 tag }
        let s := s.setFab { s.fab with jobTag := BitVec.ofNat 16 tag }
        let s := (s.reach s.soloRelease).release s.job.resumeTick
        s.complete a sOk 0 (leBytes 8 s.tick.count.toNat ++ leBytes 8 0)
      else
        let s := s.setJob { s.job with seed := seed, multi := true }
        let s := s.setFence { s.fence with used := s.fence.used ||| BitVec.twoPow 116 0x69 }
        let s := s.setTick { s.tick with release := .idle, pendingReady := none }
        (s.setJobState .waitArm).complete a sOk 0 (leBytes 16 0)

def execJobStart (mb : Fin 32) (s : State) : Result := done (s.command mb cmdJobStart State.startJob)

/-! ### JOB_STOP -/

/-- R78, R79: a request that acts at a save mark: at the next one on a single device; of a multi-device job it goes to the
fabric manager, and out with the next beacon where this device sends them (DESIGN CHOICE, log 113). `k` is 1 for a stop and 2 for a snapshot; `report`
is the code of R600. -/
def State.askMark (s : State) (k report cmd : Nat) : State :=
  if s.job.multi then
    let s := s.report 0x46 (leBytes 1 report ++ leBytes 2 cmd)
    if s.tick.master && s.tick.markReq ≠ 1 then s.setTick { s.tick with markReq := k } else s
  else
    let now := some s.tick.count.toNat
    if k = 1 then s.setTick { s.tick with stopFrom := s.tick.stopFrom.or now }
    else s.setTick { s.tick with snapFrom := s.tick.snapFrom.or now }

/-- R467: `JOB_STOP`. -/
def State.stopCommand (a : Accepted) (s : State) : State :=
  let flags := field a.request 0 1
  match firstBad [(0, flags > 3), (1, !zeroField a.request 1 7)] with
  | some o => s.complete a sBadField o []
  | none =>
    match s.job.state with
    | .running => (s.setLong { req := a, phase := 1 }).askMark 1 1 0x12
    | .waitArm =>
      let s := s.setTick { s.tick with release := .idle, pendingReady := none, master := false }
      let s := (s.setFab { s.fab with jobTag := 0 }).setJobState .loaded
      if flags.testBit 1 then s.setLong { req := a, phase := 2 } else s.complete a sOk 0 s.stopResult
    | _ => if flags.testBit 1 then s.setLong { req := a, phase := 2 } else s.complete a sOk 0 s.stopResult

def execJobStop (mb : Fin 32) (s : State) : Result := done (s.command mb cmdJobStop State.stopCommand)

/-- R467: the end of a `JOB_STOP` with `UNLOAD`, once its write-backs can be made. -/
def State.endUnload (s : State) (l : LongCmd) : State :=
  let writeback := bitAt (field l.req.request 0 1) 0
  let s := if writeback then s.flushPages else s
  if writeback && s.dirtyLeft then s
  else
    let result := s.stopResult
    (s.unload writeback).finishLong sOk 0 result

/-! ### TICK_SET -/

/-- R40, R41, R255: whether a period and a guard band may be set. -/
def State.tickAllowed (s : State) (period guard : Nat) : Bool :=
  let least := if s.job.cmdlist then 1200000 else 24000
  period % 12 = 0 && least ≤ period && period ≤ 12000000 && 10 ≤ guard && guard ≤ 125

/-- R467: `TICK_SET`. -/
def State.setPeriod (a : Accepted) (s : State) : State :=
  let period := field a.request 0 4
  let guard := if field a.request 4 1 = 0 then 30 else field a.request 4 1
  if !zeroField a.request 5 3 then s.complete a sBadField 5 []
  else if !s.tickAllowed period guard then s.complete a sTickRefused 0 []
  else
    (s.setTick { s.tick with period := BitVec.ofNat 24 period, guard := BitVec.ofNat 8 guard }).complete a sOk 0 []

def execTickSet (mb : Fin 32) (s : State) : Result := done (s.command mb cmdTickSet State.setPeriod)

/-! ### TELEMETRY_READ -/

/-- R467: the object that `TELEMETRY_READ` names, or the offset of the field that is out of range. -/
def State.telemetryObject (s : State) (q : List Byte) : Except Nat (List Byte) :=
  let die := field q 1 1
  let ctx := ctxOf die (s.context die (field q 2 1))
  match firstBad [(0, field q 0 1 > 2), (3, !zeroField q 3 5), (28, !zeroField q 28 4)] with
  | some o => .error o
  | none =>
    match field q 0 1 with
    | 0 => match Tab.find (field q 8 8) s.sec.telemetry with
      | some r => .ok r
      | none => .error 8
    | 1 =>
      if die > 3 then .error 1
      else if ctx.mode = 0 then .error 2
      else .ok (s.readLocal ctx.counters (8 * ctx.e))
    | _ => .ok (s.fence.ring.flatMap FaultRec.bytes)

/-- R467: result of `TELEMETRY_READ`: bytes written and the tick of the record (DEDUCED, log 58). -/
def State.telemetryResult (s : State) (q : List Byte) (n : Nat) : List Byte :=
  leBytes 8 n ++ leBytes 8 (if field q 0 1 = 0 then field q 8 8 else s.tick.count.toNat)

/-- R467: `TELEMETRY_READ`. -/
def State.readTelemetry (a : Accepted) (s : State) : State :=
  match s.telemetryObject a.request with
  | .error o => s.complete a sBadField o []
  | .ok bs =>
    if bs.length > field a.request 24 4 then s.complete a sBadLen bs.length []
    else if bs.isEmpty then s.complete a sOk 0 (s.telemetryResult a.request 0)
    else s.writeHost a (field a.request 16 8) bs

def execTelemetryRead (mb : Fin 32) (s : State) : Result := done (s.command mb cmdTelemetryRead State.readTelemetry)

/-! ### Firmware (R563) -/

/-- R467: kind of image that a target byte names. -/
def fwKind (target : Nat) : Nat := if target = 0 then 1 else 2

/-- R467, R563: `FW_STAGE` clears the mark, erases the header of the inactive slot and reads the image (DEDUCED, log 57). -/
def State.startStage (a : Accepted) (s : State) : State :=
  let target := field a.request 0 1
  match firstBad [(0, target > 1), (1, !zeroField a.request 1 7)] with
  | some o => s.complete a sBadField o []
  | none =>
    let k := fwKind target
    let b := s.sec.boot k
    let s := (s.setSec ((s.sec.setBoot k { b with staged := none }).setImage k (1 - b.running) [])).noteStaged
    s.readHost a true (field a.request 8 8) (field a.request 16 8)

def execFwStage (mb : Fin 32) (s : State) : Result := done (s.command mb cmdFwStage State.startStage)

/-- R563: the image has been read: it is checked and written (DEDUCED, log 57). -/
def State.endStage (s : State) (l : LongCmd) : State :=
  let r := s.sec.stage (fwKind (field l.req.request 0 1)) l.data
  let s := (s.setSec r.1).noteStaged
  match r.2 with
  | some c => s.finishLong sFwAuthFail c []
  | none => s.finishLong sOk 0 (leBytes 8 (fwVersion l.data))

/-- R467, R563: `FW_ACTIVATE`. -/
def State.activate (a : Accepted) (s : State) : State :=
  let target := field a.request 0 1
  match firstBad [(0, target > 1), (1, !zeroField a.request 1 7)] with
  | some o => s.complete a sBadField o []
  | none =>
    let k := fwKind target
    let b := s.sec.boot k
    match b.staged with
    | none => s.complete a sNoSource 0 []
    | some slot =>
      (s.setSec (s.sec.setBoot k { b with active := slot, tries := 3 })).complete a sOk 0 (leBytes 8 (fwVersion (s.sec.image k slot)))

def execFwActivate (mb : Fin 32) (s : State) : Result := done (s.command mb cmdFwActivate State.activate)

end Sys2Proof.Machine
end

