-- ==== Sys2Proof/Machine/Upkeep.lean ====
section
/-! DEFINITION. Check codes and scrubbing (R37, R133, R219, R262, R311 to R314), the retirement of HBM granules (R313, R324,
R515) and the refresh rate of a stack (R315). -/

namespace Sys2Proof.Machine

def cHbmCe (k : Nat) : Nat := ctrKey 5 k 0
def cHbmUe (k : Nat) : Nat := ctrKey 5 k 1

/-! ### Retired granules (R313) -/

/-- Whether an HBM key lies in a granule of a stack. -/
def inGranule (k g h : Nat) : Bool := h / granule = (k * stackSpan) / granule + g

/-- R313, R322, R323: whether the job's frames hold a granule. -/
def State.frameGranule (s : State) (k g : Nat) : Bool :=
  s.job.frames.any (fun f => inGranule k g f.2) || s.und.freeFrames.any (fun a => a.2.any (inGranule k g)) ||
    s.und.pages.any (fun p => p.2.frame.any (inGranule k g))

/-- R324: a granule of the job's frames is gone with the pages in it. -/
def State.dropFrames (s : State) (k g : Nat) : State :=
  let pages := s.und.pages.map (fun (p : Nat × Page) =>
    if p.2.frame.any (inGranule k g) then (p.1, { state := s.awayState p.1 }) else p)
  let s := s.setJob { s.job with frames := s.job.frames.filter (fun f => !inGranule k g f.2) }
  { s with und := { s.und with
    pages := pages, freeFrames := s.und.freeFrames.map (fun (a : Nat × List Nat) => (a.1, a.2.filter (fun h => !inGranule k g h))) } }

/-- Contents of the device area of a stack, by offset in the area. -/
def State.deviceCells (s : State) (k : Nat) : List (Nat × Nat × Byte) :=
  (List.range deviceCount).map (fun i => s.deviceGranule k i) |>.zipIdx.flatMap (fun g =>
    ((cellsBelow (k * stackSpan + (g.1 + 1) * granule) (cellsFrom (k * stackSpan + g.1 * granule) s.hbm))).map
      (fun c => (g.2, c.1 % granule, c.2)))

/-- R313, R321: a granule joins the retirement list of its stack. The areas at the top of the stack skip it, and the device area
keeps what its other granules hold. -/
def State.retire (s : State) (k g : Nat) : State :=
  let inArea := s.deviceGranule k 0 ≤ g
  let kept := (s.deviceCells k).filter (fun c => s.deviceGranule k c.1 ≠ g)
  let s := s.setStack k { s.stack k with retired := (s.stack k).retired ++ [g] }
  let s := s.setHbm (eraseBlock (k * stackSpan + g * granule) granule s.hbm)
  if !inArea then s
  else
    let low := k * stackSpan + s.deviceGranule k 0 * granule
    let cells := kept.map (fun c => (k * stackSpan + s.deviceGranule k c.1 * granule + c.2.1, c.2.2))
    s.setHbm (cellsBelow low s.hbm ++ (cells ++ cellsFrom ((k + 1) * stackSpan) s.hbm))

/-- R515: a free granule of stacks 2 to 7 for a hosted area: the highest of the first stack that has one. -/
def State.spareGranule (s : State) : Nat :=
  ((([2, 3, 4, 5, 6, 7] : List Nat).findSome? (fun k =>
    let top := s.goodCount k - deviceCount - s.mapCount k
    let free := (List.range top).find? (fun j =>
      let g := skipping (s.retiredOf k) (top - 1 - j)
      !(s.takenGranules k).contains g && !s.frameGranule k g)
    free.map (fun j => k * 65536 + skipping (s.retiredOf k) (top - 1 - j))))).getD unmapped

/-- R515: the slots of hosted areas that hold a granule lose their tag, and another granule is mapped in its place. -/
def State.remapHosted (s : State) (k g : Nat) : State :=
  let e := k * 65536 + g
  s.seed.areas.foldl (fun (s : State) a =>
    match a.2.findIdx? (fun x => x = e) with
    | none => s
    | some i =>
      let each := max 1 (s.seed.slotBytes / granule)
      let s := s.putSlot a.1 (i / each) s.tagPlace (List.replicate 64 0)
      { s with seed := { s.seed with areas := Tab.put a.1 (a.2.set i s.spareGranule) s.seed.areas } }) s

/-- R313: an uncorrectable error in a stack (DEDUCED, log 66). -/
def State.hbmLost (s : State) (k addr : Nat) : State :=
  let g := addr / granule
  let s := s.count (cHbmUe k) 1
  let list := (s.stack k).retired
  let detail (n : Nat) : List Byte := leBytes 8 (g * granule) ++ leBytes 2 n
  if g ≥ stackGranules || list.contains g then s
  else if list.length ≥ 256 then
    let r : FaultRec := { kind := 7, check := k, die := k / 2, detail := detail 256 }
    s.fenceFunc (0x54 + k) r
  else
    let framed := s.frameGranule k g
    let s := (s.remapHosted k g).retire k g
    let r : FaultRec := { kind := 7, func := 0x54 + k, check := k, die := k / 2, action := 4, detail := detail (list.length + 1) }
    if framed then (s.dropFrames k g).hold r else s.record r

/-! ### Errors that a check code finds -/

/-- R312, R489: the function that an uncorrectable error fences, with the memory's number and the die. -/
def errorTarget : MemLoc → Nat → Nat × Nat × Nat
  | .near n, _ => (n.val, 0, n.val / 16)
  | .acc n, _ => (n.val, 1, n.val / 16)
  | .slice r, _ => (0x40 + r.val, 2, r.val / 4)
  | .partition d, _ => (0x40 + 4 * d.val + 3, 3, d.val)
  | .sillage d, _ => (0x50 + d.val, 4, d.val)
  | .pool d, a => (0x40 + 4 * d.val + (a - 0x100000000) / sliceSize % 4, 5, d.val)
  | .hbm k, _ => (0x54 + k.val, 0, k.val / 2)

/-- R20, R187: the unit that the record of an uncorrectable error names: near SRAM and ACC of a cluster, context memory of Sillage. -/
def errorUnit : MemLoc → Nat
  | .near n => unitLocator n 7 0
  | .acc n => unitLocator n 8 0
  | .sillage _ => 3
  | _ => 0

/-- R312, R133, R219, R262: the counter of a correctable error. -/
def errorCounter : MemLoc → Nat
  | .near n => cNearCe n
  | .acc n => cAccCe n
  | .slice r => cTierCe r
  | .partition d => cTierCe (4 * d.val + 3)
  | .sillage d => cSillCe d
  | .pool d => cSillCe d
  | .hbm k => cHbmCe k

/-- R312 to R314: what a read finds in a memory (DESIGN CHOICE, log 125). -/
def State.foundError (s : State) (loc : MemLoc) (addr : Nat) (find : EccFind) : State :=
  match find with
  | .clean => s
  | .correctable => s.count (errorCounter loc) 1
  | .uncorrectable =>
    if s.power.transit then s
    else match loc with
    | .hbm k => s.hbmLost k addr
    | _ =>
      let t := errorTarget loc addr
      s.fenceFunc t.1 { kind := 6, unit := errorUnit loc, check := t.2.1, die := t.2.2, detail := leBytes 8 addr }

def execScrubRead (loc : MemLoc) (addr : Nat) (find : EccFind) (s : State) : Result := done (s.foundError loc addr find)

/-! ### Refresh (R315) -/

/-- R315: the refresh rate at a temperature, from the rate in force. -/
def refreshRate (old temp : Nat) : Nat :=
  if temp ≥ 95 then 4
  else if old = 4 && temp ≥ 93 then 4
  else if temp ≥ 85 then 2
  else if old ≥ 2 && temp ≥ 83 then 2
  else 1

/-- R315: a controller reads its stack's temperature sensor. -/
def State.readTemp (s : State) (k : Nat) (temp : BitVec 8) : State :=
  let v := s.stack k
  let rate := refreshRate v.rate temp.toNat
  s.setStack k { v with temp := temp, rate := rate, highRate := max v.highRate rate }

end Sys2Proof.Machine
end

