-- ==== Sys2Proof/Machine/Power.lean ====
section
/-! DEFINITION. Power states (R33 to R35, R530 to R533), Drydown (R534 to R541), freeze duty and heat (R542, R543, R587), the loss
of die 0's power domain (R39, R492) and the references (R585). -/

namespace Sys2Proof.Machine

/-! ### Power states -/

/-- R539: the depth cap of a die. -/
def State.depthCap (s : State) (d : Nat) : Nat := if s.power.ballastDie.getLsbD d then 2 else 4

/-- Whether a cluster has nothing in progress. -/
def State.clusterIdle (s : State) (n : Nat) : Bool :=
  (s.cluster n).ops.isEmpty && (s.cluster n).item.isNone && (s.cluster n).cores.toList.all (fun c => !c.running)

/-- Whether a part is idle (R532). -/
def State.partIdle (s : State) : Part → Bool
  | .unit n u => (s.cluster n).ops.all (fun o => !o.units.testBit u)
  | .cores n => (s.cluster n).item.isNone && (s.cluster n).cores.toList.all (fun c => !c.running)
  | .sillChoice d => (s.sillage d).choice.isEmpty
  | .sillSend d => (s.sillage d).exch.isEmpty
  | .cluster n => s.clusterIdle n
  | .region r => (List.range 4).all (fun j => s.clusterIdle (4 * r.val + j))
  | .die d => (List.range 16).all (fun j => s.clusterIdle (16 * d.val + j)) && (s.sillage d).choice.isEmpty &&
      (s.sillage d).exch.isEmpty && s.copies.all (fun p => p.1 / 16 ≠ d.val || p.2.isEmpty)

/-- R35: whether the parts below allow a state. -/
def State.partsAllow (s : State) (p : Part) (t : Nat) : Bool :=
  match p with
  | .region r => t < 3 || (List.range 4).all (fun j => s.partState (stateKey 1 (4 * r.val + j)) ≥ 2)
  | .die d => t < 4 || (List.range 4).all (fun j => s.partState (stateKey 2 (4 * d.val + j)) ≥ 3)
  | _ => true

/-- R530: the bundles that the idle scanner of a die has read: the next `k` of the body, at most up to its end. -/
def State.scanned (s : State) (d k : Nat) : List Bundle :=
  (List.range (min k ((s.bodyOf d).2 - (s.seq d).bundle))).map (fun j => bundleOf (s.readLocal (s.bundleAddr d + 128 * j) 128))

/-- R531: whether a bundle is a known event of cluster `n`: it names the cluster, or opens a Clearing that includes it. -/
def State.namesUnit (n : Nat) (b : Bundle) : Bool := b.used.any (fun x => x.1 = n % 16)
def State.opensFor (s : State) (n : Nat) (b : Bundle) : Bool :=
  b.ctl = 3 && ((s.clearDesc (n / 16) b.operand).map (·.clusters)).any (fun m => m.testBit (n % 16))

/-- R531: whether a bundle is the next known event of a part (DEDUCED, log 67). -/
def State.eventOf (s : State) (b : Bundle) : Part → Bool
  | .unit n _ => State.namesUnit n b
  | .cores n => s.opensFor n b
  | .sillChoice _ | .sillSend _ => b.sill.1 ≠ 0
  | .cluster n => State.namesUnit n b || s.opensFor n b
  | .region r => b.sill.1 ≠ 0 || b.mem.1 ≠ 0 || b.fab.1 ≠ 0 ||
      (List.range 4).any (fun j => State.namesUnit (4 * r.val + j) b || s.opensFor (4 * r.val + j) b)
  | .die _ => !b.used.isEmpty || b.sill.1 ≠ 0 || b.mem.1 ≠ 0 || b.fab.1 ≠ 0 || b.ctl ≠ 0

/-- R531: the cycle of the first bundle of a scan that is an event, from cycle `t` on as if nothing stalls; past `TICK_WAIT` the next
edge; else the end of what has been scanned. -/
def scanFor (event : Bundle → Bool) (edge : Nat) : Nat → List Bundle → Nat
  | t, [] => t
  | t, b :: l => if event b then t else if b.ctl = 1 then edge else scanFor event edge (t + b.hold + 1) l

/-- R531: ends that are known without the stream: of operations in progress of the clusters, of the length of their open window. -/
def State.knownEnds (s : State) (n : Nat) : List Nat :=
  (s.cluster n).ops.map (·.due) ++
    (match (s.seq (n / 16)).window with
      | some w => if w.clusters.testBit (n % 16) then [w.openAt + w.length] else []
      | none => [])

/-- The clusters of a part. -/
def partClusters : Part → List Nat
  | .unit n _ | .cores n | .cluster n => [n]
  | .region r => (List.range 4).map (4 * r.val + ·)
  | _ => []

/-- R531: the next known event of a part, after a scan of `k` bundles. -/
def State.nextEvent (s : State) (p : Part) (k : Nat) : Nat :=
  let d := stateDie (partKeyOf p)
  let fromStream :=
    if (s.seq d).waiting.isSome then s.tick.nextEdge
    else scanFor (fun b => s.eventOf b p) s.tick.nextEdge (s.issueCycle d) (s.scanned d k)
  ((partClusters p).flatMap s.knownEnds).foldl min fromStream

/-- R532: the state that an idle part chooses for a gap. -/
def State.choose (s : State) (p : Part) (gap : Nat) : Nat :=
  (((List.range (deepest p)).map (· + 1)).filter (fun t =>
    t ≤ s.depthCap (stateDie (partKeyOf p)) && gap ≥ wakeCycles t && (t = 1 || gap > breakEven t) && s.partsAllow p t)).foldl max 0

/-- R532: a part takes a state, and its wake-up is scheduled for its next known event. -/
def State.putState (s : State) (key t event : Nat) : State :=
  s.setPower { s.power with
    states := Tab.put key (t, s.cc) s.power.states, wakeAt := Tab.put key (event - wakeCycles t) s.power.wakeAt
    waking := Tab.drop key s.power.waking }

/-- R532: an idle part enters the deepest state that the gap to its next known event allows; one in S2 or deeper stays as it is until
it wakes (DEDUCED, log 67). -/
def State.enterState (s : State) (p : Part) (k : Nat) : State :=
  let key := partKeyOf p
  let old := s.partState key
  let event := s.nextEvent p k
  let t := s.choose p (event - s.cc)
  if !s.partIdle p || old ≥ 2 || t ≤ old then s
  else
    let s := if old = 0 then s else s.countState key old ((Tab.get (0, 0) key s.power.states).2) s.cc
    let s := s.putState key t event
    match p with
    | .die d => if t = 4 then s.refreshAlone d true else s
    | _ => s

def execPowerStateEntry (p : Part) (scanned : Nat) (s : State) : Result := done (s.enterState p scanned)

def execPowerStateWake (p : Part) (s : State) : Result := done (s.wakePart p)

/-- R33, R533: an access finds memory of a part in a power state: it waits for the wake-up, which is counted (DEDUCED, log 67). -/
def State.accessWakes (s : State) (p : Part) : State :=
  match p with
  | .cluster _ | .region _ | .die _ => s.accessKey (partKeyOf p)
  | _ => s

def execWakeOnAccess (p : Part) (s : State) : Result := done (s.accessWakes p)

/-! ### Drydown -/

/-- R534: a rail monitor's sample of a die: 1 µs at a power in mW. -/
def State.sampleRails (s : State) (d mw : Nat) : State :=
  let t := Tab.put d (Tab.get 0 d s.power.samples + mw) s.power.samples
  s.setPower { s.power with samples := Tab.put (4 + d) (Tab.get 0 (4 + d) t + 1) t, energyNj := s.power.energyNj + mw }

def execRailSample (d : Fin 4) (mw : Nat) (s : State) : Result := done (s.sampleRails d mw)

/-- R534: average power of a die over its samples since the last step. -/
def State.dieAverage (s : State) (d : Nat) : Nat := Tab.get 0 d s.power.samples / max 1 (Tab.get 0 (4 + d) s.power.samples)

/-- Average of a list. -/
def averageOf (l : List Nat) : Nat := l.sum / max 1 l.length

/-- R535: demand, in mW. -/
def State.demand (s : State) : Nat :=
  let p := s.power
  let work := (p.tickPeak :: p.peaks).foldl max 0 * 102 / 100
  match s.job.state with
  | .running => if p.sinceRelease < 16 then max work (p.startW.toNat * 1000) else work
  | .held => p.heldMw
  | .loaded | .waitArm | .restoring => p.startW.toNat * 1000
  | _ => Config.idleWatts * 1000

/-- R535, R539: the target. -/
def State.target (s : State) : Nat := min (s.power.capW.toNat * 1000) (max (s.power.floorW.toNat * 1000) s.demand)

/-- R541: whether the level ramps down after a job's end. -/
def State.endRamp (s : State) (target : Nat) : Bool :=
  (match s.job.state with
    | .none | .loading | .stopped | .ended => true
    | _ => false) && target < s.power.heldMw

/-- R535, R536, R541: the held level after one step of 10 µs (DESIGN CHOICE, log 68). -/
def State.nextHeld (s : State) (target downFrom : Nat) : Nat :=
  let p := s.power
  let limit := p.ramp.toNat * 10
  let down := if s.endRamp target then min limit (max 1 ((downFrom - target) / (max 1 p.downMs.toNat * 100))) else limit
  if p.heldMw < target then min target (p.heldMw + limit) else max target (p.heldMw - down)

/-- Adds to a saturating count of a register field. -/
def satBits {w : Nat} (v : BitVec w) (k : Nat) : BitVec w := BitVec.ofNat w (satAdd w v.toNat k)

/-- R547: the state of the power manager. -/
def State.powerMode (s : State) (target : Nat) : BitVec 3 :=
  if s.power.tripping then 4
  else match s.job.state with
    | .running => if s.power.sinceRelease < 16 && s.power.heldMw < target then 1 else 2
    | .held => 2
    | .loaded | .waitArm | .restoring => 1
    | _ => if target < s.power.heldMw then 3 else 0

/-- R547: an event of power or heat. -/
def State.powerEvent (s : State) (happens : Bool) : State := if happens then s.raise 37 else s

/-- R39, R535 to R541: one step of Drydown, which is lost with die 0 (DESIGN CHOICE, log 23; DESIGN CHOICE, log 68). -/
def State.drydown (s : State) : State :=
  if s.power.transit then s else
  let avgs := ([0, 1, 2, 3] : List Nat).map s.dieAverage
  let input := avgs.sum
  let p := s.power
  let work := input - p.ballastMw
  let window := (input :: p.window).take 10
  let s := s.setPower { p with samples := [], window := window, tickPeak := max p.tickPeak work }
  let target := s.target
  let downFrom := if s.endRamp target && p.mode ≠ 3 then p.heldMw else p.downFrom
  let held := s.nextHeld target downFrom
  let room := Config.ballastLimit (popBits 116 s.fence.fenced.toNat) * 1000
  let ballast := min (held - work) room
  let short := held - work > room
  let past := work > held
  let duty := if past then 1 + Config.limitDuty s.free % 64 else 0
  let total := max 1 work
  let share (d : Nat) : Nat := if work = 0 then held / 4 else held * avgs.getD d 0 / total
  let ballastDie := ([0, 1, 2, 3] : List Nat).foldl (fun m d => m + b2n (ballast ≠ 0 && share d > avgs.getD d 0 * work / max 1 input) * 2 ^ d) 0
  let closes := (p.steps + 1) % 10 = 0
  let mean := averageOf window
  let diff := if mean > p.inputMw then mean - p.inputMw else p.inputMw - mean
  let breach := closes && p.tripping && diff > p.ramp.toNat * 100
  let s := s.countHolds
  let overSteps := if past then p.overSteps + 1 else p.overSteps
  let shortSteps := if short then p.shortSteps + 1 else p.shortSteps
  let mode := s.powerMode target
  let s := if past then s.spend else s
  let s := s.setPower { s.power with
    steps := p.steps + 1, inputMw := if closes then mean else p.inputMw, heldMw := held, targetMw := target, downFrom := downFrom
    ballastMw := ballast, ballastDie := BitVec.ofNat 4 ballastDie, mode := mode, powerDuty := duty
    overSteps := overSteps, shortSteps := shortSteps
    capLimitMs := if past && overSteps % 100 = 0 then satBits p.capLimitMs 1 else p.capLimitMs
    floorShortMs := if short && shortSteps % 100 = 0 then satBits p.floorShortMs 1 else p.floorShortMs
    breaches := if breach then satBits p.breaches 1 else p.breaches
    maxDuty := max p.maxDuty duty
    tickInput := p.tickInput + input, tickSteps := p.tickSteps + 1, tickInputPeak := max p.tickInputPeak input
    tickBallast := p.tickBallast + ballast * 10 }
  s.powerEvent ((p.powerDuty = 0 && past) || (p.shortSteps = shortSteps - 1 && short && p.ballastMw < room) || breach)

def execDrydownStep (s : State) : Result := done s.drydown

/-! ### Heat -/

/-- R571: a `PlatformEventMessage` at the start of a thermal trip (DEDUCED, log 70). -/
def State.tripEvent (s : State) : State := s.send (.i3c 1 (leBytes 2 0xFFFF ++ leBytes 8 s.power.trips.toNat))

/-- R543, R587: an emergency trip starts (DEDUCED, log 70). -/
def State.startTrip (s : State) : State :=
  if s.power.tripping then s
  else
    let s := s.countHolds
    let s := s.setPower { s.power with tripping := true, thermalDuty := 64, maxDuty := 64, mode := 4, trips := satBits s.power.trips 1 }
    (s.tripEvent).raise 37

/-- R543: `THERMTRIP_N` is asserted; it stays so. -/
def State.assertThermtrip (s : State) : State :=
  if s.power.thermTrip then s else (s.setPower { s.power with thermTrip := true }).send (.pin 0 false)

/-- R543: thermal freeze duty outside a trip. -/
def State.adjustDuty (s : State) (hottest : Nat) : State :=
  let s := s.countHolds
  let d := s.power.thermalDuty
  let t := s.power.throttle.toNat
  let d := if hottest ≥ t then max d (min 48 (d + 4)) else if hottest + 3 < t then d - 1 else d
  s.setPower { s.power with thermalDuty := d, maxDuty := max s.power.maxDuty d }

/-- R543: the end of a trip. -/
def State.endTrip (s : State) : State :=
  let s := s.countHolds
  (s.setPower { s.power with tripping := false, thermalDuty := 48 }).raise 37

/-- R543: the PMU reads 8 junction sensors of each die and the stacks' temperatures. -/
def State.readSensors (s : State) (junctions hbm : List (BitVec 8)) : State :=
  let j (d : Nat) : Nat := ((junctions.drop (8 * d)).take 8).foldl (fun m t => max m t.toNat) 0
  let h (d : Nat) : Nat := ((hbm.drop (2 * d)).take 2).foldl (fun m t => max m t.toNat) 0
  let dies : List Nat := [0, 1, 2, 3]
  let trip := s.power.trip.toNat
  let hottest := (dies.map j).foldl max 0
  let stacksMax := (dies.map h).foldl max 0
  let past (d : Nat) : Bool := j d ≥ trip || h d ≥ 105
  let tripped := dies.foldl (fun m d => m + b2n (past d) * 2 ^ d) 0
  let s := s.setPower { s.power with
    tj := dies.map (fun d => BitVec.ofNat 8 (j d)), hbmMax := BitVec.ofNat 8 stacksMax, tripped := BitVec.ofNat 4 tripped }
  let s := if hottest ≥ 125 then s.assertThermtrip else s
  if dies.any past then s.startTrip
  else if s.power.tripping then
    if hottest + 5 < trip && stacksMax < 100 && !s.power.boardHot then s.endTrip else s
  else s.adjustDuty hottest

def execThermalRead (junctions : List (BitVec 8)) (hbmTemps : List (BitVec 8)) (s : State) : Result :=
  done (s.readSensors junctions hbmTemps)

/-- R543: a junction's own comparator, set to 125 °C. -/
def execThermtripCompare (_d : Fin 4) (temp : BitVec 8) (s : State) : Result :=
  done (if temp.toNat ≥ 125 then s.assertThermtrip else s)

/-- R587: `BRD_HOT_N` (DEDUCED, log 70). -/
def execBrdHotN (low : Bool) (s : State) : Result :=
  let t := s.setPower { s.power with boardHot := low }
  done (if low then t.startTrip else t)

/-- R315, R543: a controller reads its stack's temperature; 105 °C is an emergency. -/
def execHbmTempRead (k : Fin 8) (temp : BitVec 8) (s : State) : Result :=
  let t := s.readTemp k temp
  done (if temp.toNat ≥ 105 then t.startTrip else t)

/-! ### Die 0's power domain and the references -/

/-- Functions that go with die 0's power domain (R39): stacks 0 and 1, ports 6 and 7, channel group 0, bridges B01 and B20, die
router 0, Heartwood and the host link (DEDUCED, log 69). -/
def lostWithDie0 : List Nat := [0x54, 0x55, 0x62, 0x63, 0x64, 0x6A, 0x6D, 0x6E, 0x72, 0x73]

/-- R39, R492: loss of die 0's power domain: what it holds is gone, computation ends, and the other dies are in transit mode (DEDUCED, log 69). -/
def State.loseDie0 (s : State) : State :=
  if s.power.transit then s
  else
    let s := s.abandon
    let s := ([6, 7] : List Nat).foldl (fun (s : State) p => s.count (cPort p 4) (b2n (s.fab.up.getLsbD p))) s
    let s := s.setFab { s.fab with up := s.fab.up &&& 0x3F }
    let s := s.setPower { s.power with transit := true }
    let s := s.setTick { s.tick with run := false, edges := false, started := false, master := false, release := .idle }
    let s := s.setJob { s.job with state := if s.job.state = .none then .none else .held }
    s.setFence { s.fence with fenced := lostWithDie0.foldl (fun m f => m ||| BitVec.twoPow 116 f) s.fence.fenced }

def execDie0PowerLoss (s : State) : Result := done s.loseDie0

/-- R11: the references lost in this cycle. -/
def State.freshRefs (s : State) : Bool × BitVec 4 := if s.power.refFresh.1 = s.cc then s.power.refFresh.2 else (false, 0)

/-- R585: `REFCLK` is absent. -/
def execRefLost (s : State) : Result :=
  done (s.setPower { s.power with refLost := true, refEvent := true, refFresh := (s.cc, true, s.freshRefs.2) })

/-- R585: `REFCLK` returns: the PLLs slew back to it (DESIGN CHOICE, log 24). -/
def execRefReturn (s : State) : Result :=
  done (if s.power.refLost then
      (s.setPower { s.power with refLost := false, slewEnd := s.cc + Config.slewCycles s.free }).spend
    else s)

/-- R363, R585: `BREFCLK_d` is absent: the ports of the die go down (DEDUCED, log 71). -/
def execBrefLost (d : Fin 4) (s : State) : Result :=
  let s := s.setPower { s.power with
    brefLost := s.power.brefLost ||| BitVec.twoPow 4 d, brefEvent := s.power.brefEvent ||| BitVec.twoPow 4 d
    refFresh := (s.cc, s.freshRefs.1, s.freshRefs.2 ||| BitVec.twoPow 4 d) }
  done ((portsOf d).foldl (fun (s : State) p => if s.fab.up.getLsbD p then s.linkDown p 6 else s) s).pump

end Sys2Proof.Machine
end

