-- ==== Sys2Proof/Machine/Registers.lean ====
section
/-! DEFINITION. The registers of BAR0 (R458, R459) and their access rules (R9 to R11, R594): values, pieces of wide registers, and
the writes of the host and of the management parties (R572). -/

namespace Sys2Proof.Machine

/-! ### Values -/

/-- R461: `HOST_ERR`. -/
def State.hostErr (s : State) : Nat :=
  let h := s.host
  h.errOffset.toNat + h.errStatus.toNat * 2 ^ 40 + b2n h.errWrite * 2 ^ 43 + b2n h.errValid * 2 ^ 44 + h.errCount.toNat * 2 ^ 64

/-- R483: `FRESET_STATUS`. -/
def State.fresetStatus (s : State) : Nat :=
  let f := s.fence
  f.accepted.toNat + f.completed.toNat * 2 ^ 16 + f.lastFunc.toNat * 2 ^ 32 + f.lastAction.toNat * 2 ^ 40 +
    f.lastResult.toNat * 2 ^ 42 + b2n (!f.queue.isEmpty) * 2 ^ 45 + f.lastTime.toNat * 2 ^ 48

/-- R82: the registers of the `TICK` block. -/
def State.tickPeriod (s : State) : Nat := s.tick.period.toNat + s.tick.guard.toNat * 2 ^ 24
def State.tickStretch (s : State) : Nat :=
  s.tick.strCur.toNat + s.tick.strNext.toNat * 2 ^ 16 + s.tick.strCause.toNat * 2 ^ 32
def State.tickStatus (s : State) : Nat :=
  let t := s.tick
  b2n t.run + b2n t.master * 2 + t.backup.toNat * 4 + b2n t.repro * 16 + b2n t.beaconOk * 32 + t.missed.toNat * 2 ^ 8 +
    t.ovrHead.toNat * 2 ^ 16

/-- R547: the registers of the `POWER` block. -/
def State.pwrCfg (s : State) : Nat :=
  let p := s.power
  p.floorW.toNat + p.capW.toNat * 2 ^ 11 + p.startW.toNat * 2 ^ 22 + p.downMs.toNat * 2 ^ 33 + p.ramp.toNat * 2 ^ 41
def State.pwrStatus (s : State) : Nat :=
  let p := s.power
  let w (mw : Nat) : Nat := min 2047 (mw / 1000)
  w p.inputMw + w p.heldMw * 2 ^ 11 + w p.ballastMw * 2 ^ 22 + min 63 s.duty * 2 ^ 33 + p.ballastDie.toNat * 2 ^ 39 +
    p.mode.toNat * 2 ^ 43
def State.pwrEvents (s : State) : Nat :=
  let p := s.power
  p.capLimitMs.toNat + p.trips.toNat * 2 ^ 16 + p.breaches.toNat * 2 ^ 24 + p.floorShortMs.toNat * 2 ^ 32 + p.excursions.toNat * 2 ^ 48
def State.therm (s : State) : Nat :=
  leNat (s.power.tj.map (fun b => (b : Byte))) + s.power.hbmMax.toNat * 2 ^ 32 + s.power.tripped.toNat * 2 ^ 40
def State.thermCfg (s : State) : Nat := s.power.throttle.toNat + s.power.trip.toNat * 2 ^ 8

/-- R548: whether the last poll succeeded within 64 s. -/
def State.timeSynced (s : State) : Bool := s.sec.syncedAt.any (fun t => s.cc ≤ t + 64 * 1200000000)

/-- R548: `TIME_STATUS`; R585: `CLK_STATUS`. -/
def State.timeStatus (s : State) : Nat :=
  b2n s.timeSynced + s.sec.timePath.toNat * 2 + s.sec.timeOffset.toNat * 2 ^ 3
def State.clkStatus (s : State) : Nat :=
  let p := s.power
  b2n p.refLost + b2n (p.refLost || s.cc < p.slewEnd) * 2 + b2n p.refEvent * 4 + p.brefLost.toNat * 2 ^ 3 + p.brefEvent.toNat * 2 ^ 7

/-- R575: the `TELEM` block. -/
def State.telemInfo (s : State) : Nat := s.sec.telemCount + ceilDiv s.sec.telemLen 32 * 2 ^ 12
def State.telemBoot (s : State) : Nat :=
  s.sec.bootFail.toNat + s.sec.bootFailStage.toNat * 2 ^ 4 + b2n s.sec.warm * 2 ^ 8 + s.sec.boot10ms.toNat * 2 ^ 16

/-- R378: the `FABRIC` registers. -/
def State.fabJob (s : State) : Nat := s.fab.jobTag.toNat + s.fab.teardown.toNat * 2 ^ 32
def State.fabLinkdown (s : State) : Nat := s.fab.admin.toNat + s.fab.up.toNat * 2 ^ 8 + s.fab.dateline.toNat * 2 ^ 16
def State.fabBeacon (s : State) : Nat := s.fab.parent.toNat + s.fab.children.toNat * 2 ^ 4
def State.fabMgr (s : State) : Nat := leNat (s.fab.mgr.flatMap (fun m => leBytes 2 m.toNat))
def State.fabPort (s : State) (p : Nat) : Nat :=
  let v := s.port p
  v.state.toNat + v.fail.toNat * 2 ^ 3 + v.delay.toNat * 2 ^ 8 + v.peer.toNat * 2 ^ 28 + v.peerPort.toNat * 2 ^ 44

/-- R505: `SB_CTRL`. -/
def State.sbCtrl (s : State) : Nat := s.seed.tag.toNat + s.seed.restoreStep.toNat * 2 ^ 16

/-- R458: every register: offset in BAR0, bytes, value (DEDUCED, log 63). -/
def State.registers (s : State) : List (Nat × Nat × Nat) :=
  [(0x00, 4, s.identPart), (0x08, 8, s.host.serial.toNat), (0x10, 8, s.identFw), (0x18, 4, s.identState), (0x20, 4, s.identLink),
    (0x28, 4, s.identFuse), (0x1000, 8, s.host.irqStatus.toNat), (0x1008, 8, s.host.irqMask.toNat), (0x1010, 4, s.host.outIrq.toNat),
    (0x1018, 16, s.hostErr), (0x3000, 8, s.host.pba.toNat), (0x30000, 4, s.host.post.toNat), (0x30008, 4, 0),
    (0x30010, 8, s.fresetStatus), (0x31000, 16, s.fence.fenced.toNat), (0x31010, 16, s.fence.used.toNat)] ++
  [(0x40000, 8, s.tick.count.toNat), (0x40008, 4, s.tickPeriod), (0x40010, 8, s.tickStretch), (0x40018, 4, s.tickStatus),
    (0x40020, 4, s.tick.ovrCount.toNat), (0x50000, 8, s.pwrCfg), (0x50008, 8, s.pwrStatus), (0x50010, 8, s.pwrEvents),
    (0x50018, 8, s.power.energyNj / 1000000), (0x50020, 8, s.therm), (0x50028, 4, s.thermCfg), (0x50100, 8, s.time),
    (0x50108, 4, s.timeStatus), (0x50110, 4, s.clkStatus)] ++
  [(0x60000, 8, s.sec.telemLast.toNat), (0x60008, 4, s.telemInfo), (0x60010, 8, s.telemBoot), (0x60018, 8, s.ranger.traceCount),
    (0x70000, 4, s.fab.coord.toNat + s.fab.extent.toNat * 2 ^ 16), (0x70008, 8, s.fabJob), (0x70010, 4, s.fab.epoch.toNat + 512 * b2n s.fab.pending),
    (0x70018, 4, s.fabLinkdown), (0x70020, 4, s.fabBeacon), (0x70030, 8, s.fabMgr)] ++
  (List.range 8).map (fun p => (0x70100 + 0x40 * p, 8, s.fabPort p)) ++
  [(0x70800, 8, s.seed.buddy.toNat), (0x70808, 8, s.seed.hosts.toNat), (0x70810, 8, s.sbCtrl), (0x70818, 8, s.seed.replayUntil.toNat),
    (0x70820, 16, leNat s.sbStatus)]

/-- The register that an offset lies in. -/
def State.registerAt (s : State) (off : Nat) : Option (Nat × Nat × Nat) :=
  s.registers.find? (fun r => r.1 ≤ off && off < r.1 + r.2.1)

/-- R575: the 32 bytes of slot `i` of the trace window. -/
def State.traceSlot (s : State) (i : Nat) : List Byte :=
  let n := s.ranger.traceCount
  if i ≥ n || i ≥ traceSize then List.replicate 32 0
  else
    let newest := n - 1 - ((n - 1 + traceSize - i) % traceSize)
    match s.ranger.trace[n - 1 - newest]? with
    | some e => byteField (leBytes 8 e.time ++ leBytes 2 e.kind ++ leBytes 1 e.source ++ e.detail) 0 32
    | none => List.replicate 32 0

/-- R458: four bytes at an offset that lies in no register: tables, mailboxes and logs, or 0. -/
def State.areaWord (s : State) (off : Nat) : List Byte :=
  if 0x100 ≤ off && off < 0x200 then leBytes 4 (s.cluster ((off - 0x100) / 4)).fuse.toNat
  else if 0x2000 ≤ off && off < 0x2400 then getBlock zeroByte (off - 0x2000) 4 s.host.msixTable
  else if 0x10000 ≤ off && off < 0x30000 then getBlock zeroByte (off - 0x10000) 4 s.host.mailbox
  else if 0x40100 ≤ off && off < 0x40200 then byteField (Tab.get [] ((off - 0x40100) / 16) s.tick.ovrLog) (off % 16) 4
  else if 0x70400 ≤ off && off < 0x70480 then getBlock zeroByte (off - 0x70400) 4 s.fab.substShadow
  else if 0x80000 ≤ off && off < 0x88000 then
    (List.range 4).map (fun i => BitVec.ofNat 8
      (s.fab.escShadow.entry (2 * (off - 0x80000 + i)) + 16 * s.fab.escShadow.entry (2 * (off - 0x80000 + i) + 1)))
  else if 0x100000 ≤ off && off < 0x1000000 then byteField (s.traceSlot ((off - 0x100000) / 32)) (off % 32) 4
  else leBytes 4 0

/-- Whether a block defines an offset. -/
def State.defined (s : State) (off : Nat) : Bool :=
  (s.registerAt off).isSome || (0x100 ≤ off && off < 0x200) || (0x2000 ≤ off && off < 0x2400) || (0x10000 ≤ off && off < 0x30000) ||
    (0x40100 ≤ off && off < 0x40200) || (0x70400 ≤ off && off < 0x70480) || (0x80000 ≤ off && off < 0x88000) ||
    (0x100000 ≤ off && off < 0x1000000)

/-! ### Requesters -/

def State.access (s : State) (req : Requester) : Access := Tab.get {} (requesterCode req) s.host.access
def State.setAccess (s : State) (req : Requester) (a : Access) : State :=
  s.setHost { s.host with access := Tab.put (requesterCode req) a s.host.access }

/-- R459: four bytes as a requester reads them: the lowest bytes of a wide register capture it, and higher ones, in ascending
order, come from the capture (DEDUCED, log 63). -/
def State.readWord (s : State) (req : Requester) (off : Nat) : State × List Byte :=
  match s.registerAt off with
  | none => (s, s.areaWord off)
  | some (base, size, v) =>
    let now := byteField (leBytes size v) (off - base) 4
    if size = 4 then (s, now)
    else
      let a := s.access req
      if off = base then (s.setAccess req { a with captured := Tab.put base (leBytes size v) a.captured }, now)
      else match Tab.find base a.captured with
        | none => (s, now)
        | some bs => (s, byteField bs (off - base) 4)

/-! ### Writes -/

/-- R9: the value that a write leaves in a field of type RW: the bits that the write covers are new. -/
def merged (old mask new : Nat) : Nat := old - (old &&& mask) + (new &&& mask)

/-- R363, R475: `ADMIT` and `DATELINE` are written: ports that are now held down go down. -/
def State.writeLinkdown (s : State) (admin dateline : BitVec 8) : State :=
  let s := s.setFab { s.fab with admin := admin, dateline := dateline }
  (List.range 8).foldl (fun (s : State) p =>
    if s.fab.up.getLsbD p then (if admin.getLsbD p then s.linkDown p 0 else s)
    else s.setPort p { s.port p with state := if s.portHeld p then 7 else if (s.port p).state = 7 then 0 else (s.port p).state }) s

/-- R547: a `PWR_CFG` that is in range is accepted as a whole (DEDUCED, log 78). -/
def State.writePwrCfg (s : State) (v : Nat) : State :=
  let floorW := bitsOf v 0 11
  let capW := bitsOf v 11 11
  let startW := bitsOf v 22 11
  let downMs := bitsOf v 33 8
  let ramp := bitsOf v 41 8
  if floorW > 1350 || capW < 300 || capW > 1500 || startW > 1500 || downMs < 20 || ramp = 0 || ramp > 200 then s
  else
    (s.setPower { s.power with
      floorW := BitVec.ofNat 11 floorW, capW := BitVec.ofNat 11 capW, startW := BitVec.ofNat 11 startW
      downMs := BitVec.ofNat 8 downMs, ramp := BitVec.ofNat 8 ramp }).raise 37

/-- R547: a `THERM_CFG` that is in range is accepted as a whole. -/
def State.writeThermCfg (s : State) (v : Nat) : State :=
  let throttle := bitsOf v 0 8
  let trip := bitsOf v 8 8
  if throttle < 80 || throttle > 105 || trip < throttle + 5 || trip > 115 then s
  else (s.setPower { s.power with throttle := BitVec.ofNat 8 throttle, trip := BitVec.ofNat 8 trip }).raise 37

/-- R11, R594: a write by the host to the register at `base`; the mask tells the bits that it covers, and what the device set in this
cycle stays (DESIGN CHOICE, log 119). -/
def State.hostRegister (s : State) (base old mask new : Nat) : State :=
  let h := s.host
  let clear := new &&& mask
  match base with
  | 0x1000 => s.setHost { h with irqStatus := h.irqStatus &&& (~~~ BitVec.ofNat 38 clear ||| s.hostFresh.irq) }
  | 0x1008 => s.setHost { h with irqMask := BitVec.ofNat 38 (merged old mask new) }
  | 0x1010 => s.setHost { h with outIrq := BitVec.ofNat 16 (merged old mask new) }
  | 0x1018 => if bitAt clear 44 then s.setHost { h with errValid := s.hostFresh.errValid } else s
  | 0x30000 => s.setHost { h with post := h.post ||| BitVec.ofNat 32 clear }
  | 0x30008 => s.freset (bitsOf clear 0 8) (bitsOf clear 8 2) .host 0
  | _ => s

/-- R594: a write by a management party to the register at `base`, and whether it may write there. -/
def State.mgmtRegister (s : State) (req : Requester) (base old mask new : Nat) : State × Bool :=
  let v := merged old mask new
  let clear := new &&& mask
  match base with
  | 0x30008 => (s.freset (bitsOf clear 0 8) (bitsOf clear 8 2) req 0, true)
  | 0x50000 => (s.writePwrCfg v, true)
  | 0x50028 => (s.writeThermCfg v, true)
  | 0x50110 => (s.setPower { s.power with
      refEvent := s.power.refEvent && (!bitAt clear 2 || s.freshRefs.1)
      brefEvent := s.power.brefEvent &&& (~~~ BitVec.ofNat 4 (bitsOf clear 7 4) ||| s.freshRefs.2) }, true)
  | 0x70000 => (s.writeCoord (BitVec.ofNat 32 v), true)
  | 0x70008 => (if bitsOf mask 32 32 = 0 then s else s.writeTeardown (BitVec.ofNat 32 (v / 2 ^ 32)), bitsOf mask 32 32 ≠ 0)
  | 0x70010 => (if bitAt clear 8 then s.askCommit else s, true)
  | 0x70018 => (s.writeLinkdown (BitVec.ofNat 8 v) (BitVec.ofNat 8 (v / 2 ^ 16)), true)
  | 0x70020 => (s.setFab { s.fab with parent := BitVec.ofNat 4 v, children := BitVec.ofNat 8 (v / 16) }, true)
  | 0x70030 => (s.setFab { s.fab with mgr := (List.range 4).map (fun i => BitVec.ofNat 16 (v / 2 ^ (16 * i))) }, true)
  | 0x70800 => (s.setSeed { s.seed with buddy := BitVec.ofNat 64 (v % 2 ^ 34) }, true)
  | 0x70808 => (s.setSeed { s.seed with hosts := BitVec.ofNat 64 (v % 2 ^ 34) }, true)
  | 0x70810 => (s.setSeed { s.seed with tag := BitVec.ofNat 16 v, restoreStep := BitVec.ofNat 48 (v / 2 ^ 16) }, true)
  | 0x70818 => (s.setSeed { s.seed with replayUntil := BitVec.ofNat 48 v }, true)
  | _ => (s, false)

/-- R459, R462: bytes that the host may write in the tables of BAR0: of an MSI-X entry all but the reserved bits of its control
word, of a mailbox all but bytes 12 to 63 of its header (DEDUCED, log 103). -/
def State.hostArea (s : State) (off : Nat) (b : Byte) : State :=
  if 0x2000 ≤ off && off < 0x2400 then
    if off % 16 < 12 then s.setHost { s.host with msixTable := putBlock zeroByte (off - 0x2000) [b] s.host.msixTable }
    else if off % 16 = 12 then s.setHost { s.host with msixTable := putBlock zeroByte (off - 0x2000) [b &&& 1] s.host.msixTable }
    else s
  else if 0x10000 ≤ off && off < 0x30000 then
    if 12 ≤ off % 4096 && off % 4096 < 64 then s
    else s.setHost { s.host with mailbox := putBlock zeroByte (off - 0x10000) [b] s.host.mailbox }
  else s

/-- R379, R380: bytes of the shadow tables, which the management parties write, and whether the byte is one of them. -/
def State.mgmtArea (s : State) (off : Nat) (b : Byte) : State × Bool :=
  if 0x70400 ≤ off && off < 0x70480 then
    (s.setFab { s.fab with substShadow := putBlock zeroByte (off - 0x70400) [if off % 8 = 7 then b &&& 0x80 else if off % 8 = 4 then b &&& 0x0F
      else if off % 8 < 4 then b else 0] s.fab.substShadow }, true)
  else if 0x80000 ≤ off && off < 0x88000 then
    let c := 2 * (off - 0x80000)
    let t := s.fab.escShadow
    (s.setFab { s.fab with escShadow := { t with
      written := Tab.put (c + 1) (b.toNat / 16) (Tab.put c (b.toNat % 16) t.written) } }, true)
  else (s, false)

/-- Registers that a span of `w` bytes covers, each once. -/
def State.covered (s : State) (off w : Nat) : List (Nat × Nat × Nat) :=
  s.registers.filter (fun r => r.1 < off + w && off < r.1 + r.2.1)

/-- The bits of a register that a span covers, and the span's value in the register's place. -/
def spanOf (base size off w value : Nat) : Nat × Nat :=
  if off ≥ base then ((2 ^ (8 * w) - 1) * 2 ^ (8 * (off - base)) % 2 ^ (8 * size), value * 2 ^ (8 * (off - base)))
  else ((2 ^ (8 * w) - 1) / 2 ^ (8 * (base - off)) % 2 ^ (8 * size), value / 2 ^ (8 * (base - off)))

/-- R459: a write of `w` bytes takes effect. The answer tells whether some field there gives its requester the write. -/
def State.putSpan (s : State) (req : Requester) (off w value : Nat) : State × Bool :=
  let a := s.access req
  let s := s.setAccess req { a with captured := a.captured.filter (fun c => !(s.covered off w).any (fun r => r.1 = c.1)) }
  let regs := (s.covered off w).foldl (fun (p : State × Bool) r =>
    let m := spanOf r.1 r.2.1 off w value
    if req = .host then (p.1.hostRegister r.1 r.2.2 m.1 m.2, p.2)
    else
      let t := p.1.mgmtRegister req r.1 r.2.2 m.1 m.2
      (t.1, p.2 || t.2)) (s, false)
  (leBytes w value).zipIdx.foldl (fun (p : State × Bool) b =>
    if (s.registerAt (off + b.2)).isSome then p
    else if req = .host then (p.1.hostArea (off + b.2) b.1, p.2)
    else
      let t := p.1.mgmtArea (off + b.2) b.1
      (t.1, p.2 || t.2)) regs

/-- R459: a held half takes effect alone. -/
def State.releaseHeld (s : State) (req : Requester) : State :=
  match (s.access req).held with
  | none => s
  | some (off, v) => ((s.setAccess req { s.access req with held := none }).putSpan req off 4 v).1

/-- Whether a lane belongs to a register of 64 or 128 bits. -/
def State.wideLane (s : State) (off : Nat) : Bool := (s.registerAt off).any (fun r => r.2.1 ≥ 8)

/-- R459: a write of `w` bytes by a requester (DEDUCED, log 63). -/
def State.writeSpan (s : State) (req : Requester) (off w value : Nat) : State × Bool :=
  if (w ≠ 4 && w ≠ 8) || off % w ≠ 0 then (s.releaseHeld req, false)
  else if w = 8 then (s.releaseHeld req).putSpan req off 8 (value % 2 ^ 64)
  else if off % 8 = 0 && s.wideLane off then
    let s := s.releaseHeld req
    (s.setAccess req { s.access req with held := some (off, value % 2 ^ 32) }, true)
  else match (s.access req).held with
    | some (lo, v) =>
      if off = lo + 4 then
        (s.setAccess req { s.access req with held := none }).putSpan req lo 8 (v + value % 2 ^ 32 * 2 ^ 32)
      else (s.releaseHeld req).putSpan req off 4 (value % 2 ^ 32)
    | none => s.putSpan req off 4 (value % 2 ^ 32)

/-- R459: a read of `w` bytes by a requester. -/
def State.readSpan (s : State) (req : Requester) (off w : Nat) : State × List Byte :=
  let s := s.releaseHeld req
  if (w ≠ 4 && w ≠ 8) || off % w ≠ 0 then (s, List.replicate w 0)
  else
    let lo := s.readWord req off
    if w = 4 then lo
    else
      let hi := lo.1.readWord req (off + 4)
      (hi.1, lo.2 ++ hi.2)

/-! ### The host's rows -/

/-- R459: a write of the host to BAR0; a fence of the host link stops it (R475) (DESIGN CHOICE, log 107). -/
def execRegisterWrite (off : BitVec 24) (width : Nat) (value : BitVec 64) (s : State) : Result :=
  done (if s.fenced 0x73 then s else (s.writeSpan .host off.toNat width value.toNat).1)

/-- R11: `TICK_OVR_COUNT` as a read finds it, without the overruns counted in this cycle, and those. -/
def State.ovrAtRead (s : State) : Nat × Nat :=
  let f := s.tick.ovrFresh
  if f.1 = s.cc && f.2.2 ≠ 0 then (f.2.1, f.2.2) else (s.tick.ovrCount.toNat, 0)

/-- R11, R82: the host reads `TICK_OVR_COUNT`, which the read clears; what is counted in the same cycle stays. -/
def State.readOverruns (s : State) : State :=
  if s.fenced 0x73 then s.send (.readData .host (List.replicate 4 0xFF))
  else
    let r := (s.setTick { s.tick with ovrCount := BitVec.ofNat 32 s.ovrAtRead.1 }).readSpan .host 0x40020 4
    (r.1.send (.readData .host r.2)).setTick { r.1.tick with
      ovrCount := BitVec.ofNat 32 s.ovrAtRead.2, ovrFresh := (s.cc, 0, s.ovrAtRead.2) }

def execTickOvrCountRead (s : State) : Result := done s.readOverruns

/-- R11: `HOST_ERR.COUNT` as a read finds it, without the accesses that failed in this cycle. -/
def State.errAtRead (s : State) : Nat := if s.hostFresh.counted = 0 then s.host.errCount.toNat else s.hostFresh.before

/-- R11, R459, R461: the host reads `HOST_ERR` in two accesses; the first captures it and clears `COUNT`, but for what is counted in
the same cycle. -/
def State.readHostErr (s : State) : State :=
  if s.fenced 0x73 then s.send (.readData .host (List.replicate 16 0xFF))
  else
    let f := s.hostFresh
    let lo := (s.setHost { s.host with errCount := BitVec.ofNat 32 s.errAtRead }).readSpan .host 0x1018 8
    let s := lo.1.setHost { lo.1.host with errCount := BitVec.ofNat 32 f.counted, fresh := { f with before := 0 } }
    let hi := s.readSpan .host 0x1020 8
    hi.1.send (.readData .host (lo.2 ++ hi.2))

def execHostErrRead (s : State) : Result := done s.readHostErr

end Sys2Proof.Machine
end

