-- ==== Sys2Proof/Machine/Boot.lean ====
section
/-! DEFINITION. The device reset and the boot (R553 to R556, R560, R586, R596), ROM recovery (R561, R562), Ranger's watchdog (R552)
and the test access port (R588). -/

namespace Sys2Proof.Machine

/-! ### The device reset -/

/-- A boot record over a device reset: a stage of firmware in progress leaves no mark (R576). -/
def BootRec.afterReset (b : BootRec) : BootRec := { b with running := 0 }

/-- R36, R556, R557, R313: what Understory keeps over a device reset: what flash and the persistent store hold (DEDUCED, log 72). -/
def Understory.afterReset (u : Understory) : Understory :=
  let channels := u.channels.map (fun (p : Nat × Channel) => (p.1, { p.2 with present := false, lastTrain := 0, busyUntil := 0 }))
  { quotas := u.quotas, ckptUnits := u.ckptUnits, formatted := u.formatted, content := u.content, map := u.map, lost := u.lost
    channels := channels, readOnly := u.readOnly, seqNo := u.seqNo, journal := u.journal, journalLog := u.journalLog
    mapCopy := u.mapCopy, slots := u.slots }

/-- R553, R557: what Ranger keeps over a device reset: firmware slots, boot records, fuses and the owner root (DEDUCED, log 72). -/
def Security.afterReset (x : Security) (warm : Bool) : Security :=
  { mgmtA := x.mgmtA, mgmtB := x.mgmtB, hwdA := x.hwdA, hwdB := x.hwdB, mgmtBoot := x.mgmtBoot.afterReset
    hwdBoot := x.hwdBoot.afterReset, fuses := x.fuses, ownerRoot := x.ownerRoot, warm := warm }

/-- R553, R586: a device reset. On-chip memory and HBM keep their contents until boot zeroes them (R596) (DEDUCED, log 72). -/
def State.deviceReset (s : State) (warm : Bool) : State :=
  let kept := s.hbmStacks.map (fun (p : Nat × Stack) => (p.1, ({ retired := p.2.retired } : Stack)))
  { State.reset with
    sram := s.sram, hbm := s.hbm, hbmStacks := kept, und := s.und.afterReset, sec := s.sec.afterReset warm
    power := { thermTrip := s.power.thermTrip }, jtag := s.jtag, free := s.free, tx := s.tx, pending := s.pending }

/-- R586: a low pulse on SYS_RST_N of 1 µs or longer resets the device; a shorter one does nothing (DEDUCED) (DEDUCED, log 72). -/
def State.resetPin (s : State) (lowNs : Nat) : State := if lowNs ≥ 1000 then s.deviceReset true else s

def execSysRstN (lowNs : Nat) (s : State) : Result := done (s.resetPin lowNs)

/-! ### Boot -/

/-- R554: a boot fault: the lowest code and the stage of it stand in `TELEM_BOOT`. -/
def State.bootFault (s : State) (code stage : Nat) : State :=
  if s.sec.bootFail = 0 || code < s.sec.bootFail.toNat then
    s.setSec { s.sec with bootFail := BitVec.ofNat 4 code, bootFailStage := BitVec.ofNat 4 stage }
  else s

/-- R553, R554: boot ends, in `READY` (1) or `FAILED` (2). -/
def State.endBoot (s : State) (state : Nat) : State :=
  (s.setHost { s.host with bootState := BitVec.ofNat 2 state }).setSec
    { s.sec with boot10ms := BitVec.ofNat 16 (min 65535 (s.cc / 12000000)) }

/-- R554: boot ends in `FAILED` at a stage. -/
def State.bootFailed (s : State) (code stage : Nat) : State := (s.bootFault code stage).endBoot 2

/-- R553, R575: a stage is complete: `BOOT_STAGE`, a trace entry, and the next stage begins. -/
def State.stageComplete (s : State) (k : Nat) : State :=
  ((s.setHost { s.host with bootStage := BitVec.ofNat 4 k }).setSec { s.sec with bootNow := k + 1 }).addTrace 1 0 (leBytes 1 k)

/-- R560: the slot that a boot selects for a kind, and the boot record then: a trial counts down; a trial that never reached
`READY` gives way to the other slot; a slot whose image fails R558 gives way at once. None when no image passes. -/
def Security.selectSlot (x : Security) (kind : Nat) : Option Security :=
  let b := x.boot kind
  let lostTrial := b.tries = 0 && b.staged = some b.active
  let first := if lostTrial then 1 - b.active else b.active
  let b := if lostTrial then { b with staged := none } else b
  if x.slotGood kind first then some (x.setBoot kind { b with running := first, tries := b.tries - 1 })
  else if x.slotGood kind (1 - first) then some (x.setBoot kind { b with running := 1 - first })
  else none

/-- The image that runs. -/
def Security.runningImage (x : Security) (kind : Nat) : List Byte := x.image kind (x.boot kind).running

/-- R553 stages 1 and 4: firmware of a kind is selected, verified and started. -/
def State.bootFirmware (s : State) (kind code stage : Nat) : State :=
  match s.sec.selectSlot kind with
  | none =>
    let s := s.bootFailed code stage
    if kind = 1 then s.setSec { s.sec with recovering := true } else s
  | some x =>
    let version := BitVec.ofNat 16 (fwVersion (x.runningImage kind))
    let slot := (x.boot kind).running = 1
    let h := if kind = 1 then { s.host with mgmtVersion := version, mgmtSlot := slot }
      else { s.host with hwdVersion := version, hwdSlot := slot }
    ((s.setSec x).setHost h).noteStaged.stageComplete stage

/-- R121, R459: spare rows (from bit 0) or columns (from bit 16) that the fuse records map out. -/
def Fuses.spares (f : Fuses) (lo : Nat) : Nat :=
  (f.records.map (fun r => b2n (bitsOf r.toNat lo 8 ≠ 0xFF) + b2n (bitsOf r.toNat (lo + 8) 8 ≠ 0xFF))).sum

/-- R553 stage 2: fuses are loaded, rails are on, and on-chip memory is zero (R596). -/
def State.loadFuses (s : State) : State :=
  let f := s.sec.fuses
  let s := s.setHost { s.host with
    serial := f.serial, rev := f.rev, arrays := 64, hbmDiv4 := f.hbmDiv4
    spareRows := BitVec.ofNat 8 (f.spares 0), spareCols := BitVec.ofNat 8 (f.spares 16) }
  let s := f.records.zipIdx.foldl (fun (s : State) r => s.setCluster r.2 { fuse := r.1 }) { s with clusters := [], sram := [] }
  s.setPower { s.power with rails := BitVec.allOnes 33 }

/-- R554: fault record of a function that boot lost (DESIGN CHOICE, log 30). -/
def State.bootRecord (s : State) (kind func : Nat) (detail : List Byte) : State :=
  (s.record { kind := kind, func := func, check := Config.bootRecordCheck s.free % 65536, detail := detail }).spend

/-- R553 stage 3: the stacks that train are in service, with zero contents (R596); each of the others is fenced. -/
def State.trainStacks (s : State) (failMask : Nat) : State :=
  let s := (List.range 8).foldl (fun (s : State) k => s.setStack k { s.stack k with trained := !failMask.testBit k }) (s.setHbm [])
  (maskBits 8 failMask).foldl (fun (s : State) k =>
    ((s.bootFault 8 3).fenceFunc (0x54 + k) { kind := 6, check := Config.bootRecordCheck s.free % 65536 }).spend) s

/-- R340 to R342: a channel that trains, with what its targets' parameter pages give. -/
def State.trainChannel (s : State) (c : Nat) : State :=
  let ch := s.channel c
  let ch := if ch.targets ≠ 0 then ch else { ch with
    targets := 1 + Config.nandTargets c % 8, blocks := Config.nandBlocks c, pagesPerBlock := Config.nandPages c
    table := ((List.range (Config.nandBlocks c)).filter (Config.nandBad c)).map (fun b => (b, ({ bad := true } : Block))) }
  s.setChannel c { ch with present := true, lastTrain := s.cc }

/-- R343: 2 MiB units of 7/8 of the capacity of good blocks, at most 64 TiB. -/
def State.formattedUnits (s : State) : Nat :=
  let pages := ((List.range 16).map (fun c => let ch := s.channel c
    if ch.present then (ch.blocksWhere c (fun b => !b.bad)).length * ch.pagesPerBlock else 0)).sum
  min (pages * 7 / 8 / 128) 0x2000000

/-- R343: a tier whose targets are unformatted is formatted; its capacity is fixed from then on. -/
def State.formatTier (s : State) : State :=
  if s.und.formatted ≠ 0 then s else s.setUnd { s.und with formatted := s.formattedUnits }

/-- R553 stage 7: the channels that are there train; those that fail are absent. -/
def State.trainChannels (s : State) (mask failMask : Nat) : State :=
  State.formatTier <| (maskBits 16 mask).foldl (fun (s : State) c =>
    if failMask.testBit c then (s.bootFault 10 7).bootRecord 14 (0x64 + c / 4) (leBytes 1 c) else s.trainChannel c) s

/-- R563: security version that an image with `COMMIT_SVN` moves its kind's minimum to, when it first reaches `READY`. -/
def Security.commitSvn (x : Security) (kind : Nat) : Security :=
  let img := x.runningImage kind
  let svn := field img 0x0E 1
  if field img 0x0B 1 % 2 = 0 || svn ≤ x.fuses.minSvn kind then x
  else if kind = 1 then { x with fuses := { x.fuses with minSvnMgmt := svn } }
  else { x with fuses := { x.fuses with minSvnHwd := svn } }

/-- R560: `READY`: no tries are left over, the running slot is the active one, and it is staged no longer. -/
def Security.confirm (x : Security) (kind : Nat) : Security :=
  let b := x.boot kind
  let staged := if b.staged = some b.running then none else b.staged
  (x.setBoot kind { b with tries := 0, active := b.running, staged := staged }).commitSvn kind

/-- R553 stage 8: `READY`, with vector 33. -/
def State.becomeReady (s : State) : State :=
  let s := ((s.setSec ((s.sec.confirm 1).confirm 2)).noteStaged.stageComplete 8).endBoot 1
  s.raise 33

/-- R553: bound of a stage in ms. -/
def stageBound (warm : Bool) : Nat → Nat
  | 0 => 50
  | 1 => 350
  | 2 => if warm then 400 else 600
  | 3 => if warm then 6000 else 16000
  | 4 => 300
  | 5 => 200
  | 6 => 200
  | 7 => 6500
  | _ => 0

/-- R553: the time of a stage, within its bound; stage 7 starts at the end of stage 3 (DESIGN CHOICE, log 29). -/
def State.passStage (s : State) (k : Nat) : State :=
  let from' := if k = 7 then s.sec.stage3End else s.cc
  (s.reach (from' + Config.stageCycles s.free % (stageBound s.sec.warm k * 1200000 + 1))).spend

/-- R553, R554: the work of stage `k` ends with what the hardware reports. -/
def State.stageWork (s : State) (k : Nat) (r : BootReport) : State :=
  match k with
  | 0 => (s.setHost { s.host with romVersion := Config.romVersion }).stageComplete 0
  | 1 => s.bootFirmware 1 1 1
  | 2 =>
    if !r.railsOk then s.bootFailed 2 2
    else if !r.fusesOk then s.bootFailed 3 2
    else if !r.keyOk then s.bootFailed 4 2
    else s.loadFuses.stageComplete 2
  | 3 =>
    if r.hbmFail = 0xFF then s.bootFailed 5 3
    else
      let s := s.trainStacks r.hbmFail.toNat
      (s.setSec { s.sec with stage3End := s.cc }).stageComplete 3
  | 4 => s.bootFirmware 2 6 4
  | 5 =>
    let s := if r.rate = 0 then (s.bootFault 9 5).bootRecord 14 0x73 [] else s
    (s.setHost { s.host with modules := if r.rate = 0 then 0 else r.modules, rate := if r.rate.toNat ≤ 3 then r.rate else 3 }).stageComplete 5
  | 6 => s.stageComplete 6
  | 7 => (s.trainChannels r.channels.toNat r.channelFail.toNat).stageComplete 7
  | _ => s.becomeReady

/-- R553: the stage in progress ends; nothing happens once boot has ended. -/
def State.bootStageEnds (s : State) (r : BootReport) : State :=
  if s.host.bootState ≠ 0 then s else (s.passStage s.sec.bootNow).stageWork s.sec.bootNow r

def execBootStageDone (r : BootReport) (s : State) : Result := done (s.bootStageEnds r)

/-- R555: neither `READY` nor `FAILED` within 60 s: the device is reset, with code 11. -/
def State.bootExpires (s : State) : State :=
  if s.host.bootState ≠ 0 then s
  else (s.deviceReset true).bootFault 11 s.sec.bootNow

def execBootWatchdog (s : State) : Result := done s.bootExpires

/-! ### Ranger's firmware -/

/-- R553, R492, R561: whether Ranger's firmware runs. -/
def State.rangerRuns (s : State) : Bool := s.sec.bootNow ≥ 2 && !s.sec.recovering && !s.power.transit

/-- R485, R552: a reset that was executing begins again. -/
def State.restartReset (s : State) : State :=
  match s.fence.queue with
  | c :: rest =>
    if c.action ≠ 0 || c.startNs = 0 then s
    else (s.setFence { s.fence with queue := { c with startNs := s.time + 1 } :: rest }).beginReset c
  | [] => s

/-- R552: Ranger alone restarts: its sessions and messages are lost, an executing reset runs again, and a trace entry tells. -/
def State.restartRanger (s : State) : State :=
  if !s.rangerRuns then s
  else
    let s := s.setSec { s.sec with
      sessions := [], spdm := [], algorithms := [], largeOut := none, largeIn := none, signing := none
      timeRequest := none, timeSent := none }
    s.restartReset.addTrace 7 0 []

def execRangerWatchdog (s : State) : Result := done s.restartRanger

/-! ### ROM recovery (R561, R562) -/

/-- R562: a response of the ROM. -/
def State.recoveryAnswer (s : State) (cmd result check : Nat) : State :=
  s.send (.i3c 0x7E (leBytes 1 cmd ++ leBytes 1 result ++ leBytes 1 check ++ leBytes 1 0 ++
    leBytes 8 ((s.sec.recovery.map (·.received)).getD 0)))

/-- R561: the ROM answers only in recovery (DEDUCED, log 73). -/
def State.inRecovery (s : State) (f : State → State) : State := if s.sec.recovering then f s else s

/-- R562: `BEGIN`. -/
def State.recoveryBegin (total : Nat) (s : State) : State :=
  if total < 4096 || total > 0x800000 then s.recoveryAnswer 1 2 0
  else (s.setSec ({ s.sec with recovery := some { total := total, received := 0 } }.setImage 1 0 [])).recoveryAnswer 1 0 0

def execRecoveryBegin (total : BitVec 64) (s : State) : Result := done (s.inRecovery (State.recoveryBegin total.toNat))

/-- R562: `PIECE` (DEDUCED, log 73). -/
def State.recoveryPiece (off len : Nat) (data : List Byte) (s : State) : State :=
  match s.sec.recovery with
  | none => s.recoveryAnswer 2 1 0
  | some r =>
    let data := byteField data 0 len
    if len = 0 || len > 1024 || off + len > r.total || (len ≠ 1024 && off + len ≠ r.total) then s.recoveryAnswer 2 2 0
    else if r.last = some (off, data) then s.recoveryAnswer 2 0 0
    else if off ≠ r.received then s.recoveryAnswer 2 3 0
    else
      (s.setSec { s.sec with recovery := some { r with
        received := r.received + len, last := some (off, data), data := r.data ++ data } }).recoveryAnswer 2 0 0

def execRecoveryPiece (off : BitVec 32) (len : BitVec 16) (data : List Byte) (s : State) : Result :=
  done (s.inRecovery (State.recoveryPiece off.toNat len.toNat data))

/-- R562: `END`: an image that passes R558 is written to slot A, and the device is reset (DESIGN CHOICE, log 25). -/
def State.recoveryEnd (s : State) : State :=
  match s.sec.recovery with
  | none => s.recoveryAnswer 3 1 0
  | some r =>
    if r.received < r.total then (s.recoveryAnswer 3 (Config.earlyEndResult s.free).toNat 0).spend
    else match fwCheck s.sec.fuses 1 r.data with
      | some c => s.recoveryAnswer 3 4 c
      | none => ((s.recoveryAnswer 3 0 0).setSec (s.sec.setImage 1 0 r.data)).deviceReset true

def execRecoveryEnd (s : State) : Result := done (s.inRecovery State.recoveryEnd)

/-- R562: `STATUS`. -/
def execRecoveryStatus (s : State) : Result := done (s.inRecovery (fun s => s.recoveryAnswer 4 0 0))

/-! ### The test access port (R588) -/

def State.setJtag (s : State) (j : Jtag) : State := { s with jtag := j }

/-- R588: the IDCODE. -/
def State.idcode (s : State) : Nat := s.host.rev.toNat % 16 * 2 ^ 28 + 0x4816 * 2 ^ 12 + (12 * 2 ^ 7 + 0x5A) * 2 + 1

/-- Bits of a value, lowest first. -/
def bitList (n v : Nat) : List Bool := (List.range n).map v.testBit

/-- BYPASS: the one-bit register, which captures 0, stands between TDI and TDO; the outputs are the device's own (DESIGN CHOICE, log 101). -/
def execBypass (s : State) : Result :=
  done ((s.setJtag { s.jtag with instr := .bypass, driven := false, floating := false }).send (.tdo [false]))

def execIdcode (s : State) : Result :=
  done ((s.setJtag { s.jtag with instr := .idcode, driven := false, floating := false }).send (.tdo (bitList 32 s.idcode)))

/-- SAMPLE/PRELOAD: the lands are captured and shifted out while the boundary register takes the bits shifted in. -/
def execSamplePreload (scanIn : List Bool) (s : State) : Result :=
  let out := (List.range scanIn.length).map (Config.pinSample s.jtag.captures)
  done ((s.setJtag { s.jtag with
    instr := .sample, boundary := scanIn, driven := false, floating := false, captures := s.jtag.captures + 1 }).send (.tdo out))

/-- EXTEST: the boundary register drives the outputs; CLAMP: it holds them, with the bypass register selected; HIGHZ: they float. -/
def execExtest (s : State) : Result := done (s.setJtag { s.jtag with instr := .extest, driven := true, floating := false })
def execClamp (s : State) : Result := done (s.setJtag { s.jtag with instr := .clamp, driven := true, floating := false })
def execHighz (s : State) : Result := done (s.setJtag { s.jtag with instr := .highz, driven := false, floating := true })

end Sys2Proof.Machine
end

