-- ==== Sys2Proof/Machine/Restore.lean ====
section
/-! DEFINITION. `SNAPSHOT_NOW`, `RESTORE` and `CHECKPOINT_WRITE` (R467, R503, R516 to R519, R522 to R524). -/

namespace Sys2Proof.Machine

/-! ### SNAPSHOT_NOW and CHECKPOINT_WRITE -/

/-- R467, R503: `SNAPSHOT_NOW` asks for a snapshot and waits for its generation. -/
def State.snapshotCommand (a : Accepted) (s : State) : State :=
  if !zeroField a.request 0 8 then s.complete a sBadField 0 []
  else if s.job.cmdlist then s.complete a sNotPermitted 0 []
  else s.askMark 2 2 0x40

def execSnapshotNow (mb : Fin 32) (s : State) : Result := done (s.command mb cmdSnapshotNow State.snapshotCommand)

/-- R348, R467, R522: `CHECKPOINT_WRITE` takes the state of a stopped job at once, and waits for a cut otherwise. -/
def State.checkpointCommand (a : Accepted) (s : State) : State :=
  if !zeroField a.request 0 8 then s.complete a sBadField 0 []
  else if s.und.readOnly then s.complete a sUndReadOnly 0 []
  else if s.job.state == .stopped then
    match s.rangesAt s.job.nextBody with
    | none => s.complete a sCkptFailed s.ckptTarget []
    | some rs =>
      s.haveCheckpoint { req := a }
        { gen := 0, body := s.job.nextBody, step := s.job.stepNo.toNat, tick := s.job.resumeTick } rs 1
  else s.askMark 2 3 0x42

def execCheckpointWrite (mb : Fin 32) (s : State) : Result := done (s.command mb cmdCheckpoint State.checkpointCommand)

/-! ### RESTORE -/

/-- R516 step 2: every cluster's ACC is cleared. -/
def State.clearAcc (s : State) : State :=
  { s with clusters := s.clusters.map (fun (p : Nat × Cluster) => (p.1, { p.2 with acc := [], accInt := 0 })) }

/-- R516 step 3: the cache partitions are invalidated without write-back. -/
def State.loseCaches (s : State) : State := ([0, 1, 2, 3] : List Nat).foldl State.loseLines s

/-- R516 step 6: the pages that a layout's `TIERED` segments hold once frames are assigned again: every page that was resident
is `HOME`. -/
def State.rehome (s : State) (old : Tab Page) : State :=
  { s with und := { s.und with pages := old.foldl (fun (t : Tab Page) p =>
    if p.2.state.resident then Tab.put p.1 { state := .home } t else t) s.und.pages } }

/-- R516 step 5: contexts, pools, arrival planes and owner caches. -/
def State.reloadTables (s : State) : State :=
  (([0, 1, 2, 3] : List Nat).foldl State.buildPools s.loadContexts.zeroArrivals).clearOwnerCaches

/-- R516 steps 2 to 6, and whether the frames still fit (R324) (DEDUCED, log 59; DEDUCED, log 93). -/
def State.restoreSteps (s : State) : State × Bool :=
  let s := s.clearAcc.loseCaches
  match s.assignFrames s.job.segments with
  | .error _ => (s, false)
  | .ok (frames, free) =>
    let old := s.und.pages
    (((s.takeFrames frames free s.job.segments).rehome old).reloadTables, true)

/-- R505, R517: the homes that a restore asks, primary first. -/
def State.pullHomes (s : State) : List Nat :=
  let b := if s.seed.tag = 0 then 0 else s.seed.buddy.toNat
  (if bitAt b 32 then [bitsOf b 0 16] else []) ++ (if bitAt b 33 then [bitsOf b 16 16] else [])

/-- R231, R467, R482, R516: `RESTORE` checks the used set and the pool records, takes steps 2 to 6 and goes on to the set (DEDUCED, log 59). -/
def State.restoreCommand (a : Accepted) (s : State) : State :=
  let source := field a.request 0 1
  match firstBad [(0, source > 1), (1, !zeroField a.request 1 15)] with
  | some o => s.complete a sBadField o []
  | none =>
    if (s.fence.fenced &&& s.fence.used) ≠ 0 then s.complete a sBadState s.job.state.code []
    else match s.poolsRefusal with
    | some p => s.complete a sPoolRefused p []
    | none =>
      let s := (s.setJob { s.job with before := s.job.state }).setJobState .restoring
      match s.restoreSteps with
      | (s, false) => s.complete a sFramesRefused 0 []
      | (s, true) =>
        let s := s.setLong { req := a, phase := 1, note := s.seed.restoreStep.toNat }
        if source = 0 && s.seed.mode = 2 then s.askHome s.seed.restoreStep.toNat s.pullHomes
        else if source = 0 && s.seed.mode = 0 then s.restoreFailed
        else s

def execRestore (mb : Fin 32) (s : State) : Result := done (s.command mb cmdRestore State.restoreCommand)

/-- R516, R523, R524: the ranges of a set are written, narrowed ones widened. -/
def State.writeSet (s : State) (set : List Byte) : State :=
  (storedRanges set).foldl (fun (s : State) r =>
    let bs := if r.2.2.2.testBit 1 then widened r.2.1 (byteField set r.2.2.1 (r.2.1 / 4 + r.2.1 / 128)) else byteField set r.2.2.1 r.2.1
    s.writeLocal r.1 0 bs) s

/-- R517, R524: the set in the local area or in the newest valid checkpoint. -/
def State.localSet (s : State) (l : LongCmd) : Option (List Byte) :=
  if field l.req.request 0 1 = 1 then s.newestCkpt.map (fun k => (s.ckptSlot k).data)
  else (s.slotFor 2 l.note).map (fun k => s.slotBytes 2 k 0 (field (s.slotBytes 2 k 32 8) 0 8))

/-- R516 steps 7 to 9 of a restore from the local area or from a checkpoint (DEDUCED, log 59). -/
def State.endRestore (s : State) (l : LongCmd) : State :=
  match s.localSet l with
  | none => s.restoreFailed
  | some set =>
    if s.headerTaken (byteField set 0 setHeaderSize) then
      (s.writeSet set).restoreDone (byteField set 0 setHeaderSize) (field l.req.request 0 1 = 1)
    else s.restoreFailed

end Sys2Proof.Machine
end

