-- ==== Sys2Proof/Machine/CommandList.lean ====
section
/-! DEFINITION. Command lists (R255 to R257, R450): `CMDLIST_SUBMIT` and the bodies that Heartwood builds. -/

namespace Sys2Proof.Machine

/-- R257: an entry of a command list. -/
structure ListEntry where
  typ : Nat
  dies : Nat
  ctx : Nat
  nm1 : Nat
  first : Nat
  addr : Nat
  count : Nat
  deriving DecidableEq, Repr

def listEntryOf (b : List Byte) : ListEntry :=
  { typ := field b 0 1, dies := field b 1 1, ctx := field b 2 1, nm1 := field b 4 2, first := field b 6 2, addr := field b 8 8
    count := field b 16 4 }

/-! ### Acceptance -/

/-- R257, R450: a bundle that no `SEGMENT` run may hold. -/
def segmentForbids (b : Bundle) : Bool :=
  [1, 3, 5, 6].contains b.ctl || b.sill.1 ≠ 0 || b.fab.1 = 0x10 || b.fab.1 = 0x11 ||
    b.clusters.any (fun c => 0xB0 ≤ c.1 && c.1 ≤ 0xBF)

/-- R257: the bundles of a `SEGMENT` run. -/
def State.runOf (s : State) (e : ListEntry) : List (List Byte) := chunks 128 (s.readLocal e.addr (128 * e.count))

/-- Why an entry is refused. -/
inductive EntryFault where
  | ok
  | field (off : Nat)
  | reason (r : Nat)
  deriving DecidableEq, Repr

/-- R255, R257, R450: the check of an entry. -/
def State.checkEntry (s : State) (b : List Byte) : EntryFault :=
  let e := listEntryOf b
  if e.typ = 0 || e.typ > 5 then .reason 1
  else if e.dies > 15 then .field 1
  else if field b 3 1 ≠ 0 then .field 3
  else if !zeroField b 20 12 then .field 20
  else if e.typ = 1 then
    if e.count = 0 || e.count > 65536 then .field 16
    else if (s.rangeFault ((maskBits 4 e.dies).headD 0) e.addr (128 * e.count)).isSome then .field 8
    else if (s.runOf e).any (fun x => segmentForbids (bundleOf x)) then .reason 2 else .ok
  else if (e.typ = 2 || e.typ = 4) && (maskBits 4 e.dies).any (fun d => (xdescOf d (s.xdescBytes d e.ctx)).scope = 4) then .reason 3
  else .ok

/-- R467, R468: every entry of a list is checked, and the list is accepted as a whole. -/
def State.acceptList (s : State) (a : Accepted) (entries : List Byte) : State :=
  let es := chunks 32 entries
  let t := field a.request 0 6
  match (es.zipIdx.map (fun p => (s.checkEntry p.1, p.2))).find? (fun p => p.1 ≠ .ok) with
  | some (.field o, i) => s.complete a sBadField (32 + 32 * i + o) []
  | some (.reason r, i) => s.complete a sCmdlistRefused (i % 65536 + r * 65536) []
  | _ => (s.setJob { s.job with lists := Tab.put t entries s.job.lists }).complete a sOk 0 (leBytes 8 s.tick.count.toNat)

/-- R467: whether tick `t` has passed: it is the current tick or an earlier one, or, before the release, lies before the first. -/
def State.tickPassed (s : State) (t : Nat) : Bool := if s.tick.edges then t ≤ s.tick.count.toNat else t < s.job.resumeTick

/-- R467: `CMDLIST_SUBMIT`. -/
def State.submitList (a : Accepted) (s : State) : State :=
  let q := a.request
  let t := field q 0 6
  let n := field q 6 2
  match firstBad [(6, n > 63), (16, n = 0 && (field q 16 4 = 0 || field q 16 4 > 65536)), (20, !zeroField q 20 12)] with
  | some o => s.complete a sBadField o []
  | none =>
    if a.len ≠ 32 + 32 * n then s.complete a sBadLen (32 + 32 * n) []
    else if !s.job.cmdlist then s.complete a sBadState s.job.state.code []
    else if s.tickPassed t then s.complete a sCmdlistRefused (5 * 65536) []
    else if (Tab.find t s.job.lists).isSome then s.complete a sCmdlistRefused (4 * 65536) []
    else if n = 0 then s.readHost a false (field q 8 8) (32 * field q 16 4)
    else s.acceptList a (byteField q 32 (32 * n))

def execCmdlistSubmit (mb : Fin 32) (s : State) : Result := done (s.command mb cmdCmdlistSubmit State.submitList)

/-! ### Building bodies (R256, R257) -/

/-- R47: a bundle with a control slot alone. -/
def ctlBundle (ctl operand : Nat) : List Byte := leBytes 128 ((ctl * 2 ^ 24 + operand) * 2 ^ 976)

/-- R188: a bundle with a Sillage slot alone. -/
def sillBundle (op ctx nm1 first : Nat) : List Byte :=
  leBytes 128 ((op * 2 ^ 56 + ctx * 2 ^ 48 + nm1 * 2 ^ 32 + first * 2 ^ 16) * 2 ^ 768)

/-- R257: the bundles of entry `i` for a die (DEDUCED, log 81). -/
def State.expandEntry (s : State) (d : Nat) (e : ListEntry) (i : Nat) : List (List Byte) :=
  if !e.dies.testBit d then []
  else match e.typ with
    | 1 => s.runOf e
    | 2 =>
      let choose := if (ctxOf d (s.context d e.ctx)).mode = 2 then 3 else 1
      [sillBundle choose e.ctx e.nm1 e.first, sillBundle 4 e.ctx e.nm1 e.first, sillBundle 0x10 e.ctx e.nm1 e.first,
        sillBundle 0x11 e.ctx 0 0, sillBundle 0x0F 0 0 0, ctlBundle 2 (e.dies + i % 256 * 256)]
    | 3 => [ctlBundle 3 (e.addr % 65536), ctlBundle 4 0]
    | 4 => [sillBundle 0x12 e.ctx 0 0, sillBundle 0x13 e.ctx e.nm1 e.first, sillBundle 0x0F 0 0 0]
    | _ => []

/-- R257: the entries of a list up to the `END` that names a die. -/
def beforeEnd (d : Nat) (es : List (ListEntry × Nat)) : List (ListEntry × Nat) :=
  es.takeWhile (fun e => !(e.1.typ = 5 && e.1.dies.testBit d))

/-- R257: the body that a list gives a die: its entries in order, and `TICK_WAIT` last (DEDUCED, log 81). -/
def State.bodyBundles (s : State) (d : Nat) (entries : List Byte) : List (List Byte) :=
  let es := ((chunks 32 entries).map listEntryOf).zipIdx
  (beforeEnd d es).flatMap (fun e => s.expandEntry d e.1 e.2) ++ [ctlBundle 1 0]

/-- R256: whether Heartwood builds bodies for tick `t` now: during the tick before it, or later. -/
def State.buildsNow (s : State) (t : Nat) : Bool :=
  if s.tick.edges then t = s.tick.count.toNat || t = s.tick.count.toNat + 1 else t = s.job.resumeTick

/-- R256: the body of a die for tick `t` is complete (DEDUCED, log 81). -/
def State.buildBody (s : State) (d t : Nat) : State :=
  match Tab.find t s.job.lists with
  | none => s
  | some entries =>
    if !s.job.cmdlist || s.fenced 0x72 || !s.buildsNow t || (Tab.find (bodyKey d t) s.job.built).any (fun b => b.1 = t) then s
    else
      let bundles := s.bodyBundles d entries
      if 128 * bundles.length > 0x400000 then s
      else
        let s := s.writeLocal (windowBase d + 0x100010000 + t % 2 * 0x400000) 0 bundles.flatten
        s.setJob { s.job with built := Tab.put (bodyKey d t) (t, bundles.length) s.job.built }

def execCmdlistBodyBuilt (d : Fin 4) (tick : BitVec 48) (s : State) : Result := done (s.buildBody d tick.toNat)

/-! ### Ends of transfers and of long commands -/

/-- R469: the bytes that a command has read from host memory. -/
def State.haveHostData (s : State) (x : Xfer) (bs : List Byte) : State :=
  if !x.long then (if x.req.cmd = 0x70 then s.acceptList x.req bs else s)
  else match s.host.long with
    | none => s
    | some l =>
      if l.req.cmd = 0x10 && l.phase = 0 then
        (s.setLong { l with phase := 1, data := bs }).readHost x.req true (field x.req.request 24 8) (32 * field x.req.request 20 4)
      else if l.req.cmd = 0x10 then s.setLong { l with phase := 2, aux := bs }
      else s.setLong { l with phase := 1, data := bs }

/-- R469: the oldest host-memory transfer completes, with the data of a read, or reports an error. -/
def State.hostXferDone (s : State) (ok : Bool) (data : List Byte) : State :=
  match s.host.xfers with
  | [] => s
  | x :: rest =>
    if !ok then s.complete x.req sHostXferFail x.addr []
    else
      let s := s.setHost { s.host with xfers := rest }
      if x.write then s.complete x.req sOk 0 (s.telemetryResult x.req.request x.len)
      else s.haveHostData x (byteField data 0 x.len)

def execHostXferCompletion (ok : Bool) (data : List Byte) (s : State) : Result := done (s.hostXferDone ok data)

/-- R466: the long command that has all it waits for ends (DESIGN CHOICE, log 56). -/
def State.endLong (s : State) : State :=
  match s.host.long with
  | none => s
  | some l =>
    if s.fenced 0x72 then s
    else match l.req.cmd, l.phase with
      | 0x10, 2 => s.performJobLoad l
      | 0x12, 2 => s.endUnload l
      | 0x41, 1 => if s.seed.pulling.isSome then s else s.endRestore l
      | 0x42, 1 => s.endCheckpoint l
      | 0x60, 1 => s.endStage l
      | _, _ => s

def execLongCommandComplete (s : State) : Result := done s.endLong

end Sys2Proof.Machine
end

