-- ==== Sys2Proof/Machine/HostMem.lean ====
section
/-! DEFINITION. CXL.mem accesses of the host (R401, R407, R419, R457). -/

namespace Sys2Proof.Machine

/-- R457: an access ends with a status other than 0: it is counted, the first is recorded, and vector 35 follows (DEDUCED, log 62). -/
def State.hostError (s : State) (w status : Nat) (write : Bool) : State :=
  let f := s.hostFresh
  let s := s.setHost { s.host with
    errCount := BitVec.ofNat 32 (satAdd 32 s.host.errCount.toNat 1)
    fresh := { f with before := if f.counted = 0 then s.host.errCount.toNat else f.before, counted := f.counted + 1 } }
  if s.host.errValid then s
  else
    (s.setHost { s.host with
      errOffset := BitVec.ofNat 40 (w / 64), errStatus := BitVec.ofNat 3 status, errWrite := write, errValid := true
      fresh := { s.host.fresh with errValid := true } }).raise 35

/-- R419, R457: status of a host access at decoder offset `w`, that of its lowest failing unit (DEDUCED, log 62). -/
def State.hostStatus (s : State) (k : Access4) (w len : Nat) : Nat :=
  let a := s.job.hostWin + w
  if w + len > 2 ^ 40 || a + len > 0x400000000000 then 1
  else s.accessStatus k (a / 32 * 32) (alignUp 32 (a % 32 + len))

/-- R457: a read of `len` bytes at decoder offset `w`. -/
def State.hostRead (s : State) (w len : Nat) : State :=
  if s.fenced 0x73 then s.send (.cxl (List.replicate len 0xFF))
  else
    let a := s.job.hostWin + w
    let st := s.hostStatus .hostRead w len
    if st = 0 then ((s.wakeRanges [(a, len)]).noteRead a len 0).send (.cxl (s.readLocal a len))
    else ((s.countAccess (s.deliveryDie a) st).hostError w st false).send
      (.cxl (List.replicate len (if st = 4 then 0 else 0xFF)))

def execCxlMemRead (w : BitVec 40) (len : Nat) (s : State) : Result := done (s.hostRead w.toNat len)

/-- R457: a write at decoder offset `w`; it completes in the ordinary way whatever its status. -/
def State.hostWrite (s : State) (w : Nat) (data : List Byte) : State :=
  if s.fenced 0x73 then s
  else
    let a := s.job.hostWin + w
    let st := s.hostStatus .hostWrite w data.length
    let s := if st = 1 || st = 2 then s else s.lookOwners (s.deliveryDie a) .hostWrite (a / 32 * 32) (alignUp 32 (a % 32 + data.length))
    if st = 0 then ((s.wakeRanges [(a, data.length)]).writeLocal a 0 data).send (.cxl [])
    else ((s.countAccess (s.deliveryDie a) st).hostError w st true).send (.cxl [])

def execCxlMemWrite (w : BitVec 40) (data : List Byte) (s : State) : Result := done (s.hostWrite w.toNat data)

end Sys2Proof.Machine
end

