-- ==== Sys2Proof/Machine/Management.lean ====
section
/-! DEFINITION. Ranger's management side: authority and management access (R568, R572, R594, R595), reports (R600), the I3C target
and PLDM (R569, R571), and time synchronisation (R548, R549). -/

namespace Sys2Proof.Machine

/-! ### Management access -/

/-- What Ranger's firmware does on a request; while it does not run, nothing answers (DEDUCED, log 78). -/
def State.ranger? (s : State) (f : State → State) : State := if s.rangerRuns then f s else s

/-- R568: whether a session's requester proved a chain that ends in the owner root (DESIGN CHOICE, log 75). -/
def State.ownerSession (s : State) (k : Nat) (t : Transport) : Bool :=
  match Tab.find k s.sec.sessions with
  | some x => x.established && x.transport = t && s.sec.ownerRoot = some x.root
  | none => false

/-- R568, R595: whether a management request may act: Ranger itself, or the fabric manager or the board management controller inside
a session under the owner root on its path. -/
def State.mayManage (s : State) (req : Requester) (sess : Option (Fin 4)) : Bool :=
  match req, sess with
  | .ranger, _ => true
  | .fabMgr, some k => s.ownerSession k .fabric
  | .bmc, some k => s.ownerSession k .mctp
  | _, _ => false

/-- R385, R394: whether a management packet that arrives is taken. -/
def State.takesMgmt (s : State) (p : Pkt) : Bool :=
  p.via.all (fun q => s.fab.up.getLsbD q) && s.addressed p && !s.power.transit &&
    s.checkPkt p tMgmtReq (s.tagMatches p && s.mgmtSource p) = .pass && !s.routerFenced 0 && !s.belowFloor p

/-- R385, R394, R570: the fabric manager's messages come in `MGMT_REQ` packets, each of which is checked as it arrives; a message of which
one fails is not put together (DEDUCED, log 78). The other requesters' messages come by no packet. -/
def State.carried (req : Requester) (carrier : List Pkt) (f : State → State) (s : State) : State :=
  if req = .fabMgr then
    let t := carrier.foldl (fun (s : State) p => s.deliver p tMgmtReq 0 (s.tagMatches p && s.mgmtSource p) id) s
    if carrier ≠ [] && carrier.all s.takesMgmt then f t else t
  else f s

/-- R572: a response: status and value. -/
def State.mgmtAnswer (s : State) (req : Requester) (status value : Nat) : State :=
  s.send (.mgmt req (leBytes 1 status ++ leBytes 8 value))

/-- R572: the status that stops an access, if one does: not permitted, bad width, no such register (DEDUCED, log 78). -/
def State.mgmtStop (s : State) (req : Requester) (sess : Option (Fin 4)) (off width : Nat) : Option Nat :=
  if !s.mayManage req sess then some 1
  else if (width ≠ 4 && width ≠ 8) || off % width ≠ 0 then some 3
  else if off ≥ 2 ^ 24 then some 2
  else none

/-- R572: a read. -/
def State.mgmtRead (req : Requester) (sess : Option (Fin 4)) (off width : Nat) (s : State) : State :=
  match s.mgmtStop req sess off width with
  | some st => s.mgmtAnswer req st 0
  | none =>
    let r := s.readSpan req off width
    r.1.mgmtAnswer req 0 (leNat r.2)

def execMgmtRead (req : Requester) (sess : MgmtPath) (off : BitVec 32) (width : BitVec 8) (s : State) :
    Result :=
  done (s.carried req sess.carrier (fun s => s.ranger? (State.mgmtRead req sess.session off.toNat width.toNat)))

/-- R572, R594: a write. -/
def State.mgmtWrite (req : Requester) (sess : Option (Fin 4)) (off width value : Nat) (s : State) : State :=
  match s.mgmtStop req sess off width with
  | some st => s.mgmtAnswer req st 0
  | none =>
    if !s.defined off then s.mgmtAnswer req 2 0
    else
      let r := s.writeSpan req off width value
      r.1.mgmtAnswer req (if r.2 then 0 else 1) 0

def execMgmtWrite (req : Requester) (sess : MgmtPath) (off : BitVec 32) (width : BitVec 8)
    (value : BitVec 64) (s : State) : Result :=
  done (s.carried req sess.carrier (fun s => s.ranger? (State.mgmtWrite req sess.session off.toNat width.toNat value.toNat)))

/-- R547: a management write of `PWR_CFG`. -/
def execPwrCfgWrite (req : Requester) (sess : MgmtPath) (value : BitVec 64) (s : State) : Result :=
  done (s.carried req sess.carrier (fun s => s.ranger? (State.mgmtWrite req sess.session 0x50000 8 value.toNat)))

/-- R547: a management write of `THERM_CFG`. -/
def execThermCfgWrite (req : Requester) (sess : MgmtPath) (value : BitVec 32) (s : State) : Result :=
  done (s.carried req sess.carrier (fun s => s.ranger? (State.mgmtWrite req sess.session 0x50028 4 value.toNat)))

/-- R568, R572: the first owner root is set outside any session on the I3C target alone; later ones inside a session under the
current root (DEDUCED, log 78). -/
def State.setOwnerRoot (req : Requester) (sess : Option (Fin 4)) (hash : List Byte) (s : State) : State :=
  let allowed : Bool := match s.sec.ownerRoot with
    | none => req = .bmc && sess.isNone
    | some _ => req ≠ .ranger && s.mayManage req sess
  if allowed then (s.setSec { s.sec with ownerRoot := some (byteField hash 0 64) }).mgmtAnswer req 0 0
  else s.mgmtAnswer req 1 0

def execSetOwnerRoot (req : Requester) (sess : MgmtPath) (rootHash : List Byte) (s : State) : Result :=
  done (s.carried req sess.carrier (fun s => s.ranger? (State.setOwnerRoot req sess.session rootHash)))

/-! ### Reports (R600) -/

/-- R600: an acknowledgement from a `FAB_MGR` source (DEDUCED, log 104). -/
def State.ackReport (src : BitVec 16) (rnum : Nat) (s : State) : State :=
  if src ≠ 0 && s.fab.mgr.contains src then
    s.setRanger { s.ranger with reports := s.ranger.reports.filter (fun r => r.rnum ≠ rnum) }
  else s

def execReportAck (src : BitVec 16) (rnum : BitVec 32) (s : State) : Result := done (s.ranger? (State.ackReport src rnum.toNat))

/-- R600: an unacknowledged report is sent again 100 ms after its last sending, for at most 10 s (DEDUCED, log 104). -/
def State.resendReport (rnum : Nat) (s : State) : State :=
  match s.ranger.reports.find? (fun r => r.rnum = rnum) with
  | none => s
  | some r =>
    let s := s.reach (r.lastCc + 120000000)
    if s.cc > r.firstCc + 12000000000 then s
    else
      (s.setRanger { s.ranger with
        reports := s.ranger.reports.map (fun (x : Report) => if x.rnum = rnum then { x with lastCc := s.cc } else x) }).sendReport r.body

def execReportResend (rnum : BitVec 32) (s : State) : Result := done (s.ranger? (State.resendReport rnum.toNat))

/-! ### The I3C target and PLDM -/

/-- R569: the bus owner's `Set Endpoint ID`; 0 and 255 are no endpoint's ID (PRESUMED from DSP0236) (PRESUMED, log 76). -/
def State.setEid (s : State) (eid : BitVec 8) : State :=
  let bad := eid = 0 || eid = 0xFF
  let s := if bad then s else s.setSec { s.sec with eid := eid }
  s.send (.i3c 0 (leBytes 1 1 ++ leBytes 1 (if bad then 2 else 0) ++ leBytes 1 s.sec.eid.toNat))

def execSetEndpointId (eid : BitVec 8) (s : State) : Result := done (if s.power.transit then s else s.setEid eid)

/-- R569: `ENTDAA`: the target sends its provisional ID and takes the address. -/
def execEntdaa (addr : BitVec 7) (s : State) : Result :=
  done (if s.power.transit then s
    else (s.setSec { s.sec with i3cAddr := addr }).send (.i3c 255 (beBytes 6 (Config.provisionalId s.host.serial).toNat)))

/-- R571: reading of a sensor. -/
def State.sensor (s : State) (id : Nat) : Option Nat :=
  if id = 1 then some (bitsOf s.pwrStatus 0 11)
  else if 2 ≤ id && id ≤ 5 then some (s.power.tj.getD (id - 2) 0).toNat
  else if 6 ≤ id && id ≤ 13 then some (s.stack (id - 6)).temp.toNat
  else if id = 14 then some (s.power.energyNj / 1000000)
  else if id = 15 then some s.identState
  else if id = 16 then some s.sec.bootFail.toNat
  else if id = 17 then some s.fenceCount
  else none

/-- R571: `GetSensorReading`: command code, completion code and reading (codes PRESUMED from DSP0248) (PRESUMED, log 76). -/
def State.answerSensor (id : Nat) (s : State) : State :=
  match s.sensor id with
  | some v => s.send (.i3c 1 (leBytes 1 0x11 ++ leBytes 1 0 ++ leBytes 8 v))
  | none => s.send (.i3c 1 (leBytes 1 0x11 ++ leBytes 1 0x80))

def execGetSensorReading (id : BitVec 16) (s : State) : Result := done (s.ranger? (State.answerSensor id.toNat))

/-! ### Time synchronisation -/

/-- An RFC 5905 timestamp of a time in ns (PRESUMED, log 77). -/
def ntpStamp (ns : Nat) : List Byte := beBytes 4 (ns / 1000000000) ++ beBytes 4 (ns % 1000000000 * 2 ^ 32 / 1000000000)

/-- The time in ns of an RFC 5905 timestamp (PRESUMED, log 77). -/
def ntpNs (bs : List Byte) : Int := (beNat (bs.take 4) * 1000000000 + beNat ((bs.drop 4).take 4) * 1000000000 / 2 ^ 32 : Nat)

/-- R549: Ranger's client request (version 4, mode 3), not yet stamped (PRESUMED, log 77). -/
def ntpRequest : List Byte := leBytes 1 0x23 ++ leBytes 47 0

/-- R549: the request is stamped with the time at which it leaves. -/
def State.stampRequest (s : State) (req : List Byte) : List Byte := req.take 40 ++ ntpStamp s.time

/-- R549: a client request leaves. -/
def State.requestLeaves (s : State) (req : List Byte) : State :=
  s.setSec { s.sec with timeRequest := none, timeSent := some (s.cc, s.stampRequest req) }

/-- R548, R549: once in each poll interval Ranger places a client request on the path that management has chosen (DESIGN CHOICE, log 26). -/
def State.placeRequest (s : State) : State :=
  let interval := (16 + Config.pollInterval s.free % 49) * 1200000000
  let s := (s.reach ((s.sec.lastPoll.map (· + interval)).getD s.cc)).spend
  let path := Config.timePath s.free
  let s := (s.setSec { s.sec with timePath := path, lastPoll := some s.cc }).spend
  match path.toNat with
  | 0 => s
  | 3 => s.setSec { s.sec with timeRequest := some ntpRequest }
  | p => (s.send (.ntp (p = 2) (s.stampRequest ntpRequest))).requestLeaves ntpRequest

def execTimePollRequest (s : State) : Result := done (s.ranger? State.placeRequest)

/-- R549: a response of the host time path. -/
def State.timeAnswer (s : State) (op status pending : Nat) (packet : List Byte) : State :=
  s.send (.doe (leBytes 1 op ++ leBytes 1 status ++ leBytes 1 pending ++ leBytes 5 0 ++ byteField packet 0 48 ++ leBytes 8 0))

/-- R549: whether a request of the host is formed as the rule says. -/
def timeBodyOk (op : Nat) (body : List Byte) : Bool :=
  body.length = 64 && field body 0 1 = op && zeroField body 1 7 && zeroField body 56 8 && (op = 2 || zeroField body 8 48)

/-- R549: `POLL`. -/
def State.timePoll (body : List Byte) (s : State) : State :=
  if !timeBodyOk 1 body then s.timeAnswer (field body 0 1) 2 0 []
  else match s.sec.timeRequest with
    | some r => (s.timeAnswer 1 0 1 (s.stampRequest r)).requestLeaves r
    | none => s.timeAnswer 1 0 0 []

def execPoll (body : List Byte) (s : State) : Result := done (s.ranger? (State.timePoll body))

/-- R549: whether a server's reply answers the outstanding request in time. -/
def State.replyMatches (s : State) (packet : List Byte) : Bool :=
  match s.sec.timeSent with
  | none => false
  | some (at', req) => s.cc ≤ at' + 1200000000 && (packet.drop 24).take 8 = (req.drop 40).take 8

/-- R549: offset of the server's clock that a reply shows, in ns (RFC 5905). -/
def State.measuredOffset (s : State) (packet : List Byte) : Int :=
  ((ntpNs (packet.drop 32) - ntpNs (packet.drop 24)) + (ntpNs (packet.drop 40) - (s.time : Int))) / 2

/-- R548: Ranger steers the counter by a measured offset: it steps before its first synchronisation and beyond 1 s, never backwards
while a job is loaded, and slews otherwise. -/
def State.steer (s : State) (offset : Int) : State :=
  let steps := (s.sec.syncedAt.isNone || offset.natAbs > 1000000000) && !(offset < 0 && s.job.state ≠ .none)
  let settled := s.clk.offset + s.clk.slewed
  let clk := if steps then { s.clk with offset := settled + offset, slewNs := 0, slewFrom := s.cc }
    else { s.clk with offset := settled, slewNs := offset, slewFrom := s.cc }
  { s with clk := clk }

/-- R548, R549: a reply is taken: offset, steering and the status; a trace entry of kind 8. -/
def State.acceptReply (s : State) (packet : List Byte) : State :=
  let offset := s.measuredOffset packet
  let s := s.steer offset
  (s.setSec { s.sec with
    timeSent := none, syncedAt := some s.cc, timeOffset := BitVec.ofNat 29 (min (2 ^ 29 - 1) offset.natAbs) }).addTrace 8 0
      (leBytes 8 offset.natAbs)

/-- R549: `REPLY` (PRESUMED, log 77). -/
def State.timeReply (body : List Byte) (s : State) : State :=
  let packet := byteField body 8 48
  if !timeBodyOk 2 body || field packet 0 1 % 8 ≠ 4 then s.timeAnswer (field body 0 1) 2 0 []
  else if !s.replyMatches packet then s.timeAnswer 2 1 0 []
  else (s.acceptReply packet).timeAnswer 2 0 0 []

def execReply (body : List Byte) (s : State) : Result := done (s.ranger? (State.timeReply body))

/-- R548: a reply over MCTP or over Budrior; one that does not match is ignored. -/
def State.serverReply (viaFabric : Bool) (packet : List Byte) (s : State) : State :=
  if s.sec.timePath = (if viaFabric then 2 else 1) && field packet 0 1 % 8 = 4 && s.replyMatches packet then s.acceptReply packet else s

def execTimeServerReply (viaFabric : Bool) (packet : List Byte) (s : State) : Result :=
  done (s.ranger? (State.serverReply viaFabric packet))

end Sys2Proof.Machine
end

