-- ==== Sys2Proof/Machine/Spdm.lean ====
section
/-! DEFINITION. Attestation: Ranger as an SPDM responder (R564 to R568). The manual names the requests, what they are for, and what
is supported; request, response and error codes are those of SPDM 1.3 (PRESUMED from DSP0274). -/

namespace Sys2Proof.Machine

/-! ### Responses -/

def transportCode : Transport → Nat
  | .doe => 0
  | .mctp => 1
  | .fabric => 2

/-- Bytes of a response that travel in one message; over MCTP a message has at most 4 KiB (R569). -/
def messageLimit : Transport → Nat
  | .doe => 0x10000
  | _ => 4080

/-- A response; a large one is announced by an error `LargeResponse` (`0x0F`) and fetched in chunks (R566). -/
def State.respond (s : State) (t : Transport) (code : Nat) (body : List Byte) : State :=
  if body.length ≤ messageLimit t then s.send (.spdm t code body)
  else
    let h := s.sec.handles % 256
    (s.setSec { s.sec with handles := s.sec.handles + 1, largeOut := some ⟨h, 0, leBytes 1 code ++ body⟩ }).send
      (.spdm t 0x7F (leBytes 1 0x0F ++ leBytes 1 h))

/-- An error response. -/
def State.spdmError (s : State) (t : Transport) (code : Nat) : State := s.send (.spdm t 0x7F (leBytes 1 code ++ leBytes 1 0))

/-- How far the connection of a transport is: 1 version, 2 capabilities, 3 algorithms. -/
def State.connection (s : State) (t : Transport) : Nat := Tab.get 0 (transportCode t) s.sec.spdm

def State.setConnection (s : State) (t : Transport) (k : Nat) : State :=
  s.setSec { s.sec with spdm := Tab.put (transportCode t) k s.sec.spdm }

/-- R566: a request is served while Ranger's firmware runs and its connection is far enough (else `UnexpectedRequest`); while the
security engine signs for another transport it is answered `ResponseNotReady`. -/
def State.request (t : Transport) (need : Nat) (f : State → State) (s : State) : State :=
  if !s.rangerRuns then s
  else if s.sec.signing.any (fun g => g.1 ≠ t && s.cc < g.2) then s.send (.spdm t 0x7F (leBytes 1 0x42 ++ leBytes 4 30))
  else if s.connection t < need then s.spdmError t 4
  else f s

/-- R566: the security engine signs for a transport, for at most 25 ms. -/
def State.sign (s : State) (t : Transport) : State :=
  (s.setSec { s.sec with signing := some (t, s.cc + Config.signCycles s.free % 30000001) }).spend

/-- R564: signature of the identity key over a message. -/
def signature (msg : List Byte) : List Byte := Config.identitySignature (sha512 msg)

/-- Fresh random bytes of the security engine: 32. -/
def State.nonce (s : State) : List Byte := ([0, 1, 2, 3] : List Nat).flatMap (fun i => leBytes 8 (Config.random (4 * s.free + i)).toNat)

/-- R565: the certificate chain, which fits its 64 KiB (R557). -/
def certChain : List Byte := (List.range (Config.certLength % 65537)).map Config.certByte

/-- A signed response: the body, then the signature over it and the requester's nonce. -/
def State.respondSigned (s : State) (t : Transport) (code : Nat) (body nonce : List Byte) : State :=
  (s.respond t code (body ++ signature (nonce ++ body))).sign t

/-- Whether the algorithms that a signature needs have been chosen: RSASSA-PSS 4096 (bit 0) and SHA-512 (bit 1). -/
def State.hasAlgorithms (s : State) (t : Transport) (mask : Nat) : Bool :=
  Tab.get 0 (transportCode t) s.sec.algorithms &&& mask == mask

/-! ### Connection -/

/-- `GET_VERSION` starts the connection of a transport again; its sessions end (R576). -/
def State.versionSpdm (t : Transport) (s : State) : State :=
  let kept := s.sec.sessions.filter (fun (p : Nat × Session) => p.2.transport ≠ t)
  ((s.setSec { s.sec with sessions := kept }).setConnection t 1).respond t 0x04 (leBytes 1 1 ++ leBytes 2 0x1300)

def execGetVersion (t : Transport) (s : State) : Result := done (s.request t 0 (State.versionSpdm t))

/-- `GET_CAPABILITIES`: certificates, challenge, signed measurements, sessions with key exchange and mutual authentication,
heartbeats, key updates and chunks; no pre-shared keys, no `SET_CERTIFICATE`, no `GET_CSR`, no events. -/
def State.capabilities (t : Transport) (s : State) : State := (s.setConnection t 2).respond t 0x61 (leBytes 4 0x000273F6)

def execGetCapabilities (t : Transport) (s : State) : Result := done (s.request t 1 (State.capabilities t))

/-- `NEGOTIATE_ALGORITHMS`: of what the requester offers, what R566 supports is chosen. -/
def State.negotiate (t : Transport) (asym sha512 ffdhe aead : Bool) (s : State) : State :=
  let m := b2n asym + 2 * b2n sha512 + 4 * b2n ffdhe + 8 * b2n aead
  ((s.setSec { s.sec with algorithms := Tab.put (transportCode t) m s.sec.algorithms }).setConnection t 3).respond t 0x63 (leBytes 1 m)

def execNegotiateAlgorithms (t : Transport) (asym sha512 ffdhe aead : Bool) (s : State) : Result :=
  done (s.request t 2 (State.negotiate t asym sha512 ffdhe aead))

/-! ### Certificates, challenge and measurements -/

/-- `GET_DIGESTS`: slot 0 alone holds a chain (R565). -/
def State.digests (t : Transport) (s : State) : State := s.respond t 0x01 (leBytes 1 1 ++ sha512 certChain)

def execGetDigests (t : Transport) (s : State) : Result := done (s.request t 3 (State.digests t))

/-- `GET_CERTIFICATE`: a portion of the chain in slot 0; the other slots are empty (R565). -/
def State.certificate (t : Transport) (slot off len : Nat) (s : State) : State :=
  if slot ≠ 0 || off > certChain.length then s.spdmError t 1
  else
    let part := (certChain.drop off).take len
    s.respond t 0x02 (leBytes 2 part.length ++ leBytes 2 (certChain.length - off - part.length) ++ part)

def execGetCertificate (t : Transport) (slot : BitVec 8) (off len : BitVec 16) (s : State) : Result :=
  done (s.request t 3 (State.certificate t slot.toNat off.toNat len.toNat))

/-- `CHALLENGE`: signed with the identity key. -/
def State.challenge (t : Transport) (slot : Nat) (nonce : List Byte) (s : State) : State :=
  if slot ≠ 0 || !s.hasAlgorithms t 3 then s.spdmError t 1
  else (s.respondSigned t 0x03 (leBytes 1 1 ++ sha512 certChain ++ s.nonce) nonce).spend

def execChallenge (t : Transport) (slot : BitVec 8) (nonce : List Byte) (s : State) : Result :=
  done (s.request t 3 (State.challenge t slot.toNat nonce))

/-- R567: what is measured of an image: `BODY_DIGEST`, `VERSION` and `SVN`. -/
def imageMeasured (img : List Byte) : List Byte := byteField img 0x40 64 ++ byteField img 0x0C 2 ++ byteField img 0x0E 1

/-- R567: of a kind, the `BODY_DIGEST` of the staged image, or zeros. -/
def Security.stagedMeasured (x : Security) (kind : Nat) : List Byte :=
  match (x.boot kind).staged with
  | some slot => byteField (x.image kind slot) 0x40 64
  | none => leBytes 64 0

/-- R556, R567: identity, array, root-key and version banks. -/
def Fuses.bytes (f : Fuses) : List Byte :=
  leBytes 8 f.serial.toNat ++ leBytes 1 f.rev.toNat ++ f.records.flatMap (fun r => leBytes 4 r.toNat) ++ f.rootHash0 ++ f.rootHash1 ++
    leBytes 1 f.revoked.toNat ++ leBytes 8 f.minSvnMgmt ++ leBytes 8 f.minSvnHwd

/-- R567: what index `i` measures. -/
def State.measured (s : State) (i : Nat) : List Byte :=
  match i with
  | 2 => imageMeasured (s.sec.runningImage 1)
  | 3 => imageMeasured (s.sec.runningImage 2)
  | 4 => s.sec.fuses.bytes
  | 5 => s.sec.stagedMeasured 1 ++ s.sec.stagedMeasured 2
  | 6 => byteField s.job.digest 0 64 ++ leBytes 2 s.job.tag.toNat
  | _ => leBytes 8 s.pwrCfg ++ leBytes 4 s.thermCfg ++ leBytes 8 s.fabMgr ++ byteField (s.sec.ownerRoot.getD []) 0 64

/-- R567: block `i`: its index and digest. -/
def State.measurement (s : State) (i : Nat) : List Byte :=
  leBytes 1 i ++ (if i = 1 then byteField Config.romDigest 0 64 else sha512 (s.measured i))

/-- R567: the blocks of a request: all for `0xFF`; index 0 asks for their number alone. -/
def State.measurements (t : Transport) (index : Nat) (signed : Bool) (nonce : List Byte) (s : State) : State :=
  if (7 < index && index ≠ 0xFF) || (signed && !s.hasAlgorithms t 3) then s.spdmError t 1
  else
    let blocks := if index = 0 then [] else if index = 0xFF then [1, 2, 3, 4, 5, 6, 7] else [index]
    let count := if index = 0 then 7 else blocks.length
    let body := leBytes 1 count ++ blocks.flatMap s.measurement
    if signed then (s.respondSigned t 0x60 (body ++ s.nonce) nonce).spend else s.respond t 0x60 body

def execGetMeasurements (t : Transport) (index : BitVec 8) (signed : Bool) (nonce : List Byte) (s : State) : Result :=
  done (s.request t 3 (State.measurements t index.toNat signed nonce))

/-! ### Sessions -/

/-- `KEY_EXCHANGE`: a session, of at most 4 over all transports; a fifth is answered `Busy` (R566). -/
def State.keyExchange (t : Transport) (reqSid : Nat) (s : State) : State :=
  if !s.hasAlgorithms t 15 then s.spdmError t 1
  else match ([0, 1, 2, 3] : List Nat).find? (fun k => (Tab.find k s.sec.sessions).isNone) with
    | none => s.spdmError t 3
    | some k =>
      let s := s.setSec { s.sec with sessions := Tab.put k { transport := t } s.sec.sessions }
      (s.respondSigned t 0x64 (leBytes 2 k ++ leBytes 1 1 ++ s.nonce) (leBytes 2 reqSid)).spend

def execKeyExchange (t : Transport) (reqSid : BitVec 16) (s : State) : Result := done (s.request t 3 (State.keyExchange t reqSid.toNat))

/-- The session of a request on its transport. -/
def State.sessionOf (s : State) (t : Transport) (k : Nat) : Option Session :=
  (Tab.find k s.sec.sessions).filter (fun x => x.transport = t)

def State.dropSession (s : State) (k : Nat) : State := s.setSec { s.sec with sessions := Tab.drop k s.sec.sessions }

/-- `FINISH`: mutual authentication completes the session; one that fails ends it. `root` is the public key of the root certificate
of the requester's chain (R568). -/
def State.finishSession (t : Transport) (k : Nat) (macOk sigOk : Bool) (root : List Byte) (s : State) : State :=
  match s.sessionOf t k with
  | none => s.spdmError t 2
  | some x =>
    if x.established then s.spdmError t 4
    else if !macOk || !sigOk then (s.dropSession k).spdmError t 6
    else (s.setSec { s.sec with
      sessions := Tab.put k { x with established := true, root := sha512 root } s.sec.sessions }).respond t 0x65 []

def execFinish (t : Transport) (sess : Fin 4) (macOk sigOk : Bool) (chainRoot : List Byte) (s : State) : Result :=
  done (s.request t 3 (State.finishSession t sess macOk sigOk chainRoot))

/-- What a request does inside an established session of its transport; elsewhere it is an invalid session. -/
def State.inSession (t : Transport) (k : Nat) (f : Session → State → State) (s : State) : State :=
  match s.sessionOf t k with
  | some x => if x.established then f x s else s.spdmError t 2
  | none => s.spdmError t 2

def execHeartbeat (t : Transport) (sess : Fin 4) (s : State) : Result :=
  done (s.request t 3 (State.inSession t sess (fun _ s => s.respond t 0x68 [])))

/-- `KEY_UPDATE`. -/
def State.updateKey (t : Transport) (k : Nat) (x : Session) (s : State) : State :=
  (s.setSec { s.sec with sessions := Tab.put k { x with key := x.key + 1 } s.sec.sessions }).respond t 0x69 []

def execKeyUpdate (t : Transport) (sess : Fin 4) (s : State) : Result :=
  done (s.request t 3 (State.inSession t sess (State.updateKey t sess)))

def execEndSession (t : Transport) (sess : Fin 4) (s : State) : Result :=
  done (s.request t 3 (State.inSession t sess (fun _ s => (s.respond t 0x6C []).dropSession sess)))

/-- `VENDOR_DEFINED_REQUEST`: answered; the manual gives the answer no contents. -/
def State.vendor (t : Transport) (data : List Byte) (s : State) : State := s.respond t 0x7E (Config.vendorReply data)

def execVendorDefinedRequest (t : Transport) (sess : Option (Fin 4)) (data : List Byte) (s : State) : Result :=
  done (s.request t 3 (match sess with
    | some k => State.inSession t k (fun _ s => s.vendor t data)
    | none => State.vendor t data))

/-! ### Chunks -/

/-- `CHUNK_GET`: the next chunk of a large response; the last one is marked. -/
def State.chunkGet (t : Transport) (handle seqNo : Nat) (s : State) : State :=
  match s.sec.largeOut with
  | none => s.spdmError t 4
  | some c =>
    if handle ≠ c.handle || seqNo ≠ c.next then s.spdmError t 1
    else
      let size := 4064
      let part := (c.data.drop (size * seqNo)).take size
      let last := size * (seqNo + 1) ≥ c.data.length
      (s.setSec { s.sec with largeOut := if last then none else some { c with next := seqNo + 1 } }).send
        (.spdm t 0x06 (leBytes 1 (b2n last) ++ leBytes 1 handle ++ leBytes 2 seqNo ++ leBytes 4 part.length ++ part))

def execChunkGet (t : Transport) (handle : BitVec 8) (seqNo : BitVec 16) (s : State) : Result :=
  done (s.request t 3 (State.chunkGet t handle.toNat seqNo.toNat))

/-- A request that came in chunks: SPDM version, request code, two parameters and the rest. -/
def State.largeRequest (t : Transport) (m : List Byte) (s : State) : State :=
  match field m 1 1 with
  | 0x81 => s.digests t
  | 0x82 => s.certificate t (field m 2 1 % 16) (field m 4 2) (field m 6 2)
  | 0x83 => s.challenge t (field m 2 1 % 16) (byteField m 4 32)
  | 0xE0 => s.measurements t (field m 3 1) (field m 2 1 % 2 = 1) (byteField m 4 32)
  | 0xFE => s.vendor t (m.drop 4)
  | _ => s.spdmError t 7

/-- `CHUNK_SEND`: chunks in order; the acknowledgement of the last is followed by the answer to the whole request. -/
def State.chunkSend (t : Transport) (handle seqNo : Nat) (last : Bool) (data : List Byte) (s : State) : State :=
  let held := if seqNo = 0 then some { handle := handle, next := 0, data := [] } else s.sec.largeIn
  match held with
  | none => s.spdmError t 1
  | some c =>
    if handle ≠ c.handle || seqNo ≠ c.next then (s.setSec { s.sec with largeIn := none }).spdmError t 1
    else
      let c := { c with next := seqNo + 1, data := c.data ++ data }
      let s := (s.setSec { s.sec with largeIn := if last then none else some c }).send
        (.spdm t 0x05 (leBytes 1 handle ++ leBytes 2 seqNo))
      if last then s.largeRequest t c.data else s

def execChunkSend (t : Transport) (handle : BitVec 8) (seqNo : BitVec 16) (last : Bool) (data : List Byte) (s : State) : Result :=
  done (s.request t 3 (State.chunkSend t handle.toNat seqNo.toNat last data))

end Sys2Proof.Machine
end

