-- ==== Sys2Proof/Machine/Dispatch.lean ====
section
/-! DEFINITION. One arm per command: each calls the meaning that stands in its family's file. -/

namespace Sys2Proof.Machine

def exec (i : Instr) (s : State) : Host.Outcome State Fault Refusal :=
  match i with
  | .bundleIssue d => Sys2Proof.Machine.execBundleIssue d s
  | .tickWait d operand => Sys2Proof.Machine.execTickWait d operand s
  | .sync d operand => Sys2Proof.Machine.execSync d operand s
  | .clearOpen d operand => Sys2Proof.Machine.execClearOpen d operand s
  | .clearClose d => Sys2Proof.Machine.execClearClose d s
  | .collIssue d operand => Sys2Proof.Machine.execCollIssue d operand s
  | .jobEnd d => Sys2Proof.Machine.execJobEnd d s
  | .mmul n arg => Sys2Proof.Machine.execMmul n arg s
  | .mmulZ n arg => Sys2Proof.Machine.execMmulZ n arg s
  | .accZero n arg => Sys2Proof.Machine.execAccZero n arg s
  | .accRead n arg => Sys2Proof.Machine.execAccRead n arg s
  | .vadd n arg => Sys2Proof.Machine.execVadd n arg s
  | .vmul n arg => Sys2Proof.Machine.execVmul n arg s
  | .vfma n arg => Sys2Proof.Machine.execVfma n arg s
  | .vmin n arg => Sys2Proof.Machine.execVmin n arg s
  | .vmax n arg => Sys2Proof.Machine.execVmax n arg s
  | .vscale n arg => Sys2Proof.Machine.execVscale n arg s
  | .vcvt n arg => Sys2Proof.Machine.execVcvt n arg s
  | .vexp n arg => Sys2Proof.Machine.execVexp n arg s
  | .vlog n arg => Sys2Proof.Machine.execVlog n arg s
  | .vrcp n arg => Sys2Proof.Machine.execVrcp n arg s
  | .vrsqrt n arg => Sys2Proof.Machine.execVrsqrt n arg s
  | .vrsum n arg => Sys2Proof.Machine.execVrsum n arg s
  | .vrmax n arg => Sys2Proof.Machine.execVrmax n arg s
  | .vsort n arg => Sys2Proof.Machine.execVsort n arg s
  | .vmerge n arg => Sys2Proof.Machine.execVmerge n arg s
  | .vsoftmax n arg => Sys2Proof.Machine.execVsoftmax n arg s
  | .vrmsnorm n arg => Sys2Proof.Machine.execVrmsnorm n arg s
  | .vlayernorm n arg => Sys2Proof.Machine.execVlayernorm n arg s
  | .vsoftmaxB n arg => Sys2Proof.Machine.execVsoftmaxB n arg s
  | .vsoftmaxBr n arg => Sys2Proof.Machine.execVsoftmaxBr n arg s
  | .vrmsnormB n arg => Sys2Proof.Machine.execVrmsnormB n arg s
  | .vlayernormB n arg => Sys2Proof.Machine.execVlayernormB n arg s
  | .vdual n arg => Sys2Proof.Machine.execVdual n arg s
  | .tmul n arg => Sys2Proof.Machine.execTmul n arg s
  | .ssmul n arg => Sys2Proof.Machine.execSsmul n arg s
  | .sddmm n arg => Sys2Proof.Machine.execSddmm n arg s
  | .valmap n arg => Sys2Proof.Machine.execValmap n arg s
  | .pselect n arg => Sys2Proof.Machine.execPselect n arg s
  | .pmul n arg => Sys2Proof.Machine.execPmul n arg s
  | .compress n arg => Sys2Proof.Machine.execCompress n arg s
  | .nload n arg => Sys2Proof.Machine.execNload n arg s
  | .nstore n arg => Sys2Proof.Machine.execNstore n arg s
  | .gather n arg => Sys2Proof.Machine.execGather n arg s
  | .gatherSum n arg => Sys2Proof.Machine.execGatherSum n arg s
  | .scatter n arg => Sys2Proof.Machine.execScatter n arg s
  | .scatterAdd n arg => Sys2Proof.Machine.execScatterAdd n arg s
  | .mmulPost n arg => Sys2Proof.Machine.execMmulPost n arg s
  | .mmulzPost n arg => Sys2Proof.Machine.execMmulzPost n arg s
  | .tmulPost n arg => Sys2Proof.Machine.execTmulPost n arg s
  | .getMmul n arg => Sys2Proof.Machine.execGetMmul n arg s
  | .getTmul n arg => Sys2Proof.Machine.execGetTmul n arg s
  | .post n arg => Sys2Proof.Machine.execPost n arg s
  | .get n arg => Sys2Proof.Machine.execGet n arg s
  | .operationEnd n k => Sys2Proof.Machine.execOperationEnd n k s
  | .issue n core => Sys2Proof.Machine.execIssue n core s
  | .waitu n core => Sys2Proof.Machine.execWaitu n core s
  | .signal n core => Sys2Proof.Machine.execSignal n core s
  | .waitsig n core => Sys2Proof.Machine.execWaitsig n core s
  | .endWord n core => Sys2Proof.Machine.execEndWord n core s
  | .alu n core => Sys2Proof.Machine.execAlu n core s
  | .ld n core => Sys2Proof.Machine.execLd n core s
  | .st n core => Sys2Proof.Machine.execSt n core s
  | .br n core => Sys2Proof.Machine.execBr n core s
  | .jmp n core => Sys2Proof.Machine.execJmp n core s
  | .score d arg => Sys2Proof.Machine.execScore d arg s
  | .merge d arg => Sys2Proof.Machine.execMerge d arg s
  | .hash d arg => Sys2Proof.Machine.execHash d arg s
  | .admitTokens d arg => Sys2Proof.Machine.execAdmitTokens d arg s
  | .sfence d arg => Sys2Proof.Machine.execSfence d arg s
  | .xdispatch d arg => Sys2Proof.Machine.execXdispatch d arg s
  | .xlist d arg => Sys2Proof.Machine.execXlist d arg s
  | .xreturn d arg => Sys2Proof.Machine.execXreturn d arg s
  | .xcombine d arg => Sys2Proof.Machine.execXcombine d arg s
  | .dispatchRowArrival d t => Sys2Proof.Machine.execDispatchRowArrival d t s
  | .countArrival d t => Sys2Proof.Machine.execCountArrival d t s
  | .returnRowArrival d t => Sys2Proof.Machine.execReturnRowArrival d t s
  | .cmdlistRowArrival d t => Sys2Proof.Machine.execCmdlistRowArrival d t s
  | .mcopy d arg => Sys2Proof.Machine.execMcopy d arg s
  | .mfill d arg => Sys2Proof.Machine.execMfill d arg s
  | .mcache d arg => Sys2Proof.Machine.execMcache d arg s
  | .mwait d arg => Sys2Proof.Machine.execMwait d arg s
  | .fput d arg => Sys2Proof.Machine.execFput d arg s
  | .fget d arg => Sys2Proof.Machine.execFget d arg s
  | .fwait d arg => Sys2Proof.Machine.execFwait d arg s
  | .fatomic d arg => Sys2Proof.Machine.execFatomic d arg s
  | .cbind d arg => Sys2Proof.Machine.execCbind d arg s
  | .cfence d arg => Sys2Proof.Machine.execCfence d arg s
  | .tickEdge => Sys2Proof.Machine.execTickEdge s
  | .beaconMissed => Sys2Proof.Machine.execBeaconMissed s
  | .tickCommit => Sys2Proof.Machine.execTickCommit s
  | .jobRelease => Sys2Proof.Machine.execJobRelease s
  | .arm port p => Sys2Proof.Machine.execArm port p s
  | .go port p at64 => Sys2Proof.Machine.execGo port p at64 s
  | .beacon port p at64 => Sys2Proof.Machine.execBeacon port p at64 s
  | .beaconReply port p => Sys2Proof.Machine.execBeaconReply port p s
  | .snapshotCut => Sys2Proof.Machine.execSnapshotCut s
  | .copyBeforeWrite addr data => Sys2Proof.Machine.execCopyBeforeWrite addr data s
  | .snapData p => Sys2Proof.Machine.execSnapData p s
  | .snapTag p => Sys2Proof.Machine.execSnapTag p s
  | .snapInvalidate p => Sys2Proof.Machine.execSnapInvalidate p s
  | .pullRequest p => Sys2Proof.Machine.execPullRequest p s
  | .pullData p => Sys2Proof.Machine.execPullData p s
  | .ack p => Sys2Proof.Machine.execAck p s
  | .store p => Sys2Proof.Machine.execStore p s
  | .loadReq p => Sys2Proof.Machine.execLoadReq p s
  | .loadData p => Sys2Proof.Machine.execLoadData p s
  | .atomicReq p => Sys2Proof.Machine.execAtomicReq p s
  | .atomicReply p => Sys2Proof.Machine.execAtomicReply p s
  | .token p => Sys2Proof.Machine.execToken p s
  | .collPartial p => Sys2Proof.Machine.execCollPartial p s
  | .collResult p => Sys2Proof.Machine.execCollResult p s
  | .collNote p => Sys2Proof.Machine.execCollNote p s
  | .pruneReport p => Sys2Proof.Machine.execPruneReport p s
  | .passThroughComplete d cdesc chunk => Sys2Proof.Machine.execPassThroughComplete d cdesc chunk s
  | .blaze p => Sys2Proof.Machine.execBlaze p s
  | .packetForward port p => Sys2Proof.Machine.execPacketForward port p s
  | .escWaitExpiry k => Sys2Proof.Machine.execEscWaitExpiry k s
  | .e2eResend k => Sys2Proof.Machine.execE2eResend k s
  | .e2eLost k => Sys2Proof.Machine.execE2eLost k s
  | .loadTimeout k => Sys2Proof.Machine.execLoadTimeout k s
  | .busyResend k => Sys2Proof.Machine.execBusyResend k s
  | .linkRetry port word => Sys2Proof.Machine.execLinkRetry port word s
  | .linkDown port why => Sys2Proof.Machine.execLinkDown port why s
  | .linkBringup port b => Sys2Proof.Machine.execLinkBringup port b s
  | .commit => Sys2Proof.Machine.execCommit s
  | .fabCoordWrite value => Sys2Proof.Machine.execFabCoordWrite value s
  | .teardown value => Sys2Proof.Machine.execTeardown value s
  | .cxlMemRead w len => Sys2Proof.Machine.execCxlMemRead w len s
  | .cxlMemWrite w data => Sys2Proof.Machine.execCxlMemWrite w data s
  | .mboxPost bits => Sys2Proof.Machine.execMboxPost bits s
  | .mailboxAccept => Sys2Proof.Machine.execMailboxAccept s
  | .identify mb => Sys2Proof.Machine.execIdentify mb s
  | .jobLoad mb => Sys2Proof.Machine.execJobLoad mb s
  | .jobStart mb => Sys2Proof.Machine.execJobStart mb s
  | .jobStop mb => Sys2Proof.Machine.execJobStop mb s
  | .tickSet mb => Sys2Proof.Machine.execTickSet mb s
  | .lookaheadSubmit mb => Sys2Proof.Machine.execLookaheadSubmit mb s
  | .tableRegister mb => Sys2Proof.Machine.execTableRegister mb s
  | .quotaSet mb => Sys2Proof.Machine.execQuotaSet mb s
  | .fenceQuery mb => Sys2Proof.Machine.execFenceQuery mb s
  | .resetFunction mb => Sys2Proof.Machine.execResetFunction mb s
  | .snapshotNow mb => Sys2Proof.Machine.execSnapshotNow mb s
  | .restore mb => Sys2Proof.Machine.execRestore mb s
  | .checkpointWrite mb => Sys2Proof.Machine.execCheckpointWrite mb s
  | .telemetryRead mb => Sys2Proof.Machine.execTelemetryRead mb s
  | .fwStage mb => Sys2Proof.Machine.execFwStage mb s
  | .fwActivate mb => Sys2Proof.Machine.execFwActivate mb s
  | .cmdlistSubmit mb => Sys2Proof.Machine.execCmdlistSubmit mb s
  | .heartwoodWatchdog => Sys2Proof.Machine.execHeartwoodWatchdog s
  | .fresetReset func req => Sys2Proof.Machine.execFresetReset func req s
  | .fresetFence func req => Sys2Proof.Machine.execFresetFence func req s
  | .fresetUnfence func req => Sys2Proof.Machine.execFresetUnfence func req s
  | .functionResetDone ok us => Sys2Proof.Machine.execFunctionResetDone ok us s
  | .scrubRead loc addr find => Sys2Proof.Machine.execScrubRead loc addr find s
  | .hbmTempRead stk temp => Sys2Proof.Machine.execHbmTempRead stk temp s
  | .laRingPoll => Sys2Proof.Machine.execLaRingPoll s
  | .stageComplete page r => Sys2Proof.Machine.execStageComplete page r s
  | .writebackComplete page programmed => Sys2Proof.Machine.execWritebackComplete page programmed s
  | .mapCopy => Sys2Proof.Machine.execMapCopy s
  | .channelRetrain c => Sys2Proof.Machine.execChannelRetrain c s
  | .wearLevelMove c => Sys2Proof.Machine.execWearLevelMove c s
  | .powerStateEntry p scanned => Sys2Proof.Machine.execPowerStateEntry p scanned s
  | .powerStateWake p => Sys2Proof.Machine.execPowerStateWake p s
  | .wakeOnAccess p => Sys2Proof.Machine.execWakeOnAccess p s
  | .railSample d mw => Sys2Proof.Machine.execRailSample d mw s
  | .drydownStep => Sys2Proof.Machine.execDrydownStep s
  | .thermalRead junctions hbmTemps => Sys2Proof.Machine.execThermalRead junctions hbmTemps s
  | .thermtripCompare d temp => Sys2Proof.Machine.execThermtripCompare d temp s
  | .brdHotN low => Sys2Proof.Machine.execBrdHotN low s
  | .sysRstN lowNs => Sys2Proof.Machine.execSysRstN lowNs s
  | .bootStageDone r => Sys2Proof.Machine.execBootStageDone r s
  | .bootWatchdog => Sys2Proof.Machine.execBootWatchdog s
  | .rangerWatchdog => Sys2Proof.Machine.execRangerWatchdog s
  | .die0PowerLoss => Sys2Proof.Machine.execDie0PowerLoss s
  | .refLost => Sys2Proof.Machine.execRefLost s
  | .refReturn => Sys2Proof.Machine.execRefReturn s
  | .brefLost d => Sys2Proof.Machine.execBrefLost d s
  | .pwrCfgWrite req sess value => Sys2Proof.Machine.execPwrCfgWrite req sess value s
  | .thermCfgWrite req sess value => Sys2Proof.Machine.execThermCfgWrite req sess value s
  | .tickOvrCountRead => Sys2Proof.Machine.execTickOvrCountRead s
  | .hostErrRead => Sys2Proof.Machine.execHostErrRead s
  | .registerWrite off width value => Sys2Proof.Machine.execRegisterWrite off width value s
  | .mgmtRead req sess off width => Sys2Proof.Machine.execMgmtRead req sess off width s
  | .mgmtWrite req sess off width value => Sys2Proof.Machine.execMgmtWrite req sess off width value s
  | .setOwnerRoot req sess rootHash => Sys2Proof.Machine.execSetOwnerRoot req sess rootHash s
  | .reportAck src rnum => Sys2Proof.Machine.execReportAck src rnum s
  | .reportResend rnum => Sys2Proof.Machine.execReportResend rnum s
  | .recoveryBegin total => Sys2Proof.Machine.execRecoveryBegin total s
  | .recoveryPiece off len data => Sys2Proof.Machine.execRecoveryPiece off len data s
  | .recoveryEnd => Sys2Proof.Machine.execRecoveryEnd s
  | .recoveryStatus => Sys2Proof.Machine.execRecoveryStatus s
  | .getVersion t => Sys2Proof.Machine.execGetVersion t s
  | .getCapabilities t => Sys2Proof.Machine.execGetCapabilities t s
  | .negotiateAlgorithms t asym sha512 ffdhe aead => Sys2Proof.Machine.execNegotiateAlgorithms t asym sha512 ffdhe aead s
  | .getDigests t => Sys2Proof.Machine.execGetDigests t s
  | .getCertificate t slot off len => Sys2Proof.Machine.execGetCertificate t slot off len s
  | .challenge t slot nonce => Sys2Proof.Machine.execChallenge t slot nonce s
  | .getMeasurements t index signed nonce => Sys2Proof.Machine.execGetMeasurements t index signed nonce s
  | .keyExchange t reqSid => Sys2Proof.Machine.execKeyExchange t reqSid s
  | .finish t sess macOk sigOk chainRoot => Sys2Proof.Machine.execFinish t sess macOk sigOk chainRoot s
  | .heartbeat t sess => Sys2Proof.Machine.execHeartbeat t sess s
  | .keyUpdate t sess => Sys2Proof.Machine.execKeyUpdate t sess s
  | .endSession t sess => Sys2Proof.Machine.execEndSession t sess s
  | .vendorDefinedRequest t sess data => Sys2Proof.Machine.execVendorDefinedRequest t sess data s
  | .chunkGet t handle seqNo => Sys2Proof.Machine.execChunkGet t handle seqNo s
  | .chunkSend t handle seqNo last data => Sys2Proof.Machine.execChunkSend t handle seqNo last data s
  | .setEndpointId eid => Sys2Proof.Machine.execSetEndpointId eid s
  | .getSensorReading id => Sys2Proof.Machine.execGetSensorReading id s
  | .timePollRequest => Sys2Proof.Machine.execTimePollRequest s
  | .poll body => Sys2Proof.Machine.execPoll body s
  | .reply body => Sys2Proof.Machine.execReply body s
  | .bypass => Sys2Proof.Machine.execBypass s
  | .idcode => Sys2Proof.Machine.execIdcode s
  | .samplePreload scanIn => Sys2Proof.Machine.execSamplePreload scanIn s
  | .extest => Sys2Proof.Machine.execExtest s
  | .clamp => Sys2Proof.Machine.execClamp s
  | .highz => Sys2Proof.Machine.execHighz s
  | .sillageOperationEnd d exchange => Sys2Proof.Machine.execSillageOperationEnd d exchange s
  | .copyOperationEnd d q => Sys2Proof.Machine.execCopyOperationEnd d q s
  | .longCommandComplete => Sys2Proof.Machine.execLongCommandComplete s
  | .hostXferCompletion ok data => Sys2Proof.Machine.execHostXferCompletion ok data s
  | .hostXferTimeout => Sys2Proof.Machine.execHostXferTimeout s
  | .overlapHoldEnd k => Sys2Proof.Machine.execOverlapHoldEnd k s
  | .linkWordFailure port word => Sys2Proof.Machine.execLinkWordFailure port word s
  | .entdaa addr => Sys2Proof.Machine.execEntdaa addr s
  | .timeServerReply viaFabric packet => Sys2Proof.Machine.execTimeServerReply viaFabric packet s
  | .cmdlistBodyBuilt d tick => Sys2Proof.Machine.execCmdlistBodyBuilt d tick s
  | .outputPublicationDone => Sys2Proof.Machine.execOutputPublicationDone s
  | .reclaimSpace c => Sys2Proof.Machine.execReclaimSpace c s
  | .hdrDrop p => Sys2Proof.Machine.execHdrDrop p s

end Sys2Proof.Machine
end

