-- ==== Sys2Proof/Machine/Step.lean ====
section
/-! DEFINITION. One step: the command at the front of the queue acts on the device with the queue's rest. -/

namespace Sys2Proof.Machine

/-- One step. With no command waiting one CORE cycle passes and nothing else changes (DESIGN CHOICE, log 1). -/
def step (s : State) : Host.Outcome State Fault Refusal :=
  match s.pending with
  | [] => .next (s.reach (s.cc + 1))
  | c :: rest => exec c { s with pending := rest }

/-- The device with the command that a word of the table spells at the front of its queue; the table gives no row any
bits, so no word spells one (log 2). -/
def State.withFetchWord (s : State) (nbits w : Nat) : State :=
  match Sys2Proof.decodeTableWord nbits w with
  | none => s
  | some c => { s with pending := c :: s.pending }

end Sys2Proof.Machine
end

