-- ==== Sys2Proof/Safety.lean ====
section
/-! DEFINITION. What every step keeps, and the terms in which claims say what a command changes and what it leaves. -/

namespace Sys2Proof.Machine

/-! ### Frames -/

/-- The members of the state, by name. -/
inductive Field where
  | clk | sram | hbm | clusters | seqs | tick | job | host | fence | hbmStacks | parts | und | sill
  | copies | fab | coll | seed | power | ranger | sec | jtag | ctr | free | tx | landed | pending
  deriving DecidableEq, Repr

/-- A member is the same in two states. -/
def Field.same (s t : State) : Field → Prop
  | .clk => t.clk = s.clk
  | .sram => t.sram = s.sram
  | .hbm => t.hbm = s.hbm
  | .clusters => t.clusters = s.clusters
  | .seqs => t.seqs = s.seqs
  | .tick => t.tick = s.tick
  | .job => t.job = s.job
  | .host => t.host = s.host
  | .fence => t.fence = s.fence
  | .hbmStacks => t.hbmStacks = s.hbmStacks
  | .parts => t.parts = s.parts
  | .und => t.und = s.und
  | .sill => t.sill = s.sill
  | .copies => t.copies = s.copies
  | .fab => t.fab = s.fab
  | .coll => t.coll = s.coll
  | .seed => t.seed = s.seed
  | .power => t.power = s.power
  | .ranger => t.ranger = s.ranger
  | .sec => t.sec = s.sec
  | .jtag => t.jtag = s.jtag
  | .ctr => t.ctr = s.ctr
  | .free => t.free = s.free
  | .tx => t.tx = s.tx
  | .landed => t.landed = s.landed
  | .pending => t.pending = s.pending

/-- The second state differs from the first in the listed members alone. -/
def sameBut (fs : List Field) (s t : State) : Prop := ∀ f : Field, f ∉ fs → f.same s t

/-- Every cluster but one is the same. -/
def sameOtherClusters (n : Nat) (s t : State) : Prop := ∀ m, m ≠ n → t.cluster m = s.cluster m

/-- Every sequencer but one is the same. -/
def sameOtherSeqs (d : Nat) (s t : State) : Prop := ∀ e, e ≠ d → t.seq e = s.seq e

/-- What one byte of on-chip memory reads as, by local address. -/
def State.sramByte (s : State) (a : Nat) : Byte := cellAt zeroByte a s.sram

/-- What one byte of HBM reads as, by its place in the eight stacks. -/
def State.hbmByte (s : State) (a : Nat) : Byte := cellAt zeroByte a s.hbm

/-- R596: the two byte memories have their one canonical form. -/
def State.memoryWf (s : State) : Prop := Memory.wf s.sram = true ∧ Memory.wf s.hbm = true

/-- The registers of BAR0 with the reset values that their headings give: offset, bytes, value (R82, R378, R394, R459, R461, R463,
R475, R483, R505, R547, R548, R575, R585). -/
def resetRegisters : List (Nat × Nat × Nat) :=
  [(0x00, 4, 0x4816), (0x08, 8, 0), (0x10, 8, 0), (0x18, 4, 0), (0x20, 4, 0), (0x28, 4, 0), (0x1000, 8, 0),
   (0x1008, 8, 0x3FFFFFFFFF), (0x1010, 4, 1), (0x1018, 16, 0), (0x30000, 4, 0), (0x30008, 4, 0), (0x30010, 8, 0), (0x31000, 16, 0),
   (0x31010, 16, 0), (0x40000, 8, 0), (0x40008, 4, 0x1E000000), (0x40010, 8, 0), (0x40018, 4, 0), (0x40020, 4, 0)] ++
  [(0x50000, 8, 0x000190292C2EE000), (0x50008, 8, 0), (0x50010, 8, 0), (0x50018, 8, 0), (0x50020, 8, 0), (0x50028, 4, 0x6E64),
   (0x50100, 8, 0), (0x50108, 4, 0), (0x50110, 4, 0), (0x60000, 8, 0), (0x60008, 4, 0), (0x60010, 8, 0), (0x60018, 8, 0)] ++
  [(0x70000, 4, 0), (0x70008, 8, 0), (0x70010, 4, 0), (0x70018, 4, 0), (0x70020, 4, 0), (0x70030, 8, 0)] ++
  (List.range 8).map (fun p => (0x70100 + 0x40 * p, 8, 0)) ++
  [(0x70800, 8, 0), (0x70808, 8, 0), (0x70810, 8, 0), (0x70818, 8, 0), (0x70820, 16, 0)]

/-! ### Cluster operations -/

/-- R50: the effects that an operation of cluster `n` may have when it issues: it is counted, what it reads is noted, a
collective's destination is bound, and slots of its own accumulator are zeroed. -/
def Eff.atIssue (n : Nat) : Eff → Bool
  | .count _ _ | .touch _ _ _ | .collDst _ _ _ => true
  | .acc m _ _ | .accMark m _ _ => m == n
  | _ => false

/-- R33, R51, R530: what reading finds asleep of what an operation on cluster `n`, as the only slot of its bundle, needs. -/
def State.clusterWaking (s : State) (n op : Nat) (arg : BitVec 40) (plan : State → Nat → BitVec 40 → Plan) : Waking :=
  s.wakeNeeded (s.issueCycle (n / 16)) (s.attemptNeeds n op arg plan)

/-- The state in which a cluster accepts an operation of its die's bundle at cycle `t`: the bundle's wait is counted, the units that
the operation claims wake, and its effects at issue have been. -/
def State.issued (s : State) (n t units : Nat) (now : List Eff) : State :=
  ((unitKeys n units).foldl State.wakeUp ((s.unblock (n / 16) t).awaitUnits t)).applyAll now

/-- R530: the cycle from which a cluster's units serve an operation that claims them. -/
def State.unitsReady (s : State) (n units : Nat) : Nat := ((unitKeys n units).map s.wakeEnd).foldl max s.cc

/-- The cluster opcodes (R123, R136 to R141, R157, R267, R276, R302, R303, R423), each with its command. -/
def clusterOps : List (Nat × (Fin 64 → BitVec 40 → Instr)) :=
  [(0x10, .mmul), (0x11, .mmulZ), (0x14, .accZero), (0x15, .accRead), (0x40, .vadd), (0x41, .vmul), (0x42, .vfma),
   (0x43, .vmin), (0x44, .vmax), (0x45, .vscale), (0x48, .vcvt), (0x50, .vexp), (0x51, .vlog), (0x52, .vrcp),
   (0x53, .vrsqrt), (0x58, .vrsum), (0x59, .vrmax), (0x60, .vsort), (0x61, .vmerge), (0x68, .vsoftmax),
   (0x69, .vrmsnorm), (0x6A, .vlayernorm), (0x6B, .vsoftmaxB), (0x6C, .vsoftmaxBr)] ++
  [(0x6D, .vrmsnormB), (0x6E, .vlayernormB), (0x6F, .vdual), (0x70, .tmul), (0x72, .ssmul), (0x74, .sddmm), (0x75, .valmap),
   (0x76, .pselect), (0x77, .pmul), (0x80, .gather), (0x81, .gatherSum), (0x82, .scatter), (0x83, .scatterAdd),
   (0x90, .compress), (0xA0, .nload), (0xA1, .nstore), (0xB0, .mmulPost), (0xB1, .mmulzPost), (0xB2, .tmulPost),
   (0xB4, .getMmul), (0xB5, .getTmul), (0xB8, .post), (0xB9, .get)]

/-! ### Words of a scalar core -/

/-- A core of a cluster. -/
def State.coreOf (s : State) (n core : Nat) : Core := (s.cluster n).core core

/-- R145, R146: core `core` of cluster `n` is at word `w`, which has opcode `op`: the job is not held, the cluster holds an item,
and the core runs and waits for no reply. -/
def State.atWord (s : State) (n : Fin 64) (core : Fin 4) (op w : Nat) : Prop :=
  s.job.state ≠ .held ∧ (s.cluster n).item.isSome = true ∧ (s.coreOf n core).running = true ∧
    (s.coreOf n core).waiting.isSome = false ∧ kernelWord (s.kernels (n / 16)) (s.coreOf n core).pc = w ∧
    wordDefined w = true ∧ wOp w = op

/-- The state in the cycle in which the word of a core runs. -/
def State.atCore (s : State) (n core : Nat) : State := s.reach (s.coreOf n core).freeAt

/-- R143: the word of core `core` has run in that cycle and took `latency` cycles: the core is as `f` leaves it, at word `pc`. -/
def State.ran (s : State) (n core pc latency : Nat) (f : Core → Core) : State :=
  let t := s.atCore n core
  t.setCluster n { t.cluster n with
    cores := (t.cluster n).cores.mapIdx (fun j k => if j = core then { f k with pc := pc, freeAt := t.cc + latency } else k) }

/-- The second operand of an `ALU` word: the immediate, or rs2 (R146). -/
def Core.second (c : Core) (w : Nat) : Word := if bitAt (wFn w) 7 then wImm w else c.reg (wRs2 w)

/-- The address of an `LD` or `ST` word: rs1 + IMM (R146). -/
def Core.address (c : Core) (w : Nat) : Nat := (c.reg (wRs1 w) + wImm w).toNat

/-! ### Streams and the slots of a die -/

/-- R53 to R63: a control operation may be read by the sequencer of a die. -/
def State.mayControl (s : State) (d : Nat) : Prop := s.job.state ≠ .held ∧ (s.seq d).waiting.isSome = false

/-- R52, R542: `t` is the first cycle in which a die's next bundle may issue: freeze duty leaves it free, the bundle before is over
and this one has been fetched. -/
def State.firstIssue (s : State) (d t : Nat) : Prop := s.thawed (max (s.issueCycle d) (s.fetchReady d)) = some t

/-- R49, R51, R597: a bundle without slots has issued on a die at cycle `t`; the cycles in which it was held are counted, the last of
them for a wait of a level and cause. -/
def State.stepped (s : State) (d level cause t : Nat) : State :=
  let u := (s.endHold d level cause t).reach t
  u.setSeq d { u.seq d with bundle := (u.seq d).bundle + 1, freeAt := t + 1, fetchAt := s.fetchReady d
                            recent := (t :: (u.seq d).recent).take 64 }

/-- A slot of a die, as its opcode, its command, the units of its class, what reading it finds, and what its issue does. -/
structure DieSlot where
  op : Nat
  command : Fin 4 → BitVec 56 → Instr
  units : Nat → List Nat
  plan : State → Nat → BitVec 56 → SlotPlan
  issue : State → Nat → BitVec 56 → State

/-- The Sillage, memory/copy and fabric slots (R189, R190, R297, R396, R425), but for `CFENCE`, which opens before it waits. -/
def dieSlots : List DieSlot :=
  ([(1, Instr.score), (2, .merge), (3, .hash), (4, .admitTokens), (0x10, .xdispatch), (0x11, .xlist), (0x12, .xreturn),
    (0x13, .xcombine)] : List (Nat × (Fin 4 → BitVec 56 → Instr))).map
      (fun p => ⟨p.1, p.2, sillageUnits, fun s d a => s.planSillage d p.1 a, fun s d a => s.joinSillage d p.1 a⟩) ++
  ([(1, Instr.mcopy), (2, .mfill), (3, .mcache)] : List (Nat × (Fin 4 → BitVec 56 → Instr))).map
      (fun p => ⟨p.1, p.2, fun _ => [], fun s d a => s.planCopy d p.1 a, fun s d a => s.joinCopy d p.1 a⟩) ++
  ([(1, Instr.fput), (2, .fget), (0x3F, .fatomic)] : List (Nat × (Fin 4 → BitVec 56 → Instr))).map
      (fun p => ⟨p.1, p.2, fun _ => [], fun s d a => s.planFab d p.1 a, fun s d a => s.joinFab d p.1 a⟩) ++
  [⟨0x10, .cbind, fun _ => [], fun s d a => s.planCbind d a, fun s d a => s.bindColl d (slotField a 52 3)⟩,
   ⟨0x0F, .sfence, sillageUnits, fun s d a => s.planSfence d a, fun s _ _ => s⟩,
   ⟨4, .mwait, fun _ => [], fun s d a => s.planMwait d a, fun s _ _ => s⟩,
   ⟨4, .fwait, fun _ => [], fun s d a => s.planFwait d a, fun s _ _ => s⟩]

/-- R33, R51, R530: what reading finds asleep of what a slot of a die, as the only slot of its bundle, needs. -/
def State.slotWaking (s : State) (d : Nat) (units : List Nat) (plan : State → SlotPlan) : Waking :=
  s.wakeNeeded (s.issueCycle d) (s.slotNeeds d units plan)

/-- The state in which a slot of a die is accepted at cycle `t`: its bundle's wait is counted. -/
def State.accepting (s : State) (d t : Nat) : State := (s.unblock d t).awaitUnits t

/-- R444: the state in which a `CFENCE` slot is read: a fence that must wait opens first. -/
def State.fenceTried (s : State) (d : Nat) (arg : BitVec 56) : State :=
  if s.planCfence d arg == .wait 3 then s.openCfence d (0x11, arg.toNat) else s

/-! ### Packets -/

/-- R361, R399: a packet comes from this device, or over a link that is up. -/
def State.arrives (s : State) (p : Pkt) : Prop := ∀ q, p.via = some q → s.fab.up.getLsbD q = true

/-- R361, R400: what a packet's arrival on a port leaves before the packet is taken: its flits counted, and no word waited for. -/
def State.linked (s : State) (p : Pkt) : State :=
  match p.via with
  | none => s
  | some q =>
    let v : Port := Tab.get {} q.val s.fab.ports
    (s.setFab { s.fab with ports := Tab.put q.val { v with waitReplay := none } s.fab.ports }).count (cFlitRx q) p.flits

/-- R384, R385, R446, R475, R492: a packet is delivered here: it arrives, it is addressed here, its checks pass, and neither transit
mode, nor a fence of the router of its die, nor an epoch floor drops it. -/
def State.delivers (s : State) (p : Pkt) (typ die : Nat) (tagOk : Bool) : Prop :=
  s.arrives p ∧ s.addressed p = true ∧ s.power.transit = false ∧ s.checkPkt p typ tagOk = .pass ∧ s.routerFenced die = false ∧
    s.belowFloor p = false

/-- R408: what an access that neither its address nor a fence refuses looks up in the owner cache of a die, counted by its status. -/
def State.lookedUp (s : State) (d : Nat) (w : Access4) (a len st : Nat) : State :=
  (if st = 1 ∨ st = 2 then s else s.lookOwners d w a len).countAccess d st

/-- R412: the new values of a signed integer type of `w` bits: an add that saturates, a swap that compares, the lesser and the greater
value, and a swap; and when the add saturates. -/
def signedAtomics (w t : Nat) : Prop :=
  ∀ (a b c : BitVec w) (top : Int), top = 2 ^ (w - 1) →
    atomNew 1 t a.toNat b.toNat c.toNat = ((BitVec.ofInt w (max (-top) (min (top - 1) (a.toInt + b.toInt)))).toNat,
      decide (a.toInt + b.toInt < -top ∨ top ≤ a.toInt + b.toInt)) ∧
    atomNew 2 t a.toNat b.toNat c.toNat = (if a = c then b.toNat else a.toNat, false) ∧
    atomNew 3 t a.toNat b.toNat c.toNat = (if b.slt a = true then b.toNat else a.toNat, false) ∧
    atomNew 4 t a.toNat b.toNat c.toNat = (if a.slt b = true then b.toNat else a.toNat, false) ∧
    atomNew 5 t a.toNat b.toNat c.toNat = (b.toNat, false)

/-- R412: the new values of an unsigned integer type of `w` bits: the lesser and the greater value. -/
def unsignedAtomics (w t : Nat) : Prop :=
  ∀ a b c : BitVec w,
    atomNew 3 t a.toNat b.toNat c.toNat = (if b.ult a = true then b.toNat else a.toNat, false) ∧
    atomNew 4 t a.toNat b.toNat c.toNat = (if a.ult b = true then b.toNat else a.toNat, false)

/-- A kind of packet, as its command, its type, the die that it is delivered to, the comparison of its job tag, and what its
delivery does. -/
structure Delivery where
  command : Pkt → Instr
  typ : Nat
  die : State → Pkt → Nat
  tagOk : State → Pkt → Bool
  take : State → Pkt → State

/-- The packets of the fabric but those of ticks and of Seedbank (R370, R371, R390, R401, R411, R436, R445). -/
def deliveries : List Delivery :=
  let tag (s : State) (p : Pkt) : Bool := s.tagMatches p
  let target (s : State) (p : Pkt) : Nat := s.deliveryDie (pktAddr p)
  [⟨.store, tStore, target, tag, fun s p => s.performStore p⟩, ⟨.loadReq, tLoadReq, target, tag, fun s p => s.performLoad p⟩,
   ⟨.atomicReq, tAtomicReq, target, tag, fun s p => s.performAtomic p⟩,
   ⟨.ack, tAck, fun _ p => field p.body 0 2 / 16384, fun s p => s.ackTagOk p, fun s p => s.takeAck p⟩,
   ⟨.loadData, tLoadData, fun _ p => p.seq.toNat / 16384, tag, fun s p => s.takeReply p tLoadReq⟩,
   ⟨.atomicReply, tAtomicReply, fun _ p => p.seq.toNat / 16384, tag, fun s p => s.takeReply p tAtomicReq⟩,
   ⟨.blaze, tBlaze, fun _ _ => 0, tag, fun s p => s.takeBlaze p⟩] ++
  ([.collPartial, .collResult, .collNote, .pruneReport] : List (Pkt → Instr)).map (fun c =>
    ⟨c, tColl, fun _ p => bitsOf p.addr.toNat 62 2, tag, fun s p => (s.receiveChunk p).wakeColl⟩)

/-- The Seedbank packets of the home's side (R513, R517): their kind, and what an accepted one does to an area. -/
def snapDeliveries : List ((Pkt → Instr) × Nat × (State → Nat → Pkt → State)) :=
  [(.snapData, 0, fun s a p => (s.putSlot a (snapSlot p) (snapOff p) p.data).sendAck p 0),
   (.snapTag, 1, fun s a p => (s.putSlot a (snapSlot p) (snapOff p) p.data).sendAck p 0),
   (.snapInvalidate, 2, fun s a p => (s.putSlot a (snapSlot p) s.tagPlace (List.replicate 64 0)).sendAck p 0),
   (.pullRequest, 3, fun s a p => s.answerPull a p)]

/-! ### Mailbox commands -/

/-- A mailbox command, with its row of the command table and what its execution does (R467). -/
structure MailboxCommand where
  command : Fin 32 → Instr
  row : Cmd
  run : Accepted → State → State

/-- The commands of firmware 1.x (R467). -/
def mailboxCommands : List MailboxCommand :=
  [⟨.identify, cmdIdentify, fun a s => s.complete a sOk 0 s.identity⟩, ⟨.jobLoad, cmdJobLoad, State.startLoad⟩,
   ⟨.jobStart, cmdJobStart, State.startJob⟩, ⟨.jobStop, cmdJobStop, State.stopCommand⟩,
   ⟨.tickSet, cmdTickSet, State.setPeriod⟩, ⟨.lookaheadSubmit, cmdLookahead, State.lookahead⟩,
   ⟨.tableRegister, cmdTableRegister, State.tableRegister⟩, ⟨.quotaSet, cmdQuotaSet, State.quotaSet⟩,
   ⟨.fenceQuery, cmdFenceQuery, fun a s => s.complete a sOk 0 s.fenceQuery⟩] ++
  [⟨.resetFunction, cmdResetFunction, State.resetFunction⟩, ⟨.snapshotNow, cmdSnapshotNow, State.snapshotCommand⟩,
   ⟨.restore, cmdRestore, State.restoreCommand⟩, ⟨.checkpointWrite, cmdCheckpoint, State.checkpointCommand⟩,
   ⟨.telemetryRead, cmdTelemetryRead, State.readTelemetry⟩, ⟨.fwStage, cmdFwStage, State.startStage⟩,
   ⟨.fwActivate, cmdFwActivate, State.activate⟩, ⟨.cmdlistSubmit, cmdCmdlistSubmit, State.submitList⟩]

/-- R464, R466: Heartwood takes the oldest accepted command, which is this row's, of mailbox `mb`; `u` is the state without it. -/
def State.takesCommand (s : State) (mb : Fin 32) (c : Cmd) (a : Accepted) (u : State) : Prop :=
  ∃ rest : List Accepted, s.host.accepted = a :: rest ∧ a.mb = mb ∧ a.cmd = c.code ∧ s.fenced 0x72 = false ∧
    s.immediateBusy = false ∧ u = s.setHost { s.host with accepted := rest }

/-- R466, R467: it executes: no other long command runs if it is long, its length is right, and the job's state allows it; `t` is
the state in which it does. -/
def State.runsCommand (s : State) (mb : Fin 32) (c : Cmd) (a : Accepted) (t : State) : Prop :=
  (c.long = true → s.host.long = none) ∧ c.lenOk a.len = true ∧ c.states.contains s.job.state = true ∧
    ∃ u : State, s.takesCommand mb c a u ∧ t = if c.long = true then u.setLong { req := a } else u

/-! ### Management -/

/-- R385, R394, R570: what the packets that carry a management message leave: those of the fabric manager arrive one by one. -/
def State.messageArrives (s : State) (req : Requester) (carrier : List Pkt) : State :=
  if req = .fabMgr then carrier.foldl (fun (s : State) p => s.deliver p tMgmtReq 0 (s.tagMatches p && s.mgmtSource p) id) s else s

/-- R385, R394: the message is put together: every packet of it is taken. -/
def State.messageWhole (s : State) (req : Requester) (carrier : List Pkt) : Prop :=
  req = .fabMgr → carrier ≠ [] ∧ carrier.all s.takesMgmt = true

/-! ### Invariants -/

/-- R478: no job stays in a holdable state while a function of its used set is fenced. -/
def State.heldIfFenced (s : State) : Prop := s.mustHold = false

/-- R461: no vector stays pending that may leave. -/
def State.noVectorDue (s : State) : Prop := ∀ v : Nat, v < 38 → s.host.pba.getLsbD v = true → s.maySend v = false

end Sys2Proof.Machine
end

