-- ==== Sys2Proof/Certificates/Slice0/Obligations.lean ====
section
/-! DEFINITION. The statements for the provers. -/

open Sys2Proof Sys2Proof.Machine

/-! ### The machine as a whole -/

/-- A step takes the command at the front of the queue and runs it on the device with the queue's rest. -/
def Obligations.StepRunsFront : Prop :=
  ∀ (s : State) (c : Instr) (rest : List Instr), s.pending = c :: rest → step s = exec c { s with pending := rest }

/-- With no command waiting one CORE cycle passes and nothing else changes: the model's choice (log 1). -/
def Obligations.IdleStep : Prop := ∀ s : State, s.pending = [] → step s = .next (s.reach (s.cc + 1))

/-- Every command has an effect in every state, and no command faults or is refused: what the manual calls a fault is a next
state with its record (R488). What follows every event is then done: `settle`.
It rests also on the model's own choices: logs 7, 8. -/
def Obligations.EveryCommandAnswers : Prop := ∀ (c : Instr) (s : State), ∃ t : State, exec c s = .next t.settle

/-- R478: no job is left in a holdable state with a function of its used set fenced: kept by every step. -/
def Obligations.FencedJobsAreHeld : Prop :=
  ∀ s t : State, s.heldIfFenced → step s = .next t → t.heldIfFenced

/-- R461: no vector is left pending that may leave: kept by every step. -/
def Obligations.NoVectorStaysDue : Prop :=
  ∀ s t : State, s.noVectorDue → step s = .next t → t.noVectorDue

/-- The device right after reset meets the two invariants of the steps, and its memories have their canonical form. -/
def Obligations.ResetMeetsInvariants : Prop :=
  State.reset.heldIfFenced ∧ State.reset.noVectorDue ∧ State.reset.memoryWf

/-- Registers right after reset, read by the host, hold the reset values of their headings. -/
def Obligations.ResetRegisters : Prop := ∀ r ∈ resetRegisters, (State.reset.readSpan .host r.1 r.2.1).2 = leBytes r.2.1 r.2.2

/-- What follows an event that no fence of the job's functions comes with: vectors may leave and sensors are told; nothing else
changes (R461, R571). -/
def Obligations.SettleFrame : Prop :=
  ∀ s : State, s.mustHold = false →
    sameBut [.ranger, .tx, .host] s s.settle ∧ { s.settle.host with pba := s.host.pba } = s.host ∧
    (∀ v : Nat, s.settle.host.pba.getLsbD v = true → s.host.pba.getLsbD v = true)

/-- R480, R488: a job that a fault holds is `HELD`; nothing of it is in progress any more; the fault has its record, with the
action bit of a hold, and the record number, the tick and the time of the event.
It rests also on the model's own choices: log 17. -/
def Obligations.HoldStopsTheJob : Prop :=
  ∀ (s : State) (r : FaultRec), s.job.state.holdable = true →
    (s.hold r).job.state = .held ∧ (s.hold r).copies = [] ∧ (s.hold r).fab.queues = [] ∧
    (∀ n, ((s.hold r).cluster n).ops = [] ∧ ((s.hold r).cluster n).item = none) ∧
    (∀ d, ((s.hold r).seq d).window = none ∧ ((s.hold r).seq d).sync = none) ∧
    (∃ q : FaultRec, (s.hold r).fence.ring.head? = some q ∧ q.kind = r.kind ∧ q.func = r.func ∧ q.unit = r.unit ∧
      q.die = r.die ∧ q.check = r.check ∧ q.detail = r.detail ∧ q.action = r.action ||| 1 ∧ q.fseq = s.fence.fseq ∧
      q.tick = s.tick.count.toNat ∧ q.time = s.time)

/-! ### Numbers and choices -/

/-- R92, R94, R97: an E8M0 scale code stands for 2^(c - 127), and 255 for NaN; an MXINT8 element is an 8-bit two's-complement integer
that stands for m / 64, and no block is written with the code 0x80; a block whose elements are all written as zero has the scale code
127 and elements +0, for 32 zeros of either sign too, and quantised again it is the same. (A block that R96 writes as NaN has the
scale code 255 and is not meant.) -/
def Obligations.MxBlocksAreWritten : Prop :=
  (∀ (f : Fmt) (codes : List Nat) (c : Nat),
      blockValues f codes 255 none = codes.map (fun _ => Val.nan) ∧
      (c < 255 → blockValues f codes c none = codes.map (fun x => (f.decode x).scale ((c : Int) - 127)))) ∧
  (∀ m : BitVec 8, Fmt.mxi8.decode m.toNat = .num (m.slt 0) m.toInt.natAbs (-6)) ∧
  (∀ (topnote : Bool) (vs : List Val) (modes : List RoundMode),
      ∀ c ∈ (encodeBlock .mxi8 topnote vs modes).codes, c < 256 ∧ c ≠ 0x80) ∧
  (∀ (f : Fmt) (topnote : Bool) (vs : List Val) (modes : List RoundMode) (b : MxBlock), f.isMx = true → vs.length ≤ 32 →
      b = encodeBlock f topnote vs modes → b.scale ≠ 255 →
      ((∀ c ∈ b.codes, (f.decode c).isZero = true) → b.scale = 127 ∧ b.codes = List.replicate 32 0) ∧
      ((∀ v ∈ vs, v.isZero = true) → b.scale = 127 ∧ b.codes = List.replicate 32 0) ∧
      (b.codes = List.replicate 32 0 → (encodeBlock f topnote (blockValues f b.codes b.scale none) modes).codes = b.codes ∧
        (encodeBlock f topnote (blockValues f b.codes b.scale none) modes).scale = b.scale))

/-- R197: the better of two choices of a token: the higher score, with +0 equal to -0 and the infinities as ordinary scores; of equal
scores the lower tie key, then the lower expert; the order is total over the experts of a token, and their tie keys differ. A token's
choices are then its scored experts that are not NaN, best first, as many as `K` or as there are: none left out is better. -/
def Obligations.BestChoicesAreKept : Prop :=
  (∀ (key : Word) (a b : Scored), a.score.isNan = false → b.score.isNan = false →
      (better key a b = true ↔ b.score.lt a.score = true ∨ (a.score.lt b.score = false ∧
        (tieKey key a.expert < tieKey key b.expert ∨ (tieKey key a.expert = tieKey key b.expert ∧ a.expert < b.expert)))) ∧
      (a.expert ≠ b.expert → better key a b = !better key b a)) ∧
  (∀ (key : Word) (x y : Nat), x < 65536 → y < 65536 → x ≠ y → tieKey key x ≠ tieKey key y) ∧
  (∀ (v w : Val), (v.isZero = true → w.isZero = true → v.lt w = false) ∧
      (v.isFinite = true → v.lt (.inf false) = true ∧ (Val.inf true).lt v = true ∧ (Val.inf false).lt v = false ∧
        v.lt (.inf true) = false)) ∧
  (∀ (key : Word) (k : Nat) (l best : List Scored), best = topK key k l →
      best.length = min k (l.filter (fun x => !x.score.isNan)).length ∧
      (∀ x, best.count x ≤ l.count x) ∧ (∀ x ∈ best, x.score.isNan = false) ∧
      best.Pairwise (fun x y => better key y x = false) ∧
      (∀ x ∈ l, x.score.isNan = false → best.count x < l.count x → ∀ y ∈ best, better key x y = false))

/-! ### Clusters -/

/-- R33, R50, R51, R530, R598: each of the 47 cluster operations issues when what it needs is awake (`u` is the state then, and `r` the
first cycle in which it is), its reading finds no fault, and its units and ACC slots are unclaimed: it holds its claims until its end,
which its length and the wake-up of its units set, and its writes wait until then. Nothing else of its cluster but its accumulator
changes, no other cluster, no other die's sequencer, and no byte of memory. With no part in a power state and none waking up, nothing
is waited for.
It rests also on the model's own choices: logs 67, 80. -/
def Obligations.ClusterSlotsIssue : Prop :=
  (∀ p ∈ clusterOps, ∃ plan, clusterPlan p.1 = some plan ∧
    ∀ (s u : State) (n : Fin 64) (arg : BitVec 40) (r units slots dur : Nat) (now effs : List Eff) (acc : Bool),
      s.job.state ≠ .held → s.clusterWaking n p.1 arg plan = .from1 u r → u.clusterFenced n = false →
      plan u n arg = .ok units slots dur now effs acc → (u.cluster n).accepts units slots = true →
      ∃ t w : State, w = u.issued n r units now ∧ exec (p.2 n arg) s = .next t.settle ∧
        t.cluster n = { w.cluster n with
          ops := (s.cluster n).ops ++ [{ op := p.1, units := units, slots := slots, accOnly := acc
                                         due := w.unitsReady n units + dur
                                         effects := effs, waitColl := (u.getForm n p.1 arg).1
                                         thenOp := (u.getForm n p.1 arg).2 }] } ∧
        (t.cluster n).cores = (s.cluster n).cores ∧ (t.cluster n).item = (s.cluster n).item ∧
        sameOtherClusters n s t ∧ sameOtherSeqs (n / 16) s t ∧
        sameBut [.clk, .clusters, .seqs, .coll, .ctr, .parts, .und, .power, .hbmStacks] s t) ∧
  (∀ (s : State) (t : Nat) (needs : Nat → Bool), s.power.states = [] → s.power.waking = [] → s.wakeNeeded t needs = .from1 s t)

/-- R50, R160: what an operation's reading does at issue is to count, to note what it reads, to bind a collective's destination and
to zero slots of its own cluster: no byte of memory is written before the operation ends, and no other cluster changes. -/
def Obligations.ClustersWriteAtEnd : Prop :=
  (∀ p ∈ clusterOps, ∀ plan, clusterPlan p.1 = some plan →
      ∀ (s : State) (n : Nat) (arg : BitVec 40) (units slots dur : Nat) (now effs : List Eff) (acc : Bool),
        plan s n arg = .ok units slots dur now effs acc → ∀ e ∈ now, e.atIssue n = true) ∧
  (∀ (s : State) (n r units : Nat) (now : List Eff), (∀ e ∈ now, e.atIssue n = true) →
      sameBut [.clk, .clusters, .seqs, .coll, .ctr, .parts, .und, .power, .hbmStacks] s (s.issued n r units now) ∧
        sameOtherClusters n s (s.issued n r units now))

/-- Where a cluster operation does not issue: R33, R51: what it needs wakes up, and its bundle waits; R31, R38: its cluster is fenced;
R116: a field is out of range; R156: a metadata check fails; R31: memory refuses an access; R51, R598: a unit or a slot is claimed, and
the bundle waits. A slot of a die stops in the same ways (R31, R58, R156, R597); a `CFENCE` that waits is open from then on (R444). A
held job issues nothing (R480).
It rests also on the model's own choices: logs 39, 40, 67, 80, 86. -/
def Obligations.SlotsStop : Prop :=
  (∀ p ∈ clusterOps, ∃ plan, clusterPlan p.1 = some plan ∧
      ∀ (s : State) (n : Fin 64) (arg : BitVec 40),
        (s.job.state = .held → exec (p.2 n arg) s = .next s.settle) ∧
        (s.job.state ≠ .held →
          (∀ u, s.clusterWaking n p.1 arg plan = .hold u → exec (p.2 n arg) s = .next (u.holdBundle (n / 16) 1 3).settle) ∧
          (∀ u r, s.clusterWaking n p.1 arg plan = .from1 u r →
            (u.clusterFenced n = true → exec (p.2 n arg) s = .next (u.clusterAddrFault n p.1 arg 2 (nearBase n)).settle) ∧
            (u.clusterFenced n = false →
              (plan u n arg = .bad → exec (p.2 n arg) s = .next (u.imageFault (n / 16)).settle) ∧
              (∀ c a, plan u n arg = .badMeta c a → exec (p.2 n arg) s = .next (u.metaFault n p.1 c a).settle) ∧
              (∀ a st, plan u n arg = .refuse a st → exec (p.2 n arg) s = .next (u.clusterAddrFault n p.1 arg st a).settle) ∧
              (∀ units slots dur now effs acc, plan u n arg = .ok units slots dur now effs acc →
                (u.cluster n).accepts units slots = false → exec (p.2 n arg) s = .next (u.holdBundle (n / 16) 0 0).settle))))) ∧
  (∀ (s : State) (d : Fin 4) (arg : BitVec 56),
      (s.job.state = .held → (∀ p ∈ dieSlots, exec (p.command d arg) s = .next s.settle) ∧ exec (.cfence d arg) s = .next s.settle) ∧
      (s.job.state ≠ .held →
        (∀ p ∈ dieSlots,
          (∀ u, s.slotWaking d (p.units d) (fun t => p.plan t d arg) = .hold u →
            exec (p.command d arg) s = .next (u.holdBundle d 1 3).settle) ∧
          (∀ u r, s.slotWaking d (p.units d) (fun t => p.plan t d arg) = .from1 u r →
            (p.plan u d arg = .bad → exec (p.command d arg) s = .next (u.imageFault d).settle) ∧
            (∀ a st f, p.plan u d arg = .refuse a st f → exec (p.command d arg) s =
              .next (u.hold { kind := 4, func := f, die := d, check := st, detail := leBytes 8 a }).settle) ∧
            (∀ c a, p.plan u d arg = .badMeta c a → exec (p.command d arg) s =
              .next (u.hold { kind := 3, die := d, check := c, detail := leBytes 1 p.op ++ leBytes 8 a }).settle) ∧
            (∀ l, p.plan u d arg = .wait l → exec (p.command d arg) s = .next (u.holdBundle d l 0).settle))) ∧
        (∀ t, t = s.fenceTried d arg →
          (∀ u, t.slotWaking d [] (·.planCfence d arg) = .hold u → exec (.cfence d arg) s = .next (u.holdBundle d 1 3).settle) ∧
          (∀ u r, t.slotWaking d [] (·.planCfence d arg) = .from1 u r →
            (u.planCfence d arg = .bad → exec (.cfence d arg) s = .next (u.imageFault d).settle) ∧
            (u.planCfence d arg = .wait 3 → exec (.cfence d arg) s = .next (u.holdBundle d 3 0).settle)))))

/-- R50, R142, R598: an operation that waits for no collective ends: time reaches its end, its writes land, and its claims go. What a
collective then may do follows (`wakeColl`). The other operations of the cluster, its cores and its item stay. Of two vector operations
that end in one cycle, the bytes of the one on the unit with the higher index remain.
It rests also on the model's own choices: logs 9, 120. -/
def Obligations.OperationsEnd : Prop :=
  (∀ (s : State) (n : Fin 64) (k : Nat) (o : ClusterOp), (s.cluster n).ops[k]? = some o → o.waitColl = none →
    ∃ t w : State, w = (s.reach o.due).landOp n o ∧ exec (.operationEnd n k) s = .next (t.wakeColl).settle ∧
      t.cluster n = { w.cluster n with ops := (s.cluster n).ops.eraseIdx k } ∧
      (t.cluster n).cores = (s.cluster n).cores ∧ (t.cluster n).item = (s.cluster n).item ∧
      t.sram = w.sram ∧ t.hbm = w.hbm ∧ t.cc = max s.cc o.due ∧
      sameBut [.clk, .sram, .hbm, .clusters, .coll, .ctr, .parts, .und, .fab, .sill, .landed] s t) ∧
  (∀ (s : State) (k rank : Nat) (a b : Nat) (bs cs : List Byte) (x : Nat), s.memoryWf → s.landedNow = [] → k < rank →
      a ≤ x → x < a + bs.length →
      ((s.landRanked 1 rank [.sram a bs]).landRanked 1 k [.sram b cs]).sramByte x = bs.getD (x - a) zeroByte)

/-- R50: a block of bytes that lands in on-chip memory is what its addresses then read as; every other address of it, and every
byte of HBM, reads as before. Every write that lands keeps the canonical form of the two memories (R596). -/
def Obligations.LandedBytes : Prop :=
  (∀ (s : State) (a : Nat) (bs : List Byte), s.memoryWf →
      (s.apply (.sram a bs)).memoryWf ∧
      (∀ x, (s.apply (.sram a bs)).sramByte x = if a ≤ x ∧ x < a + bs.length then bs.getD (x - a) zeroByte else s.sramByte x) ∧
      (∀ x, (s.apply (.sram a bs)).hbmByte x = s.hbmByte x)) ∧
  (∀ (s : State) (es : List Eff), s.memoryWf → (s.applyAll es).memoryWf)

/-- R123: `ACC_ZERO` on the slots of a mask leaves +0.0 in every entry of them, marked FP32, and the other slots of the cluster and
every other cluster as they were. -/
def Obligations.AccZeroClears : Prop :=
  ∀ (s : State) (n mask : Nat), Cells.wf 0 (s.cluster n).acc = true →
    (∀ k e, k < 32 → e < slotEntries →
      cellAt 0 (accIndex k e) ((s.applyAll (zeroEffs n mask)).cluster n).acc =
        if mask.testBit k then 0 else cellAt 0 (accIndex k e) (s.cluster n).acc) ∧
    (∀ k, k < 32 → ((s.applyAll (zeroEffs n mask)).cluster n).isInt k = (!mask.testBit k && (s.cluster n).isInt k)) ∧
    sameOtherClusters n s (s.applyAll (zeroEffs n mask)) ∧ sameBut [.clusters] s (s.applyAll (zeroEffs n mask))

/-! ### Scalar cores -/

/-- R143: a register written reads as written and the others as before; x0 reads as 0 and a write of it does nothing. -/
def Obligations.RegisterZeroIgnoresWrites : Prop :=
  ∀ (c : Core) (r q : Nat) (v : Word), r < 32 → q < 32 →
    (c.setReg r v).reg q = (if q = 0 then 0 else if q = r then v else c.reg q) ∧
    (c.setReg r v).pc = c.pc ∧ (c.setReg r v).flags = c.flags ∧ (c.setReg r v).outstanding = c.outstanding

/-- R143, R146: `ALU` writes its result to rd and takes one cycle; `BR` goes to `TGT` when its condition holds and `JMP` always.
The state afterwards is given whole: nothing else changes but the clock. -/
def Obligations.AluAndJumpWords : Prop :=
  ∀ (s : State) (n : Fin 64) (core : Fin 4) (w : Nat),
    (s.atWord n core 0x10 w → exec (.alu n core) s = .next (s.ran n core ((s.coreOf n core).pc + 1) 1
      (fun k => k.setReg (wRd w) (aluResult (wFn w % 128) (k.reg (wRs1 w)) (k.second w)))).settle) ∧
    (s.atWord n core 0x30 w → exec (.br n core) s = .next (s.ran n core
      (if brTaken (wFn w) ((s.coreOf n core).reg (wRs1 w)) ((s.coreOf n core).reg (wRs2 w)) then bitsOf w 0 16
        else (s.coreOf n core).pc + 1) 1 id).settle) ∧
    (s.atWord n core 0x31 w → exec (.jmp n core) s = .next (s.ran n core (bitsOf w 0 16) 1 id).settle)

/-- R146: `SIGNAL` sets this core's flag on each core of its mask; `WAITSIG` completes when the core has every flag of its mask,
which it clears; `WAITU` completes when no operation of the cluster claims a unit of its mask, nor, where the mask has the array, works
on its accumulator alone (R598); `END` stops the core once its stores
are answered, and the last core's `END` ends the item. -/
def Obligations.SignalWords : Prop :=
  ∀ (s : State) (n : Fin 64) (core : Fin 4) (w : Nat),
    (s.atWord n core 0x03 w → ∃ t : State, exec (.signal n core) s = .next t.settle ∧
      t = (s.atCore n core).setCluster n { s.cluster n with
        cores := (s.cluster n).cores.mapIdx (fun j k =>
          let g := { k with flags := if bitAt w j then k.flags ||| 2 ^ core.val else k.flags }
          if j = core.val then { g with pc := k.pc + 1, freeAt := (s.atCore n core).cc + 1 } else g) }) ∧
    (s.atWord n core 0x04 w → (s.coreOf n core).flags &&& bitsOf w 0 4 = bitsOf w 0 4 →
      exec (.waitsig n core) s = .next (s.ran n core ((s.coreOf n core).pc + 1) 1
        (fun k => { k with flags := k.flags - bitsOf w 0 4 })).settle) ∧
    (s.atWord n core 0x02 w → (∀ o ∈ (s.cluster n).ops, o.units &&& bitsOf w 0 12 = 0 ∧ (bitAt w 0 = true → o.accOnly = false)) →
      exec (.waitu n core) s = .next (s.ran n core ((s.coreOf n core).pc + 1) 1 id).settle) ∧
    (s.atWord n core 0x05 w → (s.coreOf n core).outstanding = 0 → ∃ t : State,
      t = s.ran n core (s.coreOf n core).pc 1 (fun k => { k with running := false }) ∧
      ((∃ j : Fin 4, j ≠ core ∧ (s.coreOf n j).running = true) → exec (.endWord n core) s = .next t.settle) ∧
      ((∀ j : Fin 4, j ≠ core → (s.coreOf n j).running = false) → exec (.endWord n core) s = .next (t.endItem n).settle))

/-- R33, R146: a scalar core's `LD` and `ST` of local memory: the load leaves in rd the bytes, little-endian and zero-extended; the store
writes the low bytes of rs2; each takes the time of the place and of its wake-up. A load writes no memory, a store no register.
It rests also on the model's own choices: logs 67, 82, 87. -/
def Obligations.LocalMemoryWords : Prop :=
  ∀ (s a : State) (n : Fin 64) (core : Fin 4) (w l : Nat), a = s.atCore n core →
    s.localOf ((s.coreOf n core).address w) = some l → a.rangeFault (n / 16) l (2 ^ wFn w) = none →
    (s.atWord n core 0x20 w → ∃ t u : State, exec (.ld n core) s = .next t.settle ∧
      u = (a.count cStageMiss (a.missingPages l (2 ^ wFn w)).length).wakeRanges [(l, 2 ^ wFn w)] ∧
      t.cluster n = (s.ran n core ((s.coreOf n core).pc + 1) (u.latency n l + u.wakeWait [(l, 2 ^ wFn w)])
        (fun k => k.setReg (wRd w) (BitVec.ofNat 64 (leNat (u.readLocal l (2 ^ wFn w)))))).cluster n ∧
      sameOtherClusters n s t ∧ sameBut [.clk, .clusters, .parts, .und, .ctr, .power, .hbmStacks] s t) ∧
    (s.atWord n core 0x21 w → ∃ t u v : State, exec (.st n core) s = .next t.settle ∧
      v = (a.count cStageMissW (a.missingPages l (2 ^ wFn w)).length).wakeRanges [(l, 2 ^ wFn w)] ∧
      u = v.writeLocal l 0 (leBytes (2 ^ wFn w) ((s.coreOf n core).reg (wRs2 w)).toNat) ∧
      t.sram = u.sram ∧ t.hbm = u.hbm ∧
      t.cluster n = (s.ran n core ((s.coreOf n core).pc + 1)
        ((if nearBase n ≤ l ∧ l < nearBase n + nearSize then 1 else v.latency n l) + v.wakeWait [(l, 2 ^ wFn w)]) id).cluster n ∧
      sameOtherClusters n s t ∧ sameBut [.clk, .clusters, .sram, .hbm, .parts, .und, .fab, .ctr, .power, .hbmStacks] s t)

/-- R50, R146: what a store within one page of on-chip memory leaves there: its bytes at its addresses, and every other byte of
on-chip memory and of HBM as before. -/
def Obligations.StoredBytes : Prop :=
  ∀ (s : State) (a b hint : Nat) (bs : List Byte), s.memoryWf → 0 < bs.length → a % pageSize + bs.length ≤ pageSize →
    s.place a = .sram b →
    (∀ x, (s.writeLocal a hint bs).sramByte x = if b ≤ x ∧ x < b + bs.length then bs.getD (x - b) zeroByte else s.sramByte x) ∧
    (∀ x, (s.writeLocal a hint bs).hbmByte x = s.hbmByte x)

/-- R403, R416: `LD` and `ST` of remote memory are packets: a load makes its core wait for the destination's reply; a store leaves the
core running with one outstanding answer for each 32-byte unit that it touches. To a destination without a route both end at the core
with status 6.
It rests also on the model's own choices: logs 47, 87. -/
def Obligations.RemoteMemoryWords : Prop :=
  ∀ (s t : State) (n : Fin 64) (core : Fin 4) (w a : Nat), a = (s.coreOf n core).address w → s.localOf a = none →
    t = s.atCore n core →
    (t.noRoute (a / 2 ^ 48) = false →
      (s.atWord n core 0x20 w → exec (.ld n core) s = .next ((s.ran n core ((s.coreOf n core).pc + 1) 1
          (fun k => { k with waiting := some (a / 2 ^ 48) })).post (n / 16)
        (s.newPkt (a / 2 ^ 48) tLoadReq 0 32 (a % 2 ^ 48 / 32 * 32)
          (leBytes 2 (32 * (scalarUnits (a % 2 ^ 48) (2 ^ wFn w)).length) ++ [0, 1]))
        (.coreLoad n core (wRd w) (a % 2 ^ 48 % 32) (2 ^ wFn w))).settle) ∧
      (s.atWord n core 0x21 w → ∃ us, us = scalarUnits (a % 2 ^ 48) (2 ^ wFn w) ∧
        exec (.st n core) s = .next (us.foldl (fun (t : State) u => t.post (n / 16)
            (t.maskedStore (a / 2 ^ 48) (leBytes (2 ^ wFn w) ((s.coreOf n core).reg (wRs2 w)).toNat) u) (.coreStore n core))
          (s.ran n core ((s.coreOf n core).pc + 1) 1 (fun k => { k with outstanding := k.outstanding + us.length }))).settle)) ∧
    (t.noRoute (a / 2 ^ 48) = true →
      (s.atWord n core 0x20 w → exec (.ld n core) s = .next (t.coreNoRoute n core a).settle) ∧
      (s.atWord n core 0x21 w → exec (.st n core) s = .next (t.coreNoRoute n core a).settle))

/-- R146, R148, R598: `ISSUE` puts an operation on the cluster when its reading finds no fault and its units and slots are unclaimed; the
operation is as one issued by a cluster slot, and the core goes on in the next cycle. A word of no form, and an `ISSUE` of an opcode
that is no cluster operation or a collective's, is a kernel fault at the core, with its kernel and its word index.
It rests also on the model's own choices: logs 67, 82. -/
def Obligations.IssueAndUndefinedWords : Prop :=
  (∀ (s u : State) (n : Fin 64) (core : Fin 4) (w op : Nat) (arg : BitVec 40) (plan : State → Nat → BitVec 40 → Plan)
      (units slots dur : Nat) (now effs : List Eff) (acc : Bool), s.atWord n core 0x01 w → u = s.atCore n core → op = bitsOf w 40 8 →
      arg = BitVec.ofNat 40 (bitsOf w 0 40) → isCollOp op = false → clusterPlan op = some plan → s.clusterFenced n = false →
      plan u n arg = .ok units slots dur now effs acc → (s.cluster n).accepts units slots = true →
      ∃ t v : State, exec (.issue n core) s = .next t.settle ∧ v = ((unitKeys n units).foldl State.wakeUp u).applyAll now ∧
        (t.cluster n).ops = (s.cluster n).ops ++ [{ op := op, units := units, slots := slots, accOnly := acc
                                                    due := v.unitsReady n units + dur, effects := effs
                                                    waitColl := (u.getForm n op arg).1, thenOp := (u.getForm n op arg).2 }] ∧
        (t.cluster n).cores = ((s.ran n core ((s.coreOf n core).pc + 1) 1 id).cluster n).cores ∧
        (t.cluster n).item = (s.cluster n).item ∧ sameOtherClusters n s t ∧
        sameBut [.clk, .clusters, .coll, .ctr, .parts, .und, .power, .hbmStacks] s t) ∧
  (∀ (s : State) (n : Fin 64) (core : Fin 4), s.job.state ≠ .held → (s.cluster n).item.isSome = true →
      (s.coreOf n core).running = true → (s.coreOf n core).waiting.isSome = false →
      wordDefined (kernelWord (s.kernels (n / 16)) (s.coreOf n core).pc) = false →
      ∀ c ∈ [Instr.issue n core, .waitu n core, .signal n core, .waitsig n core, .endWord n core, .alu n core, .ld n core, .st n core,
          .br n core, .jmp n core],
        exec c s = .next (s.kernelFault n core (s.cluster n).kernel (s.coreOf n core).pc).settle) ∧
  (∀ (s : State) (n : Fin 64) (core : Fin 4) (w : Nat), s.atWord n core 0x01 w →
      (isCollOp (bitsOf w 40 8) = true ∨ clusterPlan (bitsOf w 40 8) = none) →
      exec (.issue n core) s =
        .next ((s.atCore n core).kernelFault n core (s.cluster n).kernel (s.coreOf n core).pc).settle)

/-! ### Streams -/

/-- R33, R45, R51, R52, R58, R542, R597: the bundle that a die is at issues as a whole when its bytes can be read, its checks and its
place find no fault, freeze duty leaves a cycle free, what it needs is awake, and no slot waits or faults; a bundle that closes a window
or meets a `SYNC` is stated by `ControlsIssue` and `SyncReleasesTogether`. It waits for what keeps it, by level. A bundle that cannot be
read, whose checks fail or whose slots fault holds the job (R58).
It rests also on the model's own choices: logs 67, 79. -/
def Obligations.BundlesIssue : Prop :=
  ∀ (s : State) (d : Fin 4) (b : Bundle), s.streams d = true → (s.seq d).bundle < (s.bodyOf d).2 →
    (∀ f, s.rangeFault d (s.bundleAddr d) 128 = some f →
      exec (.bundleIssue d) s = .next ((s.addrFault d f.2 (s.bundleAddr d)).wakeColl).settle) ∧
    (s.rangeFault d (s.bundleAddr d) 128 = none → b = bundleOf (s.readLocal (s.bundleAddr d) 128) →
      ((s.bundleBad d b || s.placeBad d b) = true → exec (.bundleIssue d) s = .next ((s.imageFault d).wakeColl).settle) ∧
      ((s.bundleBad d b || s.placeBad d b) = false → b.ctl ≠ 2 → b.ctl ≠ 4 →
        (s.thawed (max (s.issueCycle d) (s.fetchReady d)) = none →
          exec (.bundleIssue d) s = .next ((s.holdBundle d 3 2).wakeColl).settle) ∧
        (∀ t0, s.firstIssue d t0 →
          (∀ u, s.wakeNeeded t0 (s.bundleNeeds d b) = .hold u →
            exec (.bundleIssue d) s = .next ((u.holdBundle d 1 3).wakeColl).settle) ∧
          (∀ u r, s.wakeNeeded t0 (s.bundleNeeds d b) = .from1 u r →
            (∀ l, waitLevel (u.slotPlans d b) (u.attempts d b) = some l →
              exec (.bundleIssue d) s = .next (((u.openCfence d b.fab).holdBundle d l 0).wakeColl).settle) ∧
            (waitLevel (u.slotPlans d b) (u.attempts d b) = none →
              (∀ t, u.slotFault d b (u.slotPlans d b) (u.attempts d b) = some t →
                exec (.bundleIssue d) s = .next (t.wakeColl).settle) ∧
              (u.slotFault d b (u.slotPlans d b) (u.attempts d b) = none → exec (.bundleIssue d) s =
                .next ((u.issueAt d b (u.attempts d b) 1 3 ((u.thawed r).getD r)).wakeColl).settle))))))

/-- R53, R54, R57, R59, R62, R63: the control operations, each alone in a bundle whose operand its checks accept: `TICK_WAIT` waits
with its operand, and the last of the four dies compares; `CLEAR_OPEN` opens its window; `CLEAR_CLOSE` ends a window whose items are
done, not before its length, and waits for one whose items are not; `JOB_END` marks the body; `COLL_ISSUE` starts an instance.
It rests also on the model's own choices: logs 67, 79, 80, 105, 109. -/
def Obligations.ControlsIssue : Prop :=
  ∀ (s : State) (d : Fin 4) (v : BitVec 24) (t0 : Nat), s.mayControl d →
    (s.firstIssue d t0 →
      (s.ctlBad d 1 v.toNat = false → ∃ t : State, t = s.stepped d 1 3 t0 ∧ exec (.tickWait d v) s =
        .next ((t.setSeq d { t.seq d with waiting := some v.toNat, waitAt := t0 }).compareWaits d).settle) ∧
      (s.ctlBad d 3 v.toNat = false →
        ∀ u r t1, s.wakeNeeded t0 (s.bundleNeeds d { ctl := 3, operand := v.toNat }) = .from1 u r → u.clearPlan d v.toNat = .ok →
          t1 = (u.thawed r).getD r → exec (.clearOpen d v) s = .next ((u.stepped d 1 3 t1).openWindow d v.toNat t1).settle) ∧
      (∃ t : State, t = s.stepped d 1 3 t0 ∧ exec (.jobEnd d) s = .next (t.setSeq d { t.seq d with jobEnd := true }).settle)) ∧
    (∀ (g : State) (w : Window), g = s.grantTakes d (s.issueCycle d) → (s.seq d).window.isSome = true → (g.seq d).window = some w →
      g.firstIssue d t0 →
      (g.windowDone d w = true → ∃ (t : State) (tc : Nat), tc = max t0 (max (w.openAt + w.length) w.lastEnd) ∧
        t = g.stepped d 2 windowWait tc ∧ exec (.clearClose d) s = .next (t.setSeq d { t.seq d with window := none }).settle) ∧
      (g.windowDone d w = false → exec (.clearClose d) s = .next (g.holdBundle d 2 windowWait).settle)) ∧
    (∀ u r, s.slotWaking d [] (·.planCollIssue d v) = .from1 u r → u.planCollIssue d v = .ok →
      exec (.collIssue d v) s = .next ((u.accepting d r).issueColl d v.toNat).settle)

/-- R55: the last die of a mask to reach a `SYNC` at which the others wait with its identifier lets all of them go 5 cc after it
arrived or the last of them did, and its own bundle issues then.
It rests also on the model's own choices: log 110. -/
def Obligations.SyncReleasesTogether : Prop :=
  ∀ (s : State) (d : Fin 4) (v : BitVec 24) (t0 : Nat) (at4 : Nat → Nat), s.mayControl d → s.firstIssue d t0 →
    s.ctlBad d 2 v.toNat = false → (s.seq d).sync = none → (s.seq d).syncAt = none → at4 d = t0 →
    (∀ e, e < 4 → e ≠ d.val → v.toNat.testBit e = true → (s.seq e).syncAt = none ∧ ∃ m, (s.seq e).sync = some (m, bitsOf v.toNat 8 8, at4 e)) →
    ∃ (go : Nat) (t : State), go = ((maskBits 4 v.toNat).map at4).foldl max 0 + 5 ∧ exec (.sync d v) s = .next t.settle ∧
      (t.seq d).sync = none ∧ (t.seq d).syncAt = none ∧ (t.seq d).bundle = (s.seq d).bundle + 1 ∧ (t.seq d).freeAt = go + 1 ∧
      t.cc = max s.cc go ∧ (∀ e, e < 4 → e ≠ d.val → v.toNat.testBit e = true → (t.seq e).syncAt = some go) ∧
      sameBut [.clk, .seqs, .ctr] s t

/-- R61, R145: a cluster without an item takes the next entry of its region's list, or of the next list that has one; its cores
start at their kernel's words with the entry in x1 to x4 and its place in x5, after 6 cc from its own list and 24 cc from another.
It rests also on the model's own choices: logs 83, 105, 111. -/
def Obligations.ClustersTakeEntries : Prop :=
  ∀ (s : State) (at1 n j : Nat) (w : Window), (s.seq (n / 16)).window = some w → w.clusters.testBit (n % 16) = true →
    (s.cluster n).item.isNone = true → w.listFor (n % 16 / 4) = some j →
    ∀ e i k, i = w.next.getD j 0 →
      e = getBlock zeroByte (windowBase (n / 16) + (w.lists.getD j (0, 0)).1 + 32 + 32 * i) 32 s.sram → k = field e 28 2 →
      k < kernelCount (s.kernels (n / 16)) → field e 30 2 < 2 →
      ∃ t : State, s.takeItem at1 n = t ∧ (t.cluster n).item = some ⟨j, i, k, e⟩ ∧
        (∀ q : Fin 4, ∃ c : Core, (t.cluster n).core q = c ∧ c.pc = kernelStart (s.kernels (n / 16)) k q ∧ c.running = true ∧
          c.freeAt = at1 + (if j = n % 16 / 4 then 6 else 24) ∧ c.flags = 0 ∧ c.outstanding = 0 ∧ c.waiting = none ∧
          c.reg 1 = BitVec.ofNat 64 (field e 0 8) ∧ c.reg 2 = BitVec.ofNat 64 (field e 8 8) ∧
          c.reg 3 = BitVec.ofNat 64 (field e 16 8) ∧ c.reg 4 = BitVec.ofNat 64 (field e 24 8) ∧
          c.reg 5 = BitVec.ofNat 64 (j * 65536 + i) ∧ ∀ r, 5 < r → r < 32 → c.reg r = 0) ∧
        (t.seq (n / 16)).window = some { w with next := w.next.set j (i + 1) } ∧ sameOtherClusters n s t ∧
        sameOtherSeqs (n / 16) s t ∧ sameBut [.clusters, .seqs] s t

/-! ### Slots of a die -/

/-- R33, R186, R190, R223, R297, R298, R396, R398, R425: a slot of a die issues when what it needs is awake and its reading finds no
fault and nothing to wait for: its operation joins its queue, or the wait is over. A `CFENCE` that need not wait is closed at once
(R444).
It rests also on the model's own choices: logs 67, 80. -/
def Obligations.DieSlotsIssue : Prop :=
  ∀ (s u : State) (d : Fin 4) (arg : BitVec 56) (r : Nat), s.job.state ≠ .held →
    (∀ p ∈ dieSlots, s.slotWaking d (p.units d) (fun t => p.plan t d arg) = .from1 u r → p.plan u d arg = .ok →
      exec (p.command d arg) s = .next (p.issue (u.accepting d r) d arg).settle) ∧
    ((s.fenceTried d arg).slotWaking d [] (·.planCfence d arg) = .from1 u r → u.planCfence d arg = .ok →
      exec (.cfence d arg) s = .next ((u.accepting d r).closeCfence d).settle)

/-- R33, R297, R298, R300: a copy operation joins the end of its queue; at the head it starts at once, with its end and its writes fixed
from its descriptor and the wake-up of what it touches, and nothing but the queues, counters and power states changes until it ends. Then
its writes land, and the next of its queue starts.
It rests also on the model's own choices: logs 67, 85. -/
def Obligations.CopyOperationsQueueAndEnd : Prop :=
  (∀ (s : State) (d op : Nat) (arg : BitVec 56) (b : List Byte) (c : CopyDesc), s.dieDescriptor d (slotField arg 0 32) = .ok b →
      s.copyFields op b = some c →
      ∃ since, sameBut [.copies, .ctr, .power, .hbmStacks] s (s.joinCopy d op arg) ∧
        (s.copyQueue d (slotField arg 52 4) = [] → (s.joinCopy d op arg).copyQueue d (slotField arg 52 4) =
          [{ op := op, desc := b, started := true
             due := s.cc + (s.wakeRanges (c.reads op ++ c.writes op)).wakeWait (c.reads op ++ c.writes op) + s.copyTime d op c
             effects := s.copyEffs op c, since := since }]) ∧
        (∀ o l, s.copyQueue d (slotField arg 52 4) = o :: l → o.started = true →
          (s.joinCopy d op arg).copyQueue d (slotField arg 52 4) = o :: l ++ [{ op := op, desc := b, since := since }])) ∧
  (∀ (s : State) (d : Fin 4) (q : Fin 16) (o : CopyOp) (rest : List CopyOp), s.copyQueue d q = o :: rest → o.started = true →
      o.op = 1 ∨ o.op = 2 →
      ∃ t u : State, exec (.copyOperationEnd d q) s = .next t.settle ∧ t.cc = max s.cc o.due ∧
        u = (s.reach o.due).landRanked 2 q o.effects ∧ t.sram = u.sram ∧ t.hbm = u.hbm ∧
        (t.copyQueue d q).length = rest.length ∧ (t.copyQueue d q).map (·.op) = rest.map (·.op) ∧
        sameBut [.clk, .sram, .hbm, .parts, .und, .ctr, .fab, .clusters, .coll, .copies, .landed, .power, .hbmStacks] s t)

/-- R50, R186, R189, R223: an operation of a Sillage joins the end of its pipeline with its context, its tokens and its tick as they are
at issue. The operation at the head ends, once started and with nothing of it still to be acknowledged: its writes land, `XLIST`
closes its tick, the pipeline's next operation may start, and rows that wait for a buffer try again. -/
def Obligations.SillageOperationsQueueAndEnd : Prop :=
  (∀ (s : State) (d op : Nat) (arg : BitVec 56), ∃ (u : Sillage) (o : SillOp),
      s.joinSillage d op arg = (s.setSillage d u).wakeSillage d ∧
        o = { op := op, ctx := slotField arg 48 8, n := slotField arg 32 16 + 1, first := slotField arg 16 16
              context := s.context d (slotField arg 48 8)
              xdesc := if op ≥ 0x10 then s.xdescBytes d (slotField arg 48 8) else []
              tick := s.tick.count.toNat, order := (s.sillage d).order } ∧
        (if op ≥ 0x10 then u = { s.sillage d with exch := (s.sillage d).exch ++ [o], order := (s.sillage d).order + 1 }
          else u = { s.sillage d with choice := (s.sillage d).choice ++ [o], order := (s.sillage d).order + 1 })) ∧
  (∀ (s : State) (d : Fin 4) (exchange : Bool) (o : SillOp) (rest : List SillOp),
      (if exchange then (s.sillage d).exch else (s.sillage d).choice) = o :: rest → o.started = true →
      (exchange && (o.op = 0x10 || o.op = 0x12) && (s.sillage d).sending) = false →
      ∃ (t v : State) (u : Sillage), t = (s.reach o.due).applyAll o.effects ∧ t.sillage d = s.sillage d ∧
        u = { (if exchange then { s.sillage d with exch := rest } else { s.sillage d with choice := rest }) with
              listed := if o.op = 0x11 then Tab.put o.ctx (o.tick + 1, t.cc) (s.sillage d).listed else (s.sillage d).listed
              lastEnd := t.cc } ∧
        v = (if exchange then t.setSillage d u else (t.setSillage d u).count (cSelBusy (ctxOf d o.context).layer) (o.cycles - o.counted)) ∧
        exec (.sillageOperationEnd d exchange) s = .next ((v.wakeSillage d).retryAll).settle)

/-! ### Token packets -/

/-- R235, R247, R251, R258 to R263: a token packet that the receive unit accepts, of each of the four types, is written; what waits
for it may go on; and its sender on this device gets its acknowledgement. One that a check refuses is an integrity fault with that
check; a stale one is counted and acknowledged; one for memory that refuses it, or for a fenced Sillage, is acknowledged with that
status; one without a buffer waits at the receive port.
It rests also on the model's own choices: log 39. -/
def Obligations.TokensArrive : Prop :=
  ∀ (s u : State) (d : Fin 4) (t : Tok),
    ∀ c ∈ [Instr.dispatchRowArrival d t, .countArrival d t, .returnRowArrival d t, .cmdlistRowArrival d t],
      (s.fenced (0x50 + d) = true →
        (∀ e, s.senderOf d t = some e → exec c s = .next ((s.tokAcked e t 2).retryAll).settle) ∧
        (s.senderOf d t = none → exec c s = .next (s.retryAll).settle)) ∧
      (s.fenced (0x50 + d) = false →
        (s.receiveTok d t = (u, .accept) →
          (∀ e, (u.wakeSillage d).senderOf d t = some e → exec c s = .next (((u.wakeSillage d).tokAcked e t 0).retryAll).settle) ∧
          ((u.wakeSillage d).senderOf d t = none → exec c s = .next ((u.wakeSillage d).retryAll).settle)) ∧
        (∀ k, s.receiveTok d t = (u, .fault k) →
          exec c s = .next ((u.integrityFault d 6 k t.xd.toNat t.src.toNat).retryAll).settle) ∧
        (s.receiveTok d t = (u, .stale) →
          (∀ e, s.senderOf d t = some e → exec c s = .next (((s.count (cXstale d) 1).tokAcked e t 0).retryAll).settle) ∧
          (s.senderOf d t = none → exec c s = .next ((s.count (cXstale d) 1).retryAll).settle)) ∧
        (∀ k, s.receiveTok d t = (u, .status k) →
          (∀ e, s.senderOf d t = some e → exec c s = .next ((s.tokAcked e t k).retryAll).settle) ∧
          (s.senderOf d t = none → exec c s = .next (s.retryAll).settle)) ∧
        (s.receiveTok d t = (u, .blocked) → exec c s =
          .next ((u.setSillage d { u.sillage d with arriving := (u.sillage d).arriving ++ [t] }).retryAll).settle))

/-- R243, R247, R251, R263: what an accepted token packet leaves: the segment of a dispatched row at its place in the receive area of its
tick's parity, counted in the arrival entry of its source; the rows that a count packet declares, in that entry; the segment of a
returned row at the place of its token and rank, counted in the return word. Nothing but on-chip memory changes. A count packet that
comes in the cycle in which its tick's `XLIST` clears the entries leaves nothing.
It rests also on the model's own choices: log 91. -/
def Obligations.TokensAreWritten : Prop :=
  ∀ (s : State) (d : Nat) (t : Tok) (x : XDesc) (u : State) (p v : Nat), x = xdescOf d (s.xdescBytes d t.xd.toNat) →
    s.receiveTok d t = (u, .accept) → p = t.tick.toNat % 2 → v = s.arrival x p t.src.toNat →
    (t.typ = 1 → s.checkTok d x t = none ∧ s.tick.count.toNat ≤ t.tick.toNat ∧ t.tick.toNat ≤ s.tick.count.toNat + 1 ∧
      u = (s.writeSegment (x.rowAt (s.hostedRec d x t.hidx.toNat) p t) x.largest t).setArrival x p t.src.toNat (v + 1)) ∧
    (t.typ = 3 → s.checkTok d x t = none ∧ s.tick.count.toNat ≤ t.tick.toNat ∧ t.tick.toNat ≤ s.tick.count.toNat + 1 ∧
      ((Tab.get (0, 0) t.xd.toNat (s.sillage d).listed).1 ≠ t.tick.toNat + 1 →
        u = s.setArrival x p t.src.toNat (arrSegs v + field t.payload 0 3 * 2 ^ 32 + 2 ^ 63)) ∧
      ((Tab.get (0, 0) t.xd.toNat (s.sillage d).listed).1 = t.tick.toNat + 1 →
        (Tab.get (0, 0) t.xd.toNat (s.sillage d).listed).2 = s.cc ∧ u = s)) ∧
    (t.typ = 2 → s.checkTok d x t = none ∧ t.tick.toNat = s.tick.count.toNat ∧ ∃ w : State,
      w = s.writeSegment (x.ret + (t.token.toNat * (ctxOf d (s.context d t.xd.toNat)).k + t.rank.toNat % 16) * x.retSize) x.largest t ∧
      u = w.setSram (putBlock zeroByte x.returnAt (leBytes 8 (leNat (getBlock zeroByte x.returnAt 8 s.sram) + 1)) w.sram))

/-! ### Packets -/

/-- R361, R384, R385, R390, R399, R446, R475, R492: a packet of each kind that is delivered here is taken; a `TOKEN` also lets rows that
wait for a buffer try again. Where a packet is not taken: one from a link that is down is discarded and counted; one for another device
goes on; one that a check refuses is discarded and counted by that check, in transit mode by `TAG_REJECT`; one for a fenced router is
answered with status 2 where its type is answered; one below an epoch floor is counted.
It rests also on the model's own choices: logs 34, 89. -/
def Obligations.PacketsArrive : Prop :=
  (∀ (s : State) (p : Pkt),
      (∀ m ∈ deliveries, s.delivers p m.typ (m.die s p) (m.tagOk s p) → exec (m.command p) s = .next (m.take (s.linked p) p).settle) ∧
      (s.delivers p tToken (p.addr.toNat % 4) (s.tagMatches p) →
        exec (.token p) s = .next (((s.linked p).takeToken p (p.addr.toNat % 4)).retryAll).settle)) ∧
  (∀ m ∈ deliveries, ∀ (s t : State) (p : Pkt), t = s.linked p →
      (∀ q, p.via = some q → s.fab.up.getLsbD q = false → exec (m.command p) s = .next (s.count cLdDiscard 1).settle) ∧
      (s.arrives p →
        (s.addressed p = false → exec (m.command p) s = .next (t.forward p).settle) ∧
        (s.addressed p = true →
          (s.power.transit = true → exec (m.command p) s = .next (t.count cTagReject 1).settle) ∧
          (s.power.transit = false →
            (s.checkPkt p m.typ (m.tagOk s p) = .hdr → exec (m.command p) s = .next (t.count cHdrDrop 1).settle) ∧
            (s.checkPkt p m.typ (m.tagOk s p) = .pay → exec (m.command p) s = .next (t.count cPayDrop 1).settle) ∧
            (s.checkPkt p m.typ (m.tagOk s p) = .tag → exec (m.command p) s = .next (t.count cTagReject 1).settle) ∧
            (s.checkPkt p m.typ (m.tagOk s p) = .pass →
              (s.routerFenced (m.die s p) = true → exec (m.command p) s = .next (t.refuseFenced p).settle) ∧
              (s.routerFenced (m.die s p) = false → s.belowFloor p = true →
                exec (m.command p) s = .next (t.count (cEpochDrop (m.die s p)) 1).settle))))))

/-- R404, R407, R408: a delivered `STORE` is performed whole when every 32-byte unit of it allows it, and not at all otherwise; it is
acknowledged with its status. Before that its arrival and a repeat are counted, its owner entries are looked up unless its address or
a fence refuses it, and what it touches wakes.
It rests also on the model's own choices: logs 47, 67, 88. -/
def Obligations.StoresArePerformed : Prop :=
  ∀ (s r : State) (p : Pkt) (a len st d : Nat), a = pktAddr p → len = p.len.toNat → d = s.deliveryDie a →
    s.delivers p tStore d (s.tagMatches p) → r = (s.linked p).countRetry p →
    st = (if aligned32 a len = true ∧ len ≤ 4096 then s.accessStatus (.store p.src.toNat) a len else 1) →
    ∃ t u : State, exec (.store p) s = .next (u.sendAck p st).settle ∧
      t = (if aligned32 a len = true ∧ len ≤ 4096 then (r.lookedUp d (.store p.src.toNat) a len st).wakeRanges [(a, len)] else r) ∧
      u = (if st = 0 then t.writeLocal a 0
        (if storeMask p = 0 then p.data else maskedData (storeMask p) (s.readLocal a 32) p.data) else t) ∧
      (st ≠ 0 → u.sram = s.sram ∧ u.hbm = s.hbm) ∧ sameBut [.sram, .hbm, .parts, .und, .ctr, .fab, .power, .hbmStacks] s u

/-- R377, R404: a delivered `LOAD_REQ` enters the queue of its die and is answered with the bytes of its range, or with its status and
zeros; no memory changes. One that finds the queue full is answered busy.
It rests also on the model's own choices: logs 67, 88, 131. -/
def Obligations.LoadsAreAnswered : Prop :=
  ∀ (s r : State) (p : Pkt) (a n st d : Nat), a = pktAddr p → n = field p.body 0 2 → d = s.deliveryDie a →
    s.delivers p tLoadReq d (s.tagMatches p) → r = (s.linked p).countRetry p →
    st = (if loadReqOk p = true then s.accessStatus .load a n else 1) →
    (s.queueFull d = true → exec (.loadReq p) s = .next (r.sendReply p tLoadData 5 32 (List.replicate 32 0)).settle) ∧
    (s.queueFull d = false → ∃ t : State, sameBut [.ctr, .parts, .und, .fab, .power, .hbmStacks] s t ∧
      (t.router d).requests = (s.cc + s.latency (16 * d) a) :: s.waitingRequests d ∧
      exec (.loadReq p) s = .next (if st = 0 then t.sendReply p tLoadData 0 n (s.readLocal a n)
        else t.sendReply p tLoadData st 32 (List.replicate 32 0)).settle)

/-- R377, R411 to R414: a delivered `ATOMIC_REQ` that a replay cache knows is answered from it and changes no memory; a new one is applied
if its unit allows it, enters the cache with its status and the old value, and is answered with them. One that finds the request queue
or the cache full is answered busy.
It rests also on the model's own choices: logs 67, 88, 131. -/
def Obligations.AtomicsApplyOnce : Prop :=
  ∀ (s r : State) (p : Pkt) (a d op ty : Nat), a = pktAddr p → d = s.deliveryDie a → op = field p.body 0 1 % 16 →
    ty = field p.body 0 1 / 16 → s.delivers p tAtomicReq d (s.tagMatches p) → r = (s.linked p).enqueue d a →
    (s.queueFull d = true → exec (.atomicReq p) s = .next ((s.linked p).sendReply p tAtomicReply 5 32 []).settle) ∧
    (s.queueFull d = false →
      (∀ b e, s.replayed p = some (b, e) →
        exec (.atomicReq p) s = .next ((r.count (cAtomReplayed b) 1).sendReply p tAtomicReply e.2.1 32 (leBytes 8 e.2.2.1)).settle) ∧
      (s.replayed p = none → replayRoom s.cc (s.router d).replay = none →
        exec (.atomicReq p) s = .next ((r.count (cAtomBusy d) 1).sendReply p tAtomicReply 5 32 []).settle) ∧
      (∀ l, s.replayed p = none → replayRoom s.cc (s.router d).replay = some l →
        ∃ (t : State) (st old : Nat),
          st = (if atomReqOk p = true then s.accessStatus (.atomic p.src.toNat) (a / 32 * 32) 32 else 1) ∧
          old = (if st = 0 then leNat (s.readLocal a (atomWidth ty)) else 0) ∧
          exec (.atomicReq p) s = .next (t.sendReply p tAtomicReply st 32 (leBytes 8 old)).settle ∧
          (t.router d).replay = (replayKey p, st, old, s.cc) :: l ∧
          (st ≠ 0 → t.sram = s.sram ∧ t.hbm = s.hbm) ∧
          (st = 0 → ∃ w : State, sameBut [.ctr, .fab, .parts, .und, .power, .hbmStacks] s w ∧
            t.sram = (w.writeLocal a 0 (leBytes (atomWidth ty)
              (atomNew op ty old (field p.body 8 (atomWidth ty)) (field p.body 16 (atomWidth ty))).1)).sram ∧
            t.hbm = (w.writeLocal a 0 (leBytes (atomWidth ty)
              (atomNew op ty old (field p.body 8 (atomWidth ty)) (field p.body 16 (atomWidth ty))).1)).hbm) ∧
          sameBut [.sram, .hbm, .parts, .und, .ctr, .fab, .power, .hbmStacks] s t))

/-- R412: the operations of the table, whole: which pairs of operation and type there are, and that `FATOMIC` refuses another at its
source (R411); the new value of each, for signed and unsigned integers of 32 and 64 bits and for FP32; and that an integer that
saturates counts in the target die's `ATOM_SAT`. -/
def Obligations.AtomicResults : Prop :=
  (∀ op t, atomListed op t = true ↔
      (op, t) ∈ [(1, 0), (1, 1), (1, 2), (2, 0), (2, 1), (3, 0), (3, 1), (3, 2), (3, 3), (3, 4), (4, 0), (4, 1), (4, 2), (4, 3),
        (4, 4), (5, 0), (5, 1)]) ∧
  (∀ (s u : State) (d : Fin 4) (arg : BitVec 56) (b e : List Byte) (l r n c : Nat), s.job.state ≠ .held →
      s.slotWaking d [] (·.planFab d 0x3F arg) = .from1 u c →
      slotField arg 32 20 = 0 → slotField arg 55 1 = 0 → u.dieDescriptor d (slotField arg 0 32) = .ok b →
      (u.fabQueue d (slotField arg 52 3)).length < 8 → u.atomicFields b = some (l, r, n) →
      u.rangesFault d [(l, 32 * n), (r, 16 * n)] = none → e = u.readLocal l 32 →
      atomListed (field e 8 1 % 16) (field e 8 1 / 16) = false →
      exec (.fatomic d arg) s =
        .next (u.hold { kind := 3, die := d, check := 2, detail := leBytes 1 0x3F ++ leBytes 8 l }).settle) ∧
  signedAtomics 32 0 ∧ signedAtomics 64 1 ∧ unsignedAtomics 32 3 ∧ unsignedAtomics 64 4 ∧
  (∀ (a b c : BitVec 32) (x y : Val), x = fp32.decode a.toNat → y = fp32.decode b.toNat →
      atomNew 1 2 a.toNat b.toNat c.toNat = (f32Code (fAdd x y), false) ∧
      ((x.isNan || y.isNan) = true → atomNew 3 2 a.toNat b.toNat c.toNat = (0x7FC00000, false) ∧
        atomNew 4 2 a.toNat b.toNat c.toNat = (0x7FC00000, false)) ∧
      ((x.isNan || y.isNan) = false →
        atomNew 3 2 a.toNat b.toNat c.toNat = (if y.lt x then b.toNat else a.toNat, false) ∧
        atomNew 4 2 a.toNat b.toNat c.toNat = (if x.lt y then b.toNat else a.toNat, false))) ∧
  (∀ (s : State) (p : Pkt) (a d op ty old : Nat) (l : List (Nat × Nat × Nat × Nat)), a = pktAddr p → d = s.deliveryDie a →
      op = field p.body 0 1 % 16 → ty = field p.body 0 1 / 16 → s.delivers p tAtomicReq d (s.tagMatches p) →
      s.queueFull d = false → s.replayed p = none → replayRoom s.cc (s.router d).replay = some l →
      atomReqOk p = true → s.accessStatus (.atomic p.src.toNat) (a / 32 * 32) 32 = 0 →
      old = leNat (s.readLocal a (atomWidth ty)) →
      ∃ t : State, exec (.atomicReq p) s = .next (t.sendReply p tAtomicReply 0 32 (leBytes 8 old)).settle ∧
        t.counter (cAtomSat d) =
          (if (atomNew op ty old (field p.body 8 (atomWidth ty)) (field p.body 16 (atomWidth ty))).2 = true
            then satAdd 32 (s.counter (cAtomSat d)) 1 else s.counter (cAtomSat d)))

/-- R16, R361, R377, R383, R384, R389, R399, R410, R418, R441: what becomes of packets on their way and of packets whose answer does not come:
each row at the time that its rule gives.
It rests also on the model's own choices: logs 9, 46, 89. -/
def Obligations.PacketsGoOn : Prop :=
  ∀ (s t : State) (port : Fin 8) (p q : Pkt) (k : Nat), q = { p with via := some port } → t = s.linked q →
    (s.fab.up.getLsbD port = false → exec (.packetForward port p) s = .next (s.count cLdDiscard 1).settle) ∧
    (s.fab.up.getLsbD port = true →
      (s.addressed q = true → exec (.packetForward port p) s = .next t.settle) ∧
      (s.addressed q = false →
        (t.nextPort q < 8 → t.crosses (portDie port) (portDie (t.nextPort q)) = false →
          exec (.packetForward port p) s = .next t.settle) ∧
        ((8 ≤ t.nextPort q ∨ t.crosses (portDie port) (portDie (t.nextPort q)) = true) →
          exec (.packetForward port p) s = .next (t.forward q).settle))) ∧
    (s.arrives p → s.addressed p = true → (p.hcrcOk = false ∨ knownTypes.contains p.typ.toNat = false) →
      exec (.hdrDrop p) s = .next ((s.linked p).count cHdrDrop 1).settle) ∧
    (s.arrives p → s.addressed p = false → exec (.hdrDrop p) s = .next ((s.linked p).forward p).settle) ∧
    (∀ x, s.openKept k = some x → x.busy = none → x.resends < 4 →
      (isRequest x.pkt.typ.toNat = true → x.last + usCc 200 < x.first + s.loadLimit) →
      exec (.e2eResend k) s = .next (((s.reach (x.last + usCc 200)).count cE2eResend 1).sendAgain x (x.resends + 1)).settle) ∧
    (∀ x, s.openKept k = some x → x.busy = none → 4 ≤ x.resends →
      exec (.e2eLost k) s = .next (((s.reach (x.last + usCc 200)).losePacket x).pump).settle) ∧
    (∀ x, s.openKept k = some x → isRequest x.pkt.typ.toNat = true →
      exec (.loadTimeout k) s = .next (((s.reach (x.first + s.loadLimit)).losePacket x).pump).settle) ∧
    (∀ x t, s.openKept k = some x → x.busy = some t →
      exec (.busyResend k) s = .next ((s.reach (t + usCc 20)).sendAgain x x.resends).settle) ∧
    (∀ x, s.fab.kept[k]? = some x → x.answered = true →
      exec (.overlapHoldEnd k) s = .next ((s.reach (x.first + msCc 12)).forget.pump).settle) ∧
    (∀ w, s.fab.escWaits[k]? = some w → ∃ t : State,
      t = s.reach (w.since + (if w.pkt.typ.toNat = tAtomicReq then msCc 1 else msCc 10)) ∧
      exec (.escWaitExpiry k) s =
        .next ((t.setFab { t.fab with escWaits := t.fab.escWaits.eraseIdx k }).count cEscDiscard 1).settle)

/-- R441, R442: the root of a collective completes the lowest incomplete chunk of an instance from its pieces, once all are there: with the
sum of its inputs as the tree gives it, or in order of arrival with `WINDFALL`; a chunk that is not the lowest, or lacks a piece, waits.
It rests also on the model's own choices: log 93. -/
def Obligations.PassThroughCompletes : Prop :=
  ∀ (s : State) (d : Fin 4) (cdesc chunk trees : Nat) (n : Node) (i : TreeInfo),
    trees = ((s.collDesc d cdesc).map (·.trees)).getD 1 →
    s.coll.nodes.find? (fun n => n.die = d.val && n.cdesc = cdesc && n.tree = chunk % trees) = some n →
    s.treeInfo d cdesc n.tree = some i → i.isRoot = true → i.rootPasses n chunk = true →
    (∀ v mine, s.lowestOpen i n = some chunk → i.rebuild n chunk i.tree.length i.me = some v →
      mine = n.held.filter (fun p => keyChunk p.1 = chunk) → ∃ (t u : State) (x : List Val) (cycles : Nat),
        x = (if i.desc.windfall = true then reduceAll i.desc.rop (i.desc.dfmt = 14) (mine.map (fun p => pieceVals i.desc p.1 p.2)) else v) ∧
        cycles = ceilDiv (mine.length * x.length) 2048 + 12 ∧ t = (s.reach (s.cc + cycles)).count (cPtRootCc d) cycles ∧
        u = (if n.passAll = true then t.count (cCollPt d) 1 else t).updInst d cdesc n.inst
          (fun y => { y with flags := y.flags ||| (2 + b2n n.passAll) }) ∧
        exec (.passThroughComplete d cdesc chunk) s =
          .next (((u.finishRoot i n chunk x).1.setNode (u.finishRoot i n chunk x).2).wakeColl).settle) ∧
    (s.lowestOpen i n ≠ some chunk ∨ i.rebuild n chunk i.tree.length i.me = none →
      exec (.passThroughComplete d cdesc chunk) s = .next s.settle)

/-! ### Links and the registers of the fabric -/

/-- R361, R363 to R366, R383, R585: a link that comes up, not before its next attempt is due, carries the peer's identity and the
measured delay and lets its waiting packets go; a stage that fails leaves its number and the time of the next attempt; a link that goes
down is not up; a retry request replays from its word, and the ninth within 1 ms takes the link down; a received word that fails asks
for a replay, and another one before it starts is not looked at.
It rests also on the model's own choices: logs 20, 21, 46, 71, 128. -/
def Obligations.LinksChange : Prop :=
  ∀ (s : State) (port : Fin 8) (b : BringUp) (word : BitVec 12) (why : LinkLoss),
    ((s.portHeld port || s.fab.up.getLsbD port || s.power.transit) = true → exec (.linkBringup port b) s = .next s.settle) ∧
    ((s.portHeld port || s.fab.up.getLsbD port || s.power.transit) = false →
      ∀ (u w : State) (v : Port), u = s.reach (s.port port).retryAt →
        v = { s.port port with peer := b.peer, peerPort := b.peerPort, delay := linkDelay b.samples } →
        w = (u.send (.identity port (BitVec.ofNat 32 s.fabCoord) 0x4816 s.fab.epoch.toNat)).setPower
          { s.power with brefLost := s.power.brefLost &&& ~~~ BitVec.twoPow 4 (portDie port) } →
        (b.electricalOk = false → exec (.linkBringup port b) s =
          .next (u.setPort port { s.port port with state := 1, fail := 1, retryAt := u.cc + 120000000 }).settle) ∧
        (b.electricalOk = true → b.lockOk = false → exec (.linkBringup port b) s =
          .next (u.setPort port { s.port port with state := 2, fail := 2, retryAt := u.cc + 120000000 }).settle) ∧
        (b.electricalOk = true → b.lockOk = true →
          (knownPart b.peerPart = false → exec (.linkBringup port b) s = .next (w.setPort port
            { v with delay := (s.port port).delay, state := 3, fail := 3, retryAt := u.cc + 120000000 }).settle) ∧
          (knownPart b.peerPart = true → 11520 < v.delay.toNat → exec (.linkBringup port b) s =
            .next (w.setPort port { v with state := 4, fail := 4, retryAt := u.cc + 120000000 }).settle) ∧
          (knownPart b.peerPart = true → v.delay.toNat ≤ 11520 → ∃ t x : State,
            exec (.linkBringup port b) s = .next t.settle ∧ t = (x.drainEscape port).pump ∧
            x.fab.up = s.fab.up ||| BitVec.twoPow 8 port ∧ x.port port = { v with state := 6 } ∧
            (∀ q, q ≠ port.val → x.port q = s.port q) ∧ x.tx = w.tx ∧ sameBut [.clk, .fab, .power, .tx] s x))) ∧
    (s.fab.up.getLsbD port = false → exec (.linkDown port why) s = .next s.settle ∧ exec (.linkWordFailure port word) s = .next s.settle ∧
      exec (.linkRetry port word) s = .next s.settle) ∧
    (s.fab.up.getLsbD port = true →
      (∃ t : State, exec (.linkDown port why) s = .next (t.pump).settle ∧
        t = s.linkDown port (match why with
          | .lockLost => 6
          | .retryLimit => 5) ∧ t.fab.up = s.fab.up &&& ~~~ BitVec.twoPow 8 port ∧
        t.counter (cPort port 4) = satAdd 32 (s.counter (cPort port 4)) 1) ∧
      (((s.port port).waitReplay = none ∨ (s.port port).waitReplay = some word.toNat) → exec (.linkWordFailure port word) s =
        .next (((s.count (cPort port (if Config.failsFec s.free then 1 else 2)) 1).spend.setPort port
          { s.port port with waitReplay := some word.toNat }).send (.linkCtl port 0 word.toNat)).settle) ∧
      (∀ x, (s.port port).waitReplay = some x → x ≠ word.toNat → exec (.linkWordFailure port word) s = .next s.settle) ∧
      (∀ old n, old = Tab.get (0, s.cc) word.toNat (s.port port).replays → n = (if s.cc > old.2 + msCc 1 then (0, s.cc) else old) →
        (8 ≤ n.1 → exec (.linkRetry port word) s = .next (s.linkDown port 5).settle) ∧
        (n.1 < 8 → exec (.linkRetry port word) s = .next (((s.count (cPort port 3) 1).setPort port
          { s.port port with replays := Tab.put word.toNat (n.1 + 1, n.2) (s.port port).replays }).send
            (.linkWords port word.toNat ((s.port port).wordsFrom word))).settle)))

/-- R378 to R381, R391, R392, R399, R506: a commit makes the shadow tables active and raises the epoch by one, and heads of its cycle
still see the tables before; a write of `FAB_COORD` sets coordinate and extents, gives the shadow escape table its dimension-order entries
and names the default homes; the teardown epoch only rises, and a rise clears the tag, but for a job whose `READY` waits for it.
It rests also on the model's own choices: logs 60, 130. -/
def Obligations.FabricRegistersChange : Prop :=
  ∀ (s : State) (v : BitVec 32),
    (s.power.transit = false → ∃ t : State, exec .commit s = .next t.settle ∧ t.fab.epoch = s.fab.epoch + 1 ∧
      t.fab.escActive = s.fab.escShadow ∧ t.fab.substActive = s.fab.substShadow ∧ t.fab.coord = s.fab.coord ∧
      t.fab.pending = false ∧ t.escTable = s.fab.escActive ∧ t.substTable = s.fab.substActive) ∧
    (s.power.transit = true → exec .commit s = .next s.settle) ∧
    (∃ t : State, exec (.fabCoordWrite v) s = .next t.settle ∧ t.fab.coord = v.setWidth 16 ∧
      t.fab.extent = (v >>> 16).setWidth 16 ∧ t.fab.escShadow = { base := v, written := [] } ∧ t.fab.epoch = s.fab.epoch ∧
      t.seed = { s.seed with buddy := (defaultHomes v.toNat).1, hosts := (defaultHomes v.toNat).2 }) ∧
    (v < s.fab.teardown → exec (.teardown v) s = .next s.settle) ∧
    (s.fab.teardown ≤ v → ∃ t : State, exec (.teardown v) s = .next t.settle ∧ t.fab.teardown = v ∧ t.job = s.job ∧
      t.fab.jobTag = (if v = s.fab.teardown ∨ (s.job.state = .waitArm ∧ s.tick.pendingReady.isSome = true) then s.fab.jobTag else 0) ∧
      (s.job.state = .waitArm → s.tick.armEpoch ≤ v → t.tick.pendingReady = none))

/-! ### Ticks -/

/-- R54, R71, R76: an aligned edge: the clock reaches it, the next one follows a period and the announced stretch later, its number
rises, and what the stream then may do follows.
It rests also on the model's own choices: logs 9, 44. -/
def Obligations.TickEdgesFollow : Prop :=
  ∀ s : State, s.tick.edges = true → s.tick.period ≠ 0 →
    ∃ t : State, exec .tickEdge s = .next (t.tryCommit.wakeColl).settle ∧ t.cc = max s.cc s.tick.nextEdge ∧
      t.tick.edge = s.tick.nextEdge ∧ t.tick.nextEdge = s.tick.nextEdge + s.tick.period.toNat + 12 * s.tick.strNext.toNat ∧
      t.tick.nextNo = s.tick.nextNo + 1 ∧ t.tick.strCur = s.tick.strNext ∧ t.tick.count = s.tick.count ∧
      t.tick.period = s.tick.period ∧
      (s.job.multi = false → t.tick.ovrCount = (if (s.lateFor s.tick.nextNo) = true then
        BitVec.ofNat 32 (satAdd 32 s.tick.ovrCount.toNat 1) else s.tick.ovrCount))

/-- R54, R57, R79, R471, R497: a tick whose four dies wait and whose edge has passed is committed; then the job ends after
`JOB_END`, stops at a save mark once a stop is asked for, waits for its queues before a cut that is due, takes it, or starts the
next tick with the body of its `TICK_WAIT`s. Until then it is not committed. A tick that starts is the current one, and the four
sequencers are at bundle 0 of its body, free from this cycle on, with nothing open, and with what they fetched while they waited (R52);
no memory, cluster or queue changes. The end of a job goes on until its dirty pages are written back (R327).
It rests also on the model's own choices: logs 42, 95, 116. -/
def Obligations.TicksCommitAndStart : Prop :=
  (∀ (s : State) (t body : Nat), t < 2 ^ 64 → s.job.cmdlist = false →
    (s.startTick t body).tick.count.toNat = t ∧ (s.startTick t body).tick.started = true ∧
    (s.startTick t body).job.nextBody = body ∧
    (∀ d, d < 4 → (s.startTick t body).seq d =
      { body := body, freeAt := s.cc, fetchAt := if (s.seq d).waiting.isSome = true then (s.seq d).waitAt else s.cc - 128 }) ∧
    sameBut [.tick, .seqs, .job, .und, .parts, .ctr] s (s.startTick t body)) ∧
  ∀ (s : State) (t : Nat), t = s.tick.count.toNat →
    (s.endPending = true → exec .tickCommit s = .next (s.endJob).settle) ∧
    (s.endPending = false → s.tickDone = false ∨ s.tick.nextNo < t + 2 → exec .tickCommit s = .next s.settle) ∧
    (s.tickDone = true → t + 2 ≤ s.tick.nextNo → ∃ u : State, u = s.commitTick ∧
      ((∃ d, d < 4 ∧ (u.seq d).jobEnd = true) → exec .tickCommit s = .next (u.endJob).settle) ∧
      ((∀ d, d < 4 → (u.seq d).jobEnd = false) →
        ((s.isSave = true ∧ ∃ k, s.tick.stopFrom = some k ∧ k ≤ t) →
          exec .tickCommit s = .next (u.stopJob t s.nextBodyOf).settle) ∧
        ((s.isSave = false ∨ ∀ k, s.tick.stopFrom = some k → t < k) →
          (u.cutDue = false → exec .tickCommit s = .next (u.startTick (t + 1) s.nextBodyOf).settle) ∧
          (u.cutDue = true → u.queuesIdle = true → exec .tickCommit s = .next (u.takeCut.startTick (t + 1) s.nextBodyOf).settle) ∧
          (u.cutDue = true → u.queuesIdle = false →
            exec .tickCommit s = .next (u.setSeed { u.seed with pending := true }).settle))))

/-- R67, R82: a device whose `GO` has come is released in the cycle that it names, as the tick that its `ARM` names: the job runs, edges
run from that cycle on, its counters and collectives are clear, and each die is at bundle 0 of its body. An armed master sends `GO` to
its children on its next TICK-aligned cycle and names its own release.
It rests also on the model's own choices: logs 54, 93, 96. -/
def Obligations.JobsAreReleased : Prop :=
  ∀ s : State, s.job.state = .waitArm → s.tick.pendingReady = none →
    (∀ cc, s.tick.release = .goAt cc →
      ∃ t : State, exec .jobRelease s = .next t.settle ∧ t.job.state = .running ∧ t.tick.run = true ∧ t.tick.edges = true ∧
        t.tick.started = true ∧ t.tick.count.toNat = s.tick.armStart.toNat ∧ t.tick.nextNo = s.tick.armStart.toNat + 1 ∧
        t.cc = max s.cc cc ∧ t.tick.edge = max s.cc cc ∧ t.tick.nextEdge = max s.cc cc + s.tick.period.toNat ∧
        t.tick.release = .idle ∧ t.job.stepNo = (if s.tick.armStart = 0 then 0 else s.job.stepNo) ∧ t.coll = {} ∧ t.tick.ovrLog = [] ∧
        (s.job.cmdlist = false → ∀ d, d < 4 → t.seq d =
          { body := if s.job.resumeTick = 0 then s.job.entryBody else s.job.nextBody, freeAt := max s.cc cc
            fetchAt := if (s.seq d).waiting.isSome = true then (s.seq d).waitAt else max s.cc cc - 128 })) ∧
    (s.tick.release = .armed → s.tick.master = true → exec .jobRelease s = .next ((((s.reach (alignUp 12 s.cc)).sendChildren tBeacon
      (beaconBody s.tick.armStart.toNat 0 128 0 0)).goAt (alignUp 12 s.cc * 64 + s.tick.delay))).settle)

/-- R66 to R68, R71 to R74, R77 to R79, R391: the records of the beacon tree that are delivered here. An `ARM` that finds no status is
taken: its tag is the job's, its delays and its role the unit's; another is answered `READY` with its status. A `GO` fixes the release
from its arrival, its path correction and the delays. A beacon is heard, and its marks and stretch are noted, but for the stretch of one
that was missed before; a reply of a child is merged. A beacon is missed once.
It rests also on the model's own choices: logs 34, 42, 60, 108, 112, 114. -/
def Obligations.BeaconRecordsArrive : Prop :=
  ∀ (s t : State) (port : Fin 8) (p q : Pkt) (at64 : Nat), q = { p with via := some port } → t = s.linked q →
    (s.delivers q tArm 0 (s.tagMatches p) →
      (s.armStatus p.body = 0 → ∃ u : State, exec (.arm port p) s = .next u.settle ∧ u = t.accept73 p.src.toNat p.body ∧
        u.tick.armTag = BitVec.ofNat 16 (field p.body 0 2) ∧ u.job.tag = BitVec.ofNat 16 (field p.body 0 2) ∧
        u.fab.jobTag = BitVec.ofNat 16 (field p.body 0 2) ∧ u.tick.delay = field p.body 12 4 ∧
        u.tick.armStart = BitVec.ofNat 48 (field p.body 6 6) ∧ u.tick.release = .armed ∧
        (u.tick.master = true ↔ field p.body 28 1 % 4 = 3)) ∧
      (s.armStatus p.body ≠ 0 →
        exec (.arm port p) s = .next (t.sendReady p.src.toNat (field p.body 0 2) (s.armStatus p.body)).settle)) ∧
    (s.delivers q tBeacon 0 (s.tagMatches p) → beaconGo p = true → s.job.state = .waitArm → s.tick.release = .armed →
      s.tick.master = false → ∃ u : State, exec (.go port p at64) s = .next u.settle ∧ u.cc = max s.cc (at64 / 64) ∧
        u.tick.release = .goAt ((at64 - beaconCorr p + s.tick.delay - s.delayFrom (field p.body 9 1) + 32) / 64)) ∧
    (s.delivers q tBeacon 0 (s.tagMatches p) → beaconGo p = false → s.tick.edges = true → s.job.multi = true →
      ∃ u : State, exec (.beacon port p at64) s = .next u.settle ∧ u.cc = max s.cc (at64 / 64) ∧ u.tick.missed = 0 ∧
        u.tick.beaconOk = true ∧ u.tick.lastBeacon = some (field p.body 0 6) ∧ u.tick.sender = field p.body 9 1 ∧
        u.tick.strNext = (if field p.body 0 6 + 1 = s.tick.nextNo ∧ s.tick.missedFor ≠ some (field p.body 0 6) then
          BitVec.ofNat 16 (field p.body 6 2) else s.tick.strNext) ∧
        (bitsOf (field p.body 8 1) 5 2 = 1 → s.tick.stopFrom = none → u.tick.stopFrom = some (field p.body 0 6 + 1)) ∧
        (bitsOf (field p.body 8 1) 5 2 = 2 → s.tick.snapFrom = none → u.tick.snapFrom = some (field p.body 0 6 + 1))) ∧
    (s.delivers q tBeaconReply 0 (s.tagMatches p) → s.fab.children.getLsbD port = true →
      exec (.beaconReply port p) s =
        .next (t.mergeReply (field p.body 6 1) (field p.body 7 1) (field p.body 8 2)).settle) ∧
    (s.tick.edges = true → s.job.multi = true → s.tick.master = false → s.tick.lastBeacon ≠ some (s.tick.nextNo - 1) →
      (s.tick.missedFor ≠ some (s.tick.nextNo - 1) →
        ∃ u : State, exec .beaconMissed s = .next u.settle ∧ u.tick.missed.toNat = min 255 (s.tick.missed.toNat + 1) ∧
          u.tick.beaconOk = false ∧ u.tick.strNext = 0 ∧ u.cc = max s.cc (s.tick.edge + ceilDiv s.tick.delayM 64 + 2400) ∧
          sameBut [.clk, .tick] s u) ∧
      (s.tick.missedFor = some (s.tick.nextNo - 1) → exec .beaconMissed s = .next s.settle))

/-! ### Snapshots -/

/-- R320, R497, R499, R512, R522: the cut of a boundary at which a snapshot acts, once every die waits and every queue has ended; and a
write into units of a generation, or of a checkpoint, that are not read waits while they are copied, then is performed; with none of them
unread, or no room for them, nothing is copied ahead.
It rests also on the model's own choices: logs 22, 95. -/
def Obligations.CutsAreTaken : Prop :=
  ∀ (s : State) (addr : BitVec 48) (data : List Byte),
    (s.job.state = .running → s.allWait = true → s.queuesIdle = true → s.cutDue = true →
      (s.seed.pending = true → exec .snapshotCut s =
        .next (s.takeCut.startTick (s.takeCut.tick.count.toNat + 1) s.takeCut.nextBodyOf).settle) ∧
      (s.seed.pending = false → s.tick.started = true → exec .snapshotCut s = .next s.takeCut.settle)) ∧
    (∀ unread held hit, s.copyUnits = (unread, held) →
      hit = unread.filter (fun a => a < addr.toNat + data.length && addr.toNat < a + unitBytes) →
      (hit ≠ [] → held.length + hit.length ≤ bounceUnits → ∃ t u : State, exec (.copyBeforeWrite addr data) s = .next t.settle ∧
        t = u.writeLocal addr.toNat 0 data ∧ sameBut [.seed, .host, .ctr, .free] s u ∧
        u.copyUnits = (unread.filter (fun a => !hit.contains a), held ++ hit) ∧
        u.counter cSbCbwUnits = satAdd 32 (s.counter cSbCbwUnits) hit.length) ∧
      (hit = [] ∨ bounceUnits < held.length + hit.length → exec (.copyBeforeWrite addr data) s = .next s.settle))

/-- R513: a Seedbank packet of the home's side that its checks accept goes into its slot and is acknowledged, or its request is
answered; one that they refuse is answered with status 1.
It rests also on the model's own choices: log 95. -/
def Obligations.SeedbankPacketsAreTaken : Prop :=
  ∀ m ∈ snapDeliveries, ∀ (s t : State) (p : Pkt), s.delivers p tSnap 1 true → snapKind p = m.2.1 → t = (s.linked p).countRetry p →
    (∀ a, t.snapArea p = some a → exec (m.1 p) s = .next (m.2.2 t a p).settle) ∧
    (t.snapArea p = none → exec (m.1 p) s = .next (t.sendAck p 1).settle)

/-- R516 to R518, R522: a packet of pulled data from the home that is asked: the header is taken when its image, coordinate and ranges are
the device's own, and another home is asked when they are not; range data go to their addresses; the tag that fits ends the restore, which
leaves the job `STOPPED` with the header's step number, seed, next body and tick, and the tick unit with its period and guard. Of a
checkpoint that reads back what it missed, the data are kept for it and the tag begins its write.
It rests also on the model's own choices: log 95. -/
def Obligations.RestoresPullTheirSet : Prop :=
  (∀ (s t : State) (p : Pkt) (u : Pulling), s.delivers p tSnap 1 true → snapKind p = 4 → s.seed.pulling = some u →
      s.fromBuddy p = true → p.src.toNat = u.home → t = ((s.linked p).countRetry p).count cSbPull p.len.toNat →
      (u.header = none →
        ((snapOff p = 0 ∧ p.data.length = setHeaderSize ∧ t.headerTaken p.data = true) →
          exec (.pullData p) s = .next ((t.setSeed { t.seed with pulling := some { u with header := some p.data } }).sendAck p 0).settle) ∧
        (¬ (snapOff p = 0 ∧ p.data.length = setHeaderSize ∧ t.headerTaken p.data = true) →
          exec (.pullData p) s = .next ((t.sendAck p 1).nextHome).settle)) ∧
      (∀ h, u.header = some h → snapOff p ≠ 0 →
        (snapOff p ≠ t.tagPlace →
          (s.longIs 0x42 = none → exec (.pullData p) s = .next ((t.writeRanges h (snapOff p) p.data).sendAck p 0).settle) ∧
          (∀ l, s.longIs 0x42 = some l → exec (.pullData p) s = .next ((t.setSeed { t.seed with
            pulling := some { u with cells := putBlock zeroByte (snapOff p) p.data u.cells } }).sendAck p 0).settle)) ∧
        (snapOff p = t.tagPlace →
          (tagFits p.data h = false → exec (.pullData p) s = .next ((t.sendAck p 1).nextHome).settle) ∧
          (tagFits p.data h = true →
            (s.longIs 0x42 = none → exec (.pullData p) s = .next ((t.sendAck p 0).restoreDone h false).settle) ∧
            (∀ l, s.longIs 0x42 = some l → exec (.pullData p) s =
              .next (((t.sendAck p 0).setSeed { t.seed with pulling := none }).beginCheckpoint { l with
                phase := 1
                data := checkpointFrom l.data (getBlock zeroByte 0 (field h 32 8) (putBlock zeroByte 0 h u.cells)) }).settle)))))
    ∧
  (∀ (s : State) (h : List Byte), s.job.state = .restoring →
      ∃ t : State, s.restoreDone h false = t ∧ t.job.state = .stopped ∧ t.job.stepNo = BitVec.ofNat 48 (field h 24 6) ∧
        t.job.seed = BitVec.ofNat 64 (field h 40 8) ∧ t.job.nextBody = field h 20 4 ∧ t.job.resumeTick = field h 48 6 ∧
        t.tick = { s.tick with period := BitVec.ofNat 24 (field h 56 4), guard := BitVec.ofNat 8 (field h 60 1)
                               edges := false, master := false } ∧
        t.seed.pulling = none ∧ t.seed.counter = field h 8 8)

/-! ### The host -/

/-- R11, R401, R408, R419, R457, R459, R461, R463, R475: what the host reads and writes itself: a CXL.mem access whose status is 0 reads
or writes the bytes of its window and completes; one with another status completes too, writes nothing, reads zeros of a page that is not
resident and ones otherwise, and is counted, the first recorded; over a fenced link nothing is written and reads give ones; a write of BAR0
takes effect; a read of `TICK_OVR_COUNT` clears it, and one of `HOST_ERR` clears its count, but for what is counted in the same cycle;
bits of `MBOX_POST` are set, and none cleared.
It rests also on the model's own choices: logs 62, 63, 88, 102, 107, 119. -/
def Obligations.HostReadsAndWrites : Prop :=
  ∀ (s : State) (w : BitVec 40) (len : Nat) (data : List Byte) (off : BitVec 24) (width : Nat) (v : BitVec 64) (bits : BitVec 32)
    (a : Nat), a = s.job.hostWin + w.toNat →
    (s.fenced 0x73 = false →
      (∀ st, st = s.hostStatus .hostRead w.toNat len →
        (st = 0 → exec (.cxlMemRead w len) s =
          .next (((s.wakeRanges [(a, len)]).noteRead a len 0).send (.cxl (s.readLocal a len))).settle) ∧
        (st ≠ 0 → exec (.cxlMemRead w len) s = .next (((s.countAccess (s.deliveryDie a) st).hostError w.toNat st false).send
          (.cxl (List.replicate len (if st = 4 then 0 else 0xFF)))).settle)) ∧
      (∀ st, st = s.hostStatus .hostWrite w.toNat data.length → ∃ t : State, sameBut [.ctr, .fab, .parts, .und, .power, .hbmStacks] s t ∧
        (st = 0 → exec (.cxlMemWrite w data) s = .next ((t.writeLocal a 0 data).send (.cxl [])).settle) ∧
        (st ≠ 0 → exec (.cxlMemWrite w data) s = .next ((t.hostError w.toNat st true).send (.cxl [])).settle)) ∧
      exec (.registerWrite off width v) s = .next (s.writeSpan .host off.toNat width v.toNat).1.settle ∧
      ((s.access .host).held = none →
        exec .tickOvrCountRead s = .next ((s.send (.readData .host (leBytes 4 (BitVec.ofNat 32 s.ovrAtRead.1).toNat))).setTick
          { s.tick with ovrCount := BitVec.ofNat 32 s.ovrAtRead.2, ovrFresh := (s.cc, 0, s.ovrAtRead.2) }).settle ∧
        (s.tick.ovrFresh.1 ≠ s.cc → s.ovrAtRead = (s.tick.ovrCount.toNat, 0)) ∧
        ∃ t : State, exec .hostErrRead s = .next t.settle ∧ t.host.errCount = BitVec.ofNat 32 s.hostFresh.counted ∧
          (s.host.fresh.cc ≠ s.cc → t.host.errCount = 0 ∧ s.errAtRead = s.host.errCount.toNat) ∧
          t.host.errStatus = s.host.errStatus ∧ t.host.errOffset = s.host.errOffset ∧ t.host.errValid = s.host.errValid ∧
          t.tx = s.tx ++ [.readData .host (leBytes 16 (s.setHost { s.host with errCount := BitVec.ofNat 32 s.errAtRead }).hostErr)] ∧
          sameBut [.host, .tx] s t) ∧
      exec (.mboxPost bits) s = .next (s.setHost { s.host with post := s.host.post ||| bits }).settle) ∧
    (s.fenced 0x73 = true →
      exec (.cxlMemRead w len) s = .next (s.send (.cxl (List.replicate len 0xFF))).settle ∧
      exec (.cxlMemWrite w data) s = .next s.settle ∧ exec (.registerWrite off width v) s = .next s.settle ∧
      exec (.mboxPost bits) s = .next s.settle ∧
      exec .tickOvrCountRead s = .next (s.send (.readData .host (List.replicate 4 0xFF))).settle ∧
      exec .hostErrRead s = .next (s.send (.readData .host (List.replicate 16 0xFF))).settle) ∧
    (∀ st write, ∃ t : State, s.hostError w.toNat st write = t ∧ t.host.errCount.toNat = satAdd 32 s.host.errCount.toNat 1 ∧
      (s.host.errValid = true → t.host.errOffset = s.host.errOffset ∧ t.host.errStatus = s.host.errStatus) ∧
      (s.host.errValid = false → t.host.errValid = true ∧ t.host.errOffset = BitVec.ofNat 40 (w.toNat / 64) ∧
        t.host.errStatus = BitVec.ofNat 3 st ∧ t.host.errWrite = write ∧ t.host.irqStatus.getLsbD 35 = true) ∧
      sameBut [.host, .tx] s t)

/-- R464: a completed command: its result, detail, sequence number and status stand in its mailbox, its `POST` bit is clear, it is in
progress no longer, and its vector is raised; the words of the other mailboxes stay. -/
def Obligations.CommandsComplete : Prop :=
  ∀ (s : State) (a : Accepted) (status detail : Nat) (result : List Byte), a.mb < 32 → result.length ≤ 1984 →
    Memory.wf s.host.mailbox = true →
    ∃ t : State, s.complete a status detail result = t ∧ t.mbBytes a.mb 0x840 result.length = result ∧
      t.mbBytes a.mb 16 8 = leBytes 4 a.seq ++ leBytes 2 status ++ leBytes 2 result.length ∧
      t.mbBytes a.mb 24 8 = leBytes 8 detail ∧ t.host.post = s.host.post &&& ~~~ BitVec.twoPow 32 a.mb ∧
      t.inProgress a.mb = false ∧ t.host.irqStatus.getLsbD a.mb = true ∧
      (∀ mb off n, mb ≠ a.mb → mb < 32 → off + n ≤ 4096 → t.mbBytes mb off n = s.mbBytes mb off n) ∧
      sameBut [.job, .ranger, .host, .tx] s t

/-- R464, R466 to R468: a scan accepts posted mailboxes in ascending number; then each command is taken in turn: a long one while
another runs is `BUSY`; then a wrong length is `BAD_LEN`; then a state that does not allow it is `BAD_STATE`.
It rests also on the model's own choices: log 55. -/
def Obligations.CommandsAreTaken : Prop :=
  (∀ s : State, s.fenced 0x72 = false → exec .mailboxAccept s =
    .next (((maskBits 32 s.host.post.toNat).filter (fun mb => !s.inProgress mb)).foldl State.acceptOne s).settle) ∧
  (∀ (s : State) (mb : Nat), (s.requestOf mb).seq ≠ leNat (s.mbBytes mb 16 4) → knownCommands.contains (s.requestOf mb).cmd = true →
    (s.requestOf mb).len ≤ 2048 → ∃ t : State, s.acceptOne mb = t ∧ t.host = { s.host with accepted := s.host.accepted ++ [s.requestOf mb] }) ∧
  (∀ m ∈ mailboxCommands, ∀ (s u : State) (mb : Fin 32) (a : Accepted), s.takesCommand mb m.row a u →
    (∀ l, m.row.long = true → s.host.long = some l → exec (m.command mb) s = .next (u.complete a sBusy l.req.cmd []).settle) ∧
    ((m.row.long = true → s.host.long = none) →
      (m.row.lenOk a.len = false → exec (m.command mb) s = .next (u.complete a sBadLen m.row.lenWant []).settle) ∧
      (m.row.lenOk a.len = true → m.row.states.contains s.job.state = false →
        exec (m.command mb) s = .next (u.complete a sBadState s.job.state.code []).settle) ∧
      (∀ t, s.runsCommand mb m.row a t → exec (m.command mb) s = .next (m.run a t).settle)))

/-- R467: what each mailbox command does once it executes with a request whose fields are in range and that no check refuses.
It rests also on the model's own choices: logs 42, 54, 56, 57, 60, 113. -/
def Obligations.CommandsHaveTheirEffect : Prop :=
  ∀ (s t : State) (mb : Fin 32) (a : Accepted) (q : List Byte), q = a.request →
    (s.runsCommand mb cmdIdentify a t → exec (.identify mb) s = .next (t.complete a sOk 0 t.identity).settle) ∧
    (s.runsCommand mb cmdJobLoad a t → loadFieldBad q = none → s.host.pcie.busMaster = true →
      exec (.jobLoad mb) s =
        .next (((t.setJob { t.job with before := t.job.state }).setJobState .loading).readHost a true (field q 0 8) (field q 8 8)).settle) ∧
    (s.runsCommand mb cmdJobStart a t → field q 9 1 = 0 → field q 12 4 = 0 → t.startRefusal = none →
      ∀ (u : State) (seed : Word), u = t.prepareStart →
        seed = (if u.job.state = .stopped then u.job.seed else BitVec.ofNat 64 (field q 0 8)) →
      (field q 8 1 = 0 → field q 10 2 ≠ 0 → ∃ v w : State,
        v = u.setJob { u.job with seed := seed, multi := false, tag := BitVec.ofNat 16 (field q 10 2) } ∧
        w = v.setFab { v.fab with jobTag := BitVec.ofNat 16 (field q 10 2) } ∧
        exec (.jobStart mb) s = .next (((w.reach w.soloRelease).release w.job.resumeTick).complete a sOk 0
          (leBytes 8 ((w.reach w.soloRelease).release w.job.resumeTick).tick.count.toNat ++ leBytes 8 0)).settle) ∧
      (field q 8 1 = 1 → field q 10 2 = 0 → ∃ v w : State,
        v = u.setJob { u.job with seed := seed, multi := true } ∧
        w = v.setFence { v.fence with used := v.fence.used ||| BitVec.twoPow 116 0x69 } ∧
        exec (.jobStart mb) s = .next (((w.setTick { w.tick with release := .idle, pendingReady := none }).setJobState .waitArm).complete
          a sOk 0 (leBytes 16 0)).settle)) ∧
    (s.runsCommand mb cmdJobStop a t → zeroField q 1 7 = true → field q 0 1 ≤ 3 →
      (s.job.state = .running → exec (.jobStop mb) s = .next ((t.setLong { req := a, phase := 1 }).askMark 1 1 0x12).settle) ∧
      (s.job.state = .waitArm → ∃ u v : State, u = t.setTick { t.tick with release := .idle, pendingReady := none, master := false } ∧
        v = (u.setFab { u.fab with jobTag := 0 }).setJobState .loaded ∧
        exec (.jobStop mb) s = .next (if (field q 0 1).testBit 1 = true then v.setLong { req := a, phase := 2 }
          else v.complete a sOk 0 v.stopResult).settle) ∧
      (s.job.state ≠ .running → s.job.state ≠ .waitArm →
        exec (.jobStop mb) s = .next (if (field q 0 1).testBit 1 = true then t.setLong { req := a, phase := 2 }
          else t.complete a sOk 0 t.stopResult).settle)) ∧
    (s.runsCommand mb cmdTickSet a t → zeroField q 5 3 = true →
      t.tickAllowed (field q 0 4) (if field q 4 1 = 0 then 30 else field q 4 1) = true →
      exec (.tickSet mb) s = .next ((t.setTick { t.tick with
        period := BitVec.ofNat 24 (field q 0 4)
        guard := BitVec.ofNat 8 (if field q 4 1 = 0 then 30 else field q 4 1) }).complete a sOk 0 []).settle) ∧
    (s.runsCommand mb cmdLookahead a t → 0 < field q 0 2 → field q 0 2 ≤ 127 → a.len = 16 + 16 * field q 0 2 → field q 2 14 = 0 →
      ∃ r, r = (chunks 16 (byteField q 16 (16 * field q 0 2))).foldl State.listEntry (t, [0, 0, 0, 0, 0, 0]) ∧
        exec (.lookaheadSubmit mb) s = .next (r.1.serveTier.complete a sOk 0 (byteField (r.2.flatMap (leBytes 4)) 0 32)).settle) ∧
    (s.runsCommand mb cmdTableRegister a t → 0 < field q 0 2 → field q 0 2 ≤ 1023 → field q 3 1 = 0 →
      (field q 2 1 = 1 → exec (.tableRegister mb) s =
        .next ((t.setUnd { t.und with tablesNext := Tab.put (field q 0 2) none t.und.tablesNext }).complete a sOk 0 []).settle) ∧
      (field q 2 1 = 0 → 32 ≤ field q 4 2 → field q 4 2 ≤ 4096 → field q 4 2 % 32 = 0 → field q 6 2 = 0 → field q 20 4 = 0 →
        (t.segmentAt (field q 8 8)).isSome = true →
        (t.segmentAt (field q 24 8)).any (fun g => g.cls = 1 && field q 24 8 + field q 4 2 ≤ g.base + g.size) = true →
        ∃ r : TableReg, r = { base := field q 8 8, rows := field q 16 4, rowBytes := field q 4 2, dflt := field q 24 8 } ∧
        exec (.tableRegister mb) s =
          .next ((t.setUnd { t.und with tablesNext := Tab.put (field q 0 2) (some r) t.und.tablesNext }).complete a sOk 0 []).settle)) ∧
    (s.runsCommand mb cmdQuotaSet a t → (∀ r ∈ chunks 32 q, quotaBad r = none) →
      ∀ u, t.applyQuotas none 0 (chunks 32 q) = .ok u → exec (.quotaSet mb) s = .next (u.serveTier.complete a sOk 0 []).settle) ∧
    (s.runsCommand mb cmdFenceQuery a t → exec (.fenceQuery mb) s = .next (t.complete a sOk 0 t.fenceQuery).settle) ∧
    (s.runsCommand mb cmdResetFunction a t → field q 0 1 < 0x72 → field q 1 1 ≤ 2 → field q 2 6 = 0 →
      exec (.resetFunction mb) s = .next (t.freset (field q 0 1) (field q 1 1) .heartwood a.owner).settle) ∧
    (s.runsCommand mb cmdSnapshotNow a t → zeroField q 0 8 = true → s.job.cmdlist = false →
      exec (.snapshotNow mb) s = .next (t.askMark 2 2 0x40).settle) ∧
    (s.runsCommand mb cmdRestore a t → field q 0 1 ≤ 1 → zeroField q 1 15 = true → (s.fence.fenced &&& s.fence.used) = 0 →
      t.poolsRefusal = none → ∀ v, ((t.setJob { t.job with before := t.job.state }).setJobState .restoring).restoreSteps = (v, true) →
        ∃ w, w = v.setLong { req := a, phase := 1, note := v.seed.restoreStep.toNat } ∧
          (field q 0 1 = 1 ∨ w.seed.mode = 1 → exec (.restore mb) s = .next w.settle) ∧
          (field q 0 1 = 0 → w.seed.mode = 2 →
            exec (.restore mb) s = .next (w.askHome w.seed.restoreStep.toNat w.pullHomes).settle) ∧
          (field q 0 1 = 0 → w.seed.mode = 0 → exec (.restore mb) s = .next w.restoreFailed.settle)) ∧
    (s.runsCommand mb cmdCheckpoint a t → zeroField q 0 8 = true → s.und.readOnly = false →
      (s.job.state = .running → exec (.checkpointWrite mb) s = .next (t.askMark 2 3 0x42).settle) ∧
      (∀ rs, s.job.state = .stopped → t.rangesAt t.job.nextBody = some rs → exec (.checkpointWrite mb) s =
        .next (t.haveCheckpoint { req := a }
          { gen := 0, body := t.job.nextBody, step := t.job.stepNo.toNat, tick := t.job.resumeTick } rs 1).settle)) ∧
    (s.runsCommand mb cmdTelemetryRead a t → ∀ bs, t.telemetryObject q = .ok bs → bs.length ≤ field q 24 4 →
      exec (.telemetryRead mb) s = .next (if bs.isEmpty = true then t.complete a sOk 0 (t.telemetryResult q 0)
        else t.writeHost a (field q 16 8) bs).settle) ∧
    (s.runsCommand mb cmdFwStage a t → field q 0 1 ≤ 1 → zeroField q 1 7 = true →
      ∃ k b, k = fwKind (field q 0 1) ∧ b = t.sec.boot k ∧ exec (.fwStage mb) s =
        .next ((t.setSec ((t.sec.setBoot k { b with staged := none }).setImage k (1 - b.running) [])).noteStaged.readHost a true
          (field q 8 8) (field q 16 8)).settle) ∧
    (s.runsCommand mb cmdFwActivate a t → field q 0 1 ≤ 1 → zeroField q 1 7 = true →
      ∀ k b slot, k = fwKind (field q 0 1) → b = t.sec.boot k → b.staged = some slot → exec (.fwActivate mb) s =
        .next ((t.setSec (t.sec.setBoot k { b with active := slot, tries := 3 })).complete a sOk 0
          (leBytes 8 (fwVersion (t.sec.image k slot)))).settle) ∧
    (s.runsCommand mb cmdCmdlistSubmit a t → field q 6 2 ≤ 63 → zeroField q 20 12 = true →
      a.len = 32 + 32 * field q 6 2 → s.job.cmdlist = true → t.tickPassed (field q 0 6) = false →
      (Tab.find (field q 0 6) s.job.lists).isSome = false →
      (0 < field q 6 2 → exec (.cmdlistSubmit mb) s = .next (t.acceptList a (byteField q 32 (32 * field q 6 2))).settle) ∧
      (field q 6 2 = 0 → 0 < field q 16 4 → field q 16 4 ≤ 65536 →
        exec (.cmdlistSubmit mb) s = .next (t.readHost a false (field q 8 8) (32 * field q 16 4)).settle))

/-- R256, R466, R469, R471: what a command waits for: a host-memory transfer completes, reports an error, or is not completed in time; a
long command that has all it waits for ends; a die's body of a command list is built; and a publication ends, its tick written last.
It rests also on the model's own choices: logs 56, 97. -/
def Obligations.WaitsEnd : Prop :=
  ∀ (s : State) (data : List Byte) (d : Fin 4) (tick : BitVec 48),
    (∀ x rest, s.host.xfers = x :: rest →
      exec (.hostXferCompletion false data) s = .next (s.complete x.req sHostXferFail x.addr []).settle ∧
      (x.write = true → exec (.hostXferCompletion true data) s = .next ((s.setHost { s.host with xfers := rest }).complete x.req sOk 0
        (s.telemetryResult x.req.request x.len)).settle) ∧
      (x.write = false → exec (.hostXferCompletion true data) s =
        .next ((s.setHost { s.host with xfers := rest }).haveHostData x (byteField data 0 x.len)).settle) ∧
      exec .hostXferTimeout s = .next ((s.reach (x.since + 60000000)).complete x.req sHostXferFail x.addr []).settle) ∧
    (∀ l, s.host.long = some l → s.fenced 0x72 = false →
      (l.req.cmd = 0x10 → l.phase = 2 → exec .longCommandComplete s = .next (s.performJobLoad l).settle) ∧
      (l.req.cmd = 0x12 → l.phase = 2 → exec .longCommandComplete s = .next (s.endUnload l).settle) ∧
      (l.req.cmd = 0x41 → l.phase = 1 → s.seed.pulling = none → exec .longCommandComplete s = .next (s.endRestore l).settle) ∧
      (l.req.cmd = 0x42 → l.phase = 1 → exec .longCommandComplete s = .next (s.endCheckpoint l).settle) ∧
      (l.req.cmd = 0x60 → l.phase = 1 → exec .longCommandComplete s = .next (s.endStage l).settle)) ∧
    (∀ entries, Tab.find tick.toNat s.job.lists = some entries → s.job.cmdlist = true → s.fenced 0x72 = false →
      s.buildsNow tick.toNat = true → (Tab.find (bodyKey d tick.toNat) s.job.built).any (fun b => b.1 = tick.toNat) = false →
      128 * (s.bodyBundles d entries).length ≤ 0x400000 → ∃ t : State, exec (.cmdlistBodyBuilt d tick) s = .next t.settle ∧
        t.job.built = Tab.put (bodyKey d tick.toNat) (tick.toNat, (s.bodyBundles d entries).length) s.job.built ∧
        t.sram = (s.writeLocal (windowBase d + 0x100010000 + tick.toNat % 2 * 0x400000) 0 (s.bodyBundles d entries).flatten).sram) ∧
    (∀ p rest, s.host.publishing = p :: rest → ∃ t u : State,
      t = ((s.reach p.due).ringWrite (p.slot + 8) p.header).ringWrite p.slot (leBytes 8 p.tick) ∧
      u = t.setHost { t.host with publishing := rest } ∧
      exec .outputPublicationDone s =
        .next (if t.host.outIrq.toNat ≠ 0 ∧ p.tick % t.host.outIrq.toNat = 0 then u.raise 32 else u).settle)

/-! ### Fences and resets -/

/-- R475, R479, R483 to R486, R493: a fence, an unfence and a reset of a function, from a requester that may ask for them and with no
command before them: a fence leaves its bit set and an unfence leaves it clear, at once, with its completion counted; a reset fences
its function first and stays at the head of the queue until its hardware reports, within the bound of its row; a function number out of
range, and a full queue, complete with results 1 and 2. The Heartwood watchdog resets function 0x72.
It rests also on the model's own choices: logs 41, 61, 65. -/
def Obligations.FunctionsAreFencedAndReset : Prop :=
  ∀ (s : State) (f : BitVec 8) (req : Requester) (us : Nat),
    s.power.transit = false →
    (f.toNat < 0x73 → s.fence.queue = [] →
      (∃ t : State, exec (.fresetFence f req) s = .next t.settle ∧ t.fenced f.toNat = true ∧
        t.fence.accepted = s.fence.accepted + 1 ∧ t.fence.completed = s.fence.completed + 1 ∧ t.fence.lastResult = 0 ∧
        t.fence.lastAction = 1 ∧ t.fence.lastFunc = f) ∧
      (∃ t : State, exec (.fresetUnfence f req) s = .next t.settle ∧ t.fenced f.toNat = false ∧
        (∀ g, g ≠ f.toNat → t.fenced g = s.fenced g) ∧
        t.fence.accepted = s.fence.accepted + 1 ∧ t.fence.completed = s.fence.completed + 1 ∧ t.fence.lastResult = 0 ∧
        t.fence.lastAction = 2 ∧ t.fence.lastFunc = f) ∧
      (∃ t : State, exec (.fresetReset f req) s = .next t.settle ∧ t.fenced f.toNat = true ∧
        t.fence.accepted = s.fence.accepted + 1 ∧ t.fence.completed = s.fence.completed ∧
        ∃ c, t.fence.queue = [c] ∧ c.func = f.toNat ∧ c.action = 0 ∧ c.req = req ∧ c.wasClear = !s.fenced f.toNat)) ∧
    (0x74 ≤ f.toNat → ∀ c ∈ [Instr.fresetFence f req, .fresetUnfence f req, .fresetReset f req],
      ∃ t : State, exec c s = .next t.settle ∧ t.fence.fenced = s.fence.fenced ∧ t.fence.queue = s.fence.queue ∧
        t.fence.lastResult = 1 ∧ t.fence.completed = s.fence.completed + 1) ∧
    (f.toNat < 0x73 → 16 ≤ s.fence.queue.length → ∀ c ∈ [Instr.fresetFence f req, .fresetUnfence f req, .fresetReset f req],
      ∃ t : State, exec c s = .next t.settle ∧ t.fence.fenced = s.fence.fenced ∧ t.fence.queue = s.fence.queue ∧
        t.fence.lastResult = 2 ∧ t.fence.completed = s.fence.completed + 1) ∧
    (∀ c, s.fence.queue = [c] → c.action = 0 → c.startNs ≠ 0 → c.func < 0x74 →
      ((c.func = 0x72 → s.sec.slotGood 2 (s.sec.boot 2).running = true) → ∃ t : State,
        exec (.functionResetDone true us) s = .next t.settle ∧ t.fenced c.func = (if c.wasClear = true then false else s.fenced c.func) ∧
        t.fence.queue = [] ∧ t.fence.completed = s.fence.completed + 1 ∧ t.fence.lastResult = 0 ∧
        t.cc = s.cc + max 1 (min us (resetBound c.func)) * 1200) ∧
      ∃ t : State, exec (.functionResetDone false us) s = .next t.settle ∧ t.fenced c.func = s.fenced c.func ∧
        t.fence.queue = [] ∧ t.fence.completed = s.fence.completed + 1 ∧ t.fence.lastResult = 3 ∧
        t.cc = s.cc + max 1 (min us (resetBound c.func)) * 1200) ∧
    exec .heartwoodWatchdog s = .next (((s.record { kind := 11, func := 0x72 }).raise 36).freset 0x72 0 .ranger 0).settle

/-! ### Storage -/

/-- R312 to R315, R327, R333 to R335, R341 to R347: upkeep of the memories and of flash: what a check code finds is counted or fences its
memory; a temperature sets the refresh rate; a page that flash has read, and whose record fits, is `CLEAN` with its bytes in its frame, one
that is staged as zeros is `CLEAN` with zeros, and one whose read has failed is `LOST`; a page that is programmed leaves the write-back;
rings are polled in their order; the map is copied, channels train again, wear is levelled and space reclaimed on a channel that works.
It rests also on the model's own choices: logs 66, 94, 125, 127. -/
def Obligations.StorageIsKept : Prop :=
  ∀ (s : State) (loc : MemLoc) (addr : Nat) (k : Fin 8) (temp : BitVec 8) (c : Fin 16) (page : Nat) (r : FlashRead),
    exec (.scrubRead loc addr .clean) s = .next s.settle ∧
    exec (.scrubRead loc addr .correctable) s = .next (s.count (errorCounter loc) 1).settle ∧
    (s.power.transit = false →
      ((∀ j, loc ≠ .hbm j) → exec (.scrubRead loc addr .uncorrectable) s = .next (s.fenceFunc (errorTarget loc addr).1
        { kind := 6, unit := errorUnit loc, check := (errorTarget loc addr).2.1, die := (errorTarget loc addr).2.2
          detail := leBytes 8 addr }).settle) ∧
      exec (.scrubRead (.hbm k) addr .uncorrectable) s = .next (s.hbmLost k addr).settle) ∧
    (temp.toNat < 105 → ∃ t : State, exec (.hbmTempRead k temp) s = .next t.settle ∧ (t.stack k).temp = temp ∧
      (t.stack k).rate = refreshRate (s.stack k).rate temp.toNat ∧
      (∀ j, j ≠ k.val → t.stack j = s.stack j) ∧ sameBut [.hbmStacks] s t) ∧
    (∀ f key, s.channelWorks (s.pageChannel page) = true → (s.page page).state = .staging → (s.page page).frame = some f →
      s.pageKey page = some key → (s.page page).fill = false →
      (r = .good → s.recordFits key = true → ∃ t u : State, exec (.stageComplete page r) s = .next ((t.setUnd { t.und with order := t.und.order + 1 }).serveTier).settle ∧
        u = s.readFlash key ∧ (t.page page).state = .clean ∧ (t.page page).frame = some f ∧
        t.hbm = putBlock zeroByte f (byteField (Tab.get [] key u.und.content) 0 pageSize) u.hbm) ∧
      (∀ n, r = .failed n → ∃ t : State, exec (.stageComplete page r) s =
          .next ((t.setUnd { t.und with order := t.und.order + 1 }).serveTier).settle ∧ t.hbm = s.hbm ∧
        (t.page page).state = .lost ∧ (t.page page).frame = none)) ∧
    (∀ f key, (s.page page).state = .staging → (s.page page).frame = some f → s.pageKey page = some key → (s.page page).fill = true →
      ∃ t : State, exec (.stageComplete page r) s = .next ((t.setUnd { t.und with order := t.und.order + 1 }).serveTier).settle ∧
        (t.page page).state = .clean ∧ (t.page page).frame = some f ∧ t.hbm = putBlock zeroByte f (List.replicate pageSize 0) s.hbm) ∧
    (s.channelWorks (s.pageChannel page) = true →
      exec (.writebackComplete page true) s = .next ((s.writebackDone page).serveTier).settle ∧
      exec (.writebackComplete page false) s = .next (s.programFailed page).settle) ∧
    (s.job.state ≠ .none → s.job.state ≠ .loading →
      exec .laRingPoll s = .next (((s.job.laRing.take s.job.laRings).foldl State.pollRing s).serveTier).settle) ∧
    (s.fenced 0x68 = false → ∃ t : State, exec .mapCopy s = .next t.settle ∧ t.und.journal = 0 ∧ t.und.lastCopy = t.cc ∧
      (s.und.journal < 2 ^ 20 → t.cc = max s.cc (s.und.lastCopy + 60 * 1200000000)) ∧ sameBut [.clk, .und] s t) ∧
    (s.channelWorks c = true →
      (∃ t : State, exec (.channelRetrain c) s = .next t.settle ∧ (t.channel c).lastTrain = t.cc ∧
        t.cc = max s.cc ((s.channel c).lastTrain + 120000000) ∧ (∀ j, j ≠ c.val → t.channel j = s.channel j) ∧
        sameBut [.clk, .und] s t) ∧
      exec (.wearLevelMove c) s = .next (s.wearLevel c).settle ∧ exec (.reclaimSpace c) s = .next ((s.reclaim c).serveTier).settle)

/-! ### Power and heat -/

/-- R33 to R35, R39, R492, R530 to R543, R547, R585, R587: power states are entered and left, a rail is sampled, Drydown takes a step, heat
and the pins act, die 0's domain is lost, and references are absent and return.
It rests also on the model's own choices: logs 67 to 71. -/
def Obligations.PowerAndHeatAct : Prop :=
  ∀ (s : State) (p : Part) (k : Nat) (d : Fin 4) (mw : Nat) (js hs : List (BitVec 8)) (temp : BitVec 8),
    (∀ gap t, gap = s.nextEvent p k - s.cc → t = s.choose p gap →
      (0 < t → t ≤ deepest p ∧ t ≤ s.depthCap (stateDie (partKeyOf p)) ∧ wakeCycles t ≤ gap ∧ (1 < t → breakEven t < gap)) ∧
      (s.partIdle p = true → s.partState (partKeyOf p) < 2 → s.partState (partKeyOf p) < t →
        ∃ u : State, exec (.powerStateEntry p k) s = .next u.settle ∧ Tab.find (partKeyOf p) u.power.states = some (t, s.cc) ∧
          Tab.find (partKeyOf p) u.power.wakeAt = some (s.nextEvent p k - wakeCycles t) ∧ sameBut [.power, .hbmStacks, .ctr] s u) ∧
      (s.partIdle p = false → exec (.powerStateEntry p k) s = .next s.settle)) ∧
    (∀ n : Fin 64, ∀ t0 since, Tab.find (stateKey 1 n) s.power.states = some (t0, since) → s.partState (stateKey 2 (n / 4)) < 3 →
      ∃ t : State, exec (.powerStateWake (.cluster n)) s = .next t.settle ∧
        t.power.states = Tab.drop (stateKey 1 n) s.power.states ∧
        t.readyAt (stateKey 1 n) = s.wakeStart (stateKey 1 n) + wakeCycles t0 ∧ sameBut [.power, .ctr] s t) ∧
    exec (.powerStateWake p) s = .next (s.wakePart p).settle ∧
    (∀ n : Fin 64, s.partState (stateKey 1 n) = 2 → s.partState (stateKey 2 (n / 4)) < 3 → Tab.find (stateKey 1 n) s.power.wakeAt = none →
      exec (.wakeOnAccess (.cluster n)) s = .next ((s.wakePart (.cluster n)).count (cRegionWake (n / 4)) 1).settle ∧
      (s.wakePart (.cluster n)).readyAt (stateKey 1 n) = s.cc + 1800) ∧
    (∃ t : State, exec (.railSample d mw) s = .next t.settle ∧ t.power.energyNj = s.power.energyNj + mw ∧
      Tab.get 0 d.val t.power.samples = Tab.get 0 d.val s.power.samples + mw ∧
      Tab.get 0 (4 + d.val) t.power.samples = Tab.get 0 (4 + d.val) s.power.samples + 1 ∧ sameBut [.power] s t) ∧
    (s.power.transit = true → exec .drydownStep s = .next s.settle) ∧
    (s.power.transit = false → ∃ t : State, exec .drydownStep s = .next t.settle ∧ t.power.steps = s.power.steps + 1 ∧
      t.power.targetMw ≤ s.power.capW.toNat * 1000 ∧
      t.power.heldMw ≤ s.power.heldMw + s.power.ramp.toNat * 10 ∧ s.power.heldMw ≤ t.power.heldMw + s.power.ramp.toNat * 10 ∧
      sameBut [.power, .free, .host, .tx, .seqs, .ctr] s t) ∧
    (s.power.thermTrip = false → s.power.tripping = false → js.length = 32 →
      (∀ j ∈ js, j.toNat < s.power.trip.toNat ∧ j.toNat < 125) → (∀ h ∈ hs, h.toNat < 105) →
      ∃ t : State, exec (.thermalRead js hs) s = .next t.settle ∧ t.power.tripping = false ∧ t.power.thermTrip = false ∧
        t.power.tripped = 0 ∧ t.power.thermalDuty ≤ max s.power.thermalDuty 48 ∧ sameBut [.power, .seqs, .ctr] s t) ∧
    (125 ≤ temp.toNat → s.power.thermTrip = false →
      exec (.thermtripCompare d temp) s = .next ((s.setPower { s.power with thermTrip := true }).send (.pin 0 false)).settle) ∧
    (∃ t : State, exec (.brdHotN true) s = .next t.settle ∧ t.power.boardHot = true ∧ t.power.tripping = true) ∧
    exec (.brdHotN false) s = .next (s.setPower { s.power with boardHot := false }).settle ∧
    (s.power.transit = false → ∃ t : State, exec .die0PowerLoss s = .next t.settle ∧ t.power.transit = true ∧
      t.fab.up.getLsbD 6 = false ∧ t.fab.up.getLsbD 7 = false ∧ t.tick.run = false ∧
      (∀ f ∈ lostWithDie0, t.fenced f = true) ∧ (s.job.state ≠ .none → t.job.state = .held)) ∧
    exec .refLost s = .next (s.setPower { s.power with
      refLost := true, refEvent := true, refFresh := (s.cc, true, s.freshRefs.2) }).settle ∧
    (s.power.refLost = true → ∃ t : State, exec .refReturn s = .next t.settle ∧ t.power.refLost = false ∧ sameBut [.power, .free] s t) ∧
    (∃ t : State, exec (.brefLost d) s = .next t.pump.settle ∧ t.power.brefLost = s.power.brefLost ||| BitVec.twoPow 4 d ∧
      t.power.brefEvent = s.power.brefEvent ||| BitVec.twoPow 4 d ∧ ∀ q ∈ portsOf d, t.fab.up.getLsbD q = false)

/-! ### Boot, recovery and the test port -/

/-- R552 to R556, R560 to R562, R586, R588, R596: a reset pulse of 1 µs starts boot again and keeps what is kept; a stage of boot ends with what
the hardware reports; boot that takes too long is reset with code 11; Ranger's watchdog ends its sessions alone; ROM recovery takes an
image in order; and the instructions of the test port select its registers.
It rests also on the model's own choices: logs 72, 73, 101. -/
def Obligations.BootAndTestPort : Prop :=
  ∀ (s : State) (ns : Nat) (r : BootReport) (total : BitVec 64) (off : BitVec 32) (len : BitVec 16) (data : List Byte) (scan : List Bool),
    (1000 ≤ ns → ∃ t : State, exec (.sysRstN ns) s = .next t.settle ∧ t.clk = State.reset.clk ∧ t.fence = State.reset.fence ∧
      t.job = State.reset.job ∧ t.tick = State.reset.tick ∧ t.fab = State.reset.fab ∧ t.host = State.reset.host ∧ t.sram = s.sram ∧
      t.hbm = s.hbm ∧ t.sec.fuses = s.sec.fuses ∧ t.sec.ownerRoot = s.sec.ownerRoot ∧ t.power.thermTrip = s.power.thermTrip ∧
      (∀ k, (t.stack k).retired = (s.stack k).retired) ∧ t.und.content = s.und.content ∧ t.pending = s.pending) ∧
    (ns < 1000 → exec (.sysRstN ns) s = .next s.settle) ∧
    (s.host.bootState = 0 →
      exec (.bootStageDone r) s = .next ((s.passStage s.sec.bootNow).stageWork s.sec.bootNow r).settle ∧
      (s.sec.bootNow = 2 → r.railsOk = true → r.fusesOk = true → r.keyOk = true → ∃ t : State,
        exec (.bootStageDone r) s = .next t.settle ∧ t.sram = [] ∧ t.power.rails = BitVec.allOnes 33 ∧ t.sec.bootNow = 3 ∧
        t.host.bootStage = 2 ∧ t.host.serial = s.sec.fuses.serial) ∧
      (s.sec.bootNow = 8 → ∃ t : State, exec (.bootStageDone r) s = .next t.settle ∧ t.host.bootState = 1 ∧
        t.host.irqStatus.getLsbD 33 = true) ∧
      ∃ t : State, exec .bootWatchdog s = .next t.settle ∧ t.sec.bootFail = 11 ∧ t.sec.bootNow = 0 ∧ t.job = State.reset.job) ∧
    (s.rangerRuns = true → s.fence.queue = [] → ∃ t : State, exec .rangerWatchdog s = .next t.settle ∧ t.sec.sessions = [] ∧
      t.sec.spdm = [] ∧ t.sec.ownerRoot = s.sec.ownerRoot ∧ sameBut [.sec, .ranger] s t) ∧
    (s.sec.recovering = true →
      (4096 ≤ total.toNat → total.toNat ≤ 0x800000 → ∃ t : State, exec (.recoveryBegin total) s = .next t.settle ∧
        t.sec.recovery = some { total := total.toNat, received := 0 } ∧ sameBut [.sec, .tx] s t) ∧
      (∀ u, s.sec.recovery = some u → off.toNat = u.received → u.last ≠ some (off.toNat, byteField data 0 len.toNat) →
        0 < len.toNat → len.toNat ≤ 1024 → off.toNat + len.toNat ≤ u.total → (len.toNat = 1024 ∨ off.toNat + len.toNat = u.total) →
        ∃ t : State, exec (.recoveryPiece off len data) s = .next t.settle ∧ t.sec.recovery = some { u with
          received := u.received + len.toNat, last := some (off.toNat, byteField data 0 len.toNat)
          data := u.data ++ byteField data 0 len.toNat } ∧ sameBut [.sec, .tx] s t) ∧
      (∀ u, s.sec.recovery = some u → u.total ≤ u.received → exec .recoveryEnd s = .next
        (match fwCheck s.sec.fuses 1 u.data with
          | some c => s.recoveryAnswer 3 4 c
          | none => ((s.recoveryAnswer 3 0 0).setSec (s.sec.setImage 1 0 u.data)).deviceReset true).settle) ∧
      exec .recoveryStatus s = .next (s.recoveryAnswer 4 0 0).settle) ∧
    exec .bypass s = .next ((s.setJtag { s.jtag with instr := .bypass, driven := false, floating := false }).send (.tdo [false])).settle ∧
    exec .idcode s =
      .next ((s.setJtag { s.jtag with instr := .idcode, driven := false, floating := false }).send (.tdo (bitList 32 s.idcode))).settle ∧
    (∃ t : State, exec (.samplePreload scan) s = .next t.settle ∧ t.jtag.boundary = scan ∧ t.jtag.instr = .sample ∧
      sameBut [.jtag, .tx] s t) ∧
    exec .extest s = .next (s.setJtag { s.jtag with instr := .extest, driven := true, floating := false }).settle ∧
    exec .clamp s = .next (s.setJtag { s.jtag with instr := .clamp, driven := true, floating := false }).settle ∧
    exec .highz s = .next (s.setJtag { s.jtag with instr := .highz, driven := false, floating := true }).settle

/-! ### Management -/

/-- R547 to R549, R561, R568, R569, R571, R572, R594, R595, R600: while Ranger's firmware runs: a management access of a requester that may act
is made and answered, and one of another is not permitted; `PWR_CFG` and `THERM_CFG` are written as any register; the first owner root is
set by the board management controller outside a session, a later one inside a session under the current root; a message of the fabric
manager of which a packet fails its checks does nothing more; reports are acknowledged and sent again; sensors are read; the time is asked
for, and a reply that matches is taken. The bus owner sets the endpoint ID and the target's address.
It rests also on the model's own choices: logs 76 to 78. -/
def Obligations.ManagementIsAnswered : Prop :=
  ∀ (s : State) (req : Requester) (sess : Option (Fin 4)) (off : BitVec 32) (width eid : BitVec 8) (v : BitVec 64) (th rnum : BitVec 32)
    (src id : BitVec 16) (addr : BitVec 7) (body packet hash : List Byte) (fabric : Bool) (cs : List Pkt),
    (∀ t, t = s.messageArrives req cs → s.messageWhole req cs → t.rangerRuns = true →
      (t.mgmtStop req sess off.toNat width.toNat = none →
        exec (.mgmtRead req ⟨sess, cs⟩ off width) s = .next ((t.readSpan req off.toNat width.toNat).1.mgmtAnswer req 0
          (leNat (t.readSpan req off.toNat width.toNat).2)).settle ∧
        (t.defined off.toNat = true → exec (.mgmtWrite req ⟨sess, cs⟩ off width v) s =
          .next ((t.writeSpan req off.toNat width.toNat v.toNat).1.mgmtAnswer req
            (if (t.writeSpan req off.toNat width.toNat v.toNat).2 = true then 0 else 1) 0).settle)) ∧
      (∀ st, t.mgmtStop req sess off.toNat width.toNat = some st →
        exec (.mgmtRead req ⟨sess, cs⟩ off width) s = .next (t.mgmtAnswer req st 0).settle ∧
        exec (.mgmtWrite req ⟨sess, cs⟩ off width v) s = .next (t.mgmtAnswer req st 0).settle) ∧
      (t.mayManage req sess = false →
        t.mgmtStop req sess off.toNat width.toNat = some 1 ∧
        exec (.pwrCfgWrite req ⟨sess, cs⟩ v) s = .next (t.mgmtAnswer req 1 0).settle ∧
        exec (.thermCfgWrite req ⟨sess, cs⟩ th) s = .next (t.mgmtAnswer req 1 0).settle) ∧
      (t.mayManage req sess = true →
        exec (.pwrCfgWrite req ⟨sess, cs⟩ v) s = .next ((t.writeSpan req 0x50000 8 v.toNat).1.mgmtAnswer req
          (if (t.writeSpan req 0x50000 8 v.toNat).2 = true then 0 else 1) 0).settle ∧
        exec (.thermCfgWrite req ⟨sess, cs⟩ th) s = .next ((t.writeSpan req 0x50028 4 th.toNat).1.mgmtAnswer req
          (if (t.writeSpan req 0x50028 4 th.toNat).2 = true then 0 else 1) 0).settle) ∧
      (((t.sec.ownerRoot = none ∧ req = .bmc ∧ sess = none) ∨ (t.sec.ownerRoot ≠ none ∧ req ≠ .ranger ∧ t.mayManage req sess = true)) →
        exec (.setOwnerRoot req ⟨sess, cs⟩ hash) s =
          .next ((t.setSec { t.sec with ownerRoot := some (byteField hash 0 64) }).mgmtAnswer req 0 0).settle)) ∧
    (req = .fabMgr → (cs = [] ∨ cs.all s.takesMgmt = false) → ∀ i ∈ [Instr.mgmtRead req ⟨sess, cs⟩ off width,
        .mgmtWrite req ⟨sess, cs⟩ off width v, .pwrCfgWrite req ⟨sess, cs⟩ v, .thermCfgWrite req ⟨sess, cs⟩ th, .setOwnerRoot req ⟨sess, cs⟩ hash],
      exec i s = .next (s.messageArrives req cs).settle) ∧
    (s.rangerRuns = true →
      (src ≠ 0 → s.fab.mgr.contains src = true → exec (.reportAck src rnum) s =
        .next (s.setRanger { s.ranger with reports := s.ranger.reports.filter (fun r => r.rnum ≠ rnum.toNat) }).settle) ∧
      (∀ r, s.ranger.reports.find? (fun r => r.rnum = rnum.toNat) = some r → max s.cc (r.lastCc + 120000000) ≤ r.firstCc + 12000000000 →
        ∃ t : State, exec (.reportResend rnum) s = .next (t.sendReport r.body).settle ∧ t.cc = max s.cc (r.lastCc + 120000000) ∧
          t.ranger.reports = s.ranger.reports.map (fun x => if x.rnum = rnum.toNat then { x with lastCc := t.cc } else x)) ∧
      (∀ x, s.sensor id.toNat = some x → exec (.getSensorReading id) s =
        .next (s.send (.i3c 1 (leBytes 1 0x11 ++ leBytes 1 0 ++ leBytes 8 x))).settle) ∧
      exec .timePollRequest s = .next (s.placeRequest).settle ∧
      (timeBodyOk 1 body = true →
        (∀ q, s.sec.timeRequest = some q →
          exec (.poll body) s = .next ((s.timeAnswer 1 0 1 (s.stampRequest q)).requestLeaves q).settle) ∧
        (s.sec.timeRequest = none → exec (.poll body) s = .next (s.timeAnswer 1 0 0 []).settle)) ∧
      (timeBodyOk 2 body = true → field (byteField body 8 48) 0 1 % 8 = 4 → s.replyMatches (byteField body 8 48) = true →
        exec (.reply body) s = .next ((s.acceptReply (byteField body 8 48)).timeAnswer 2 0 0 []).settle) ∧
      (s.sec.timePath = (if fabric = true then 2 else 1) → field packet 0 1 % 8 = 4 → s.replyMatches packet = true →
        ∃ t : State, exec (.timeServerReply fabric packet) s = .next t.settle ∧ t.sec.timeSent = none ∧ t.sec.syncedAt = some s.cc ∧
          sameBut [.clk, .sec, .ranger] s t)) ∧
    (s.power.transit = false →
      (eid ≠ 0 → eid ≠ 0xFF → ∃ t : State, exec (.setEndpointId eid) s = .next t.settle ∧ t.sec.eid = eid ∧ sameBut [.sec, .tx] s t) ∧
      ∃ t : State, exec (.entdaa addr) s = .next t.settle ∧ t.sec.i3cAddr = addr ∧ sameBut [.sec, .tx] s t)

/-- R564 to R568, R576: the SPDM responder while Ranger's firmware runs, its engine signs for no other transport and the connection is far
enough: each request, with its parameters in range, has its response.
It rests also on the model's own choices: logs 74, 75. -/
def Obligations.SpdmIsAnswered : Prop :=
  ∀ (s : State) (t : Transport) (a b c e m g last : Bool) (slot index handle : BitVec 8) (off len sid seqNo : BitVec 16)
    (nonce data root : List Byte) (k : Fin 4), s.rangerRuns = true → s.sec.signing.any (fun g => g.1 ≠ t && s.cc < g.2) = false →
    (exec (.getVersion t) s = .next (s.versionSpdm t).settle ∧ (s.versionSpdm t).connection t = 1 ∧
      ∀ p ∈ (s.versionSpdm t).sec.sessions, p.2.transport ≠ t) ∧
    (1 ≤ s.connection t → exec (.getCapabilities t) s = .next (s.capabilities t).settle ∧ (s.capabilities t).connection t = 2) ∧
    (2 ≤ s.connection t → exec (.negotiateAlgorithms t a b c e) s = .next (s.negotiate t a b c e).settle ∧
      (s.negotiate t a b c e).connection t = 3) ∧
    (s.connection t < 3 → ∀ i ∈ [Instr.getDigests t, .getCertificate t slot off len, .challenge t slot nonce,
        .getMeasurements t index g nonce, .keyExchange t sid, .finish t k m g root, .heartbeat t k, .keyUpdate t k, .endSession t k,
        .vendorDefinedRequest t none data, .chunkGet t handle seqNo, .chunkSend t handle seqNo last data],
      exec i s = .next (s.spdmError t 4).settle) ∧
    (3 ≤ s.connection t →
      exec (.getDigests t) s = .next (s.respond t 0x01 (leBytes 1 1 ++ sha512 certChain)).settle ∧
      (slot = 0 → off.toNat ≤ certChain.length → ∃ part, part = (certChain.drop off.toNat).take len.toNat ∧
        exec (.getCertificate t slot off len) s = .next (s.respond t 0x02
          (leBytes 2 part.length ++ leBytes 2 (certChain.length - off.toNat - part.length) ++ part)).settle) ∧
      (slot = 0 → s.hasAlgorithms t 3 = true → exec (.challenge t slot nonce) s =
        .next ((s.respondSigned t 0x03 (leBytes 1 1 ++ sha512 certChain ++ s.nonce) nonce).spend).settle) ∧
      (1 ≤ index.toNat → index.toNat ≤ 7 → exec (.getMeasurements t index false nonce) s =
        .next (s.respond t 0x60 (leBytes 1 1 ++ s.measurement index.toNat)).settle) ∧
      (∀ j, s.hasAlgorithms t 15 = true → ([0, 1, 2, 3] : List Nat).find? (fun j => (Tab.find j s.sec.sessions).isNone) = some j →
        ∃ u : State, u = s.setSec { s.sec with sessions := Tab.put j { transport := t } s.sec.sessions } ∧
          exec (.keyExchange t sid) s =
            .next ((u.respondSigned t 0x64 (leBytes 2 j ++ leBytes 1 1 ++ u.nonce) (leBytes 2 sid.toNat)).spend).settle) ∧
      (∀ x, s.sessionOf t k = some x →
        (x.established = false → exec (.finish t k true true root) s = .next ((s.setSec { s.sec with
          sessions := Tab.put k.val { x with established := true, root := sha512 root } s.sec.sessions }).respond t 0x65 []).settle) ∧
        (x.established = true →
          exec (.heartbeat t k) s = .next (s.respond t 0x68 []).settle ∧
          exec (.keyUpdate t k) s = .next ((s.setSec { s.sec with
            sessions := Tab.put k.val { x with key := x.key + 1 } s.sec.sessions }).respond t 0x69 []).settle ∧
          exec (.endSession t k) s = .next ((s.respond t 0x6C []).dropSession k).settle ∧
          exec (.vendorDefinedRequest t (some k) data) s = .next (s.respond t 0x7E (Config.vendorReply data)).settle)) ∧
      exec (.vendorDefinedRequest t none data) s = .next (s.respond t 0x7E (Config.vendorReply data)).settle ∧
      (∀ o, s.sec.largeOut = some o → handle.toNat = o.handle → seqNo.toNat = o.next →
        ∃ part final, part = (o.data.drop (4064 * seqNo.toNat)).take 4064 ∧
          final = decide (4064 * (seqNo.toNat + 1) ≥ o.data.length) ∧
          exec (.chunkGet t handle seqNo) s = .next ((s.setSec { s.sec with
            largeOut := if final = true then none else some { o with next := seqNo.toNat + 1 } }).send
              (.spdm t 0x06 (leBytes 1 (b2n final) ++ leBytes 1 handle.toNat ++ leBytes 2 seqNo.toNat ++ leBytes 4 part.length ++ part))).settle) ∧
      exec (.chunkSend t handle 0 false data) s = .next ((s.setSec { s.sec with
        largeIn := some { handle := handle.toNat, next := 1, data := data } }).send
          (.spdm t 0x05 (leBytes 1 handle.toNat ++ leBytes 2 0))).settle)
end

