-- ==== Sys2Proof/Laws/State.lean ====
section
/-! SUPPORT. What each named update of the state does to each member of it: one lemma per member, true by unfolding. -/

namespace Sys2Proof.Machine

@[simp] theorem State.setCluster_clk (s : State) (n : Nat) (c : Cluster) : (s.setCluster n c).clk = s.clk := rfl
@[simp] theorem State.setCluster_sram (s : State) (n : Nat) (c : Cluster) : (s.setCluster n c).sram = s.sram := rfl
@[simp] theorem State.setCluster_hbm (s : State) (n : Nat) (c : Cluster) : (s.setCluster n c).hbm = s.hbm := rfl
@[simp] theorem State.setCluster_clusters (s : State) (n : Nat) (c : Cluster) : (s.setCluster n c).clusters = Tab.put n c s.clusters := rfl
@[simp] theorem State.setCluster_seqs (s : State) (n : Nat) (c : Cluster) : (s.setCluster n c).seqs = s.seqs := rfl
@[simp] theorem State.setCluster_tick (s : State) (n : Nat) (c : Cluster) : (s.setCluster n c).tick = s.tick := rfl
@[simp] theorem State.setCluster_job (s : State) (n : Nat) (c : Cluster) : (s.setCluster n c).job = s.job := rfl
@[simp] theorem State.setCluster_host (s : State) (n : Nat) (c : Cluster) : (s.setCluster n c).host = s.host := rfl
@[simp] theorem State.setCluster_fence (s : State) (n : Nat) (c : Cluster) : (s.setCluster n c).fence = s.fence := rfl
@[simp] theorem State.setCluster_hbmStacks (s : State) (n : Nat) (c : Cluster) : (s.setCluster n c).hbmStacks = s.hbmStacks := rfl
@[simp] theorem State.setCluster_parts (s : State) (n : Nat) (c : Cluster) : (s.setCluster n c).parts = s.parts := rfl
@[simp] theorem State.setCluster_und (s : State) (n : Nat) (c : Cluster) : (s.setCluster n c).und = s.und := rfl
@[simp] theorem State.setCluster_sill (s : State) (n : Nat) (c : Cluster) : (s.setCluster n c).sill = s.sill := rfl
@[simp] theorem State.setCluster_copies (s : State) (n : Nat) (c : Cluster) : (s.setCluster n c).copies = s.copies := rfl
@[simp] theorem State.setCluster_fab (s : State) (n : Nat) (c : Cluster) : (s.setCluster n c).fab = s.fab := rfl
@[simp] theorem State.setCluster_coll (s : State) (n : Nat) (c : Cluster) : (s.setCluster n c).coll = s.coll := rfl
@[simp] theorem State.setCluster_seed (s : State) (n : Nat) (c : Cluster) : (s.setCluster n c).seed = s.seed := rfl
@[simp] theorem State.setCluster_power (s : State) (n : Nat) (c : Cluster) : (s.setCluster n c).power = s.power := rfl
@[simp] theorem State.setCluster_ranger (s : State) (n : Nat) (c : Cluster) : (s.setCluster n c).ranger = s.ranger := rfl
@[simp] theorem State.setCluster_sec (s : State) (n : Nat) (c : Cluster) : (s.setCluster n c).sec = s.sec := rfl
@[simp] theorem State.setCluster_jtag (s : State) (n : Nat) (c : Cluster) : (s.setCluster n c).jtag = s.jtag := rfl
@[simp] theorem State.setCluster_ctr (s : State) (n : Nat) (c : Cluster) : (s.setCluster n c).ctr = s.ctr := rfl
@[simp] theorem State.setCluster_free (s : State) (n : Nat) (c : Cluster) : (s.setCluster n c).free = s.free := rfl
@[simp] theorem State.setCluster_tx (s : State) (n : Nat) (c : Cluster) : (s.setCluster n c).tx = s.tx := rfl
@[simp] theorem State.setCluster_landed (s : State) (n : Nat) (c : Cluster) : (s.setCluster n c).landed = s.landed := rfl
@[simp] theorem State.setCluster_pending (s : State) (n : Nat) (c : Cluster) : (s.setCluster n c).pending = s.pending := rfl

@[simp] theorem State.setSeq_clk (s : State) (d : Nat) (q : Seq) : (s.setSeq d q).clk = s.clk := rfl
@[simp] theorem State.setSeq_sram (s : State) (d : Nat) (q : Seq) : (s.setSeq d q).sram = s.sram := rfl
@[simp] theorem State.setSeq_hbm (s : State) (d : Nat) (q : Seq) : (s.setSeq d q).hbm = s.hbm := rfl
@[simp] theorem State.setSeq_clusters (s : State) (d : Nat) (q : Seq) : (s.setSeq d q).clusters = s.clusters := rfl
@[simp] theorem State.setSeq_seqs (s : State) (d : Nat) (q : Seq) : (s.setSeq d q).seqs = Tab.put d q s.seqs := rfl
@[simp] theorem State.setSeq_tick (s : State) (d : Nat) (q : Seq) : (s.setSeq d q).tick = s.tick := rfl
@[simp] theorem State.setSeq_job (s : State) (d : Nat) (q : Seq) : (s.setSeq d q).job = s.job := rfl
@[simp] theorem State.setSeq_host (s : State) (d : Nat) (q : Seq) : (s.setSeq d q).host = s.host := rfl
@[simp] theorem State.setSeq_fence (s : State) (d : Nat) (q : Seq) : (s.setSeq d q).fence = s.fence := rfl
@[simp] theorem State.setSeq_hbmStacks (s : State) (d : Nat) (q : Seq) : (s.setSeq d q).hbmStacks = s.hbmStacks := rfl
@[simp] theorem State.setSeq_parts (s : State) (d : Nat) (q : Seq) : (s.setSeq d q).parts = s.parts := rfl
@[simp] theorem State.setSeq_und (s : State) (d : Nat) (q : Seq) : (s.setSeq d q).und = s.und := rfl
@[simp] theorem State.setSeq_sill (s : State) (d : Nat) (q : Seq) : (s.setSeq d q).sill = s.sill := rfl
@[simp] theorem State.setSeq_copies (s : State) (d : Nat) (q : Seq) : (s.setSeq d q).copies = s.copies := rfl
@[simp] theorem State.setSeq_fab (s : State) (d : Nat) (q : Seq) : (s.setSeq d q).fab = s.fab := rfl
@[simp] theorem State.setSeq_coll (s : State) (d : Nat) (q : Seq) : (s.setSeq d q).coll = s.coll := rfl
@[simp] theorem State.setSeq_seed (s : State) (d : Nat) (q : Seq) : (s.setSeq d q).seed = s.seed := rfl
@[simp] theorem State.setSeq_power (s : State) (d : Nat) (q : Seq) : (s.setSeq d q).power = s.power := rfl
@[simp] theorem State.setSeq_ranger (s : State) (d : Nat) (q : Seq) : (s.setSeq d q).ranger = s.ranger := rfl
@[simp] theorem State.setSeq_sec (s : State) (d : Nat) (q : Seq) : (s.setSeq d q).sec = s.sec := rfl
@[simp] theorem State.setSeq_jtag (s : State) (d : Nat) (q : Seq) : (s.setSeq d q).jtag = s.jtag := rfl
@[simp] theorem State.setSeq_ctr (s : State) (d : Nat) (q : Seq) : (s.setSeq d q).ctr = s.ctr := rfl
@[simp] theorem State.setSeq_free (s : State) (d : Nat) (q : Seq) : (s.setSeq d q).free = s.free := rfl
@[simp] theorem State.setSeq_tx (s : State) (d : Nat) (q : Seq) : (s.setSeq d q).tx = s.tx := rfl
@[simp] theorem State.setSeq_landed (s : State) (d : Nat) (q : Seq) : (s.setSeq d q).landed = s.landed := rfl
@[simp] theorem State.setSeq_pending (s : State) (d : Nat) (q : Seq) : (s.setSeq d q).pending = s.pending := rfl

@[simp] theorem State.setJob_clk (s : State) (j : Job) : (s.setJob j).clk = s.clk := rfl
@[simp] theorem State.setJob_sram (s : State) (j : Job) : (s.setJob j).sram = s.sram := rfl
@[simp] theorem State.setJob_hbm (s : State) (j : Job) : (s.setJob j).hbm = s.hbm := rfl
@[simp] theorem State.setJob_clusters (s : State) (j : Job) : (s.setJob j).clusters = s.clusters := rfl
@[simp] theorem State.setJob_seqs (s : State) (j : Job) : (s.setJob j).seqs = s.seqs := rfl
@[simp] theorem State.setJob_tick (s : State) (j : Job) : (s.setJob j).tick = s.tick := rfl
@[simp] theorem State.setJob_job (s : State) (j : Job) : (s.setJob j).job = j := rfl
@[simp] theorem State.setJob_host (s : State) (j : Job) : (s.setJob j).host = s.host := rfl
@[simp] theorem State.setJob_fence (s : State) (j : Job) : (s.setJob j).fence = s.fence := rfl
@[simp] theorem State.setJob_hbmStacks (s : State) (j : Job) : (s.setJob j).hbmStacks = s.hbmStacks := rfl
@[simp] theorem State.setJob_parts (s : State) (j : Job) : (s.setJob j).parts = s.parts := rfl
@[simp] theorem State.setJob_und (s : State) (j : Job) : (s.setJob j).und = s.und := rfl
@[simp] theorem State.setJob_sill (s : State) (j : Job) : (s.setJob j).sill = s.sill := rfl
@[simp] theorem State.setJob_copies (s : State) (j : Job) : (s.setJob j).copies = s.copies := rfl
@[simp] theorem State.setJob_fab (s : State) (j : Job) : (s.setJob j).fab = s.fab := rfl
@[simp] theorem State.setJob_coll (s : State) (j : Job) : (s.setJob j).coll = s.coll := rfl
@[simp] theorem State.setJob_seed (s : State) (j : Job) : (s.setJob j).seed = s.seed := rfl
@[simp] theorem State.setJob_power (s : State) (j : Job) : (s.setJob j).power = s.power := rfl
@[simp] theorem State.setJob_ranger (s : State) (j : Job) : (s.setJob j).ranger = s.ranger := rfl
@[simp] theorem State.setJob_sec (s : State) (j : Job) : (s.setJob j).sec = s.sec := rfl
@[simp] theorem State.setJob_jtag (s : State) (j : Job) : (s.setJob j).jtag = s.jtag := rfl
@[simp] theorem State.setJob_ctr (s : State) (j : Job) : (s.setJob j).ctr = s.ctr := rfl
@[simp] theorem State.setJob_free (s : State) (j : Job) : (s.setJob j).free = s.free := rfl
@[simp] theorem State.setJob_tx (s : State) (j : Job) : (s.setJob j).tx = s.tx := rfl
@[simp] theorem State.setJob_landed (s : State) (j : Job) : (s.setJob j).landed = s.landed := rfl
@[simp] theorem State.setJob_pending (s : State) (j : Job) : (s.setJob j).pending = s.pending := rfl

@[simp] theorem State.setTick_clk (s : State) (t : TickUnit) : (s.setTick t).clk = s.clk := rfl
@[simp] theorem State.setTick_sram (s : State) (t : TickUnit) : (s.setTick t).sram = s.sram := rfl
@[simp] theorem State.setTick_hbm (s : State) (t : TickUnit) : (s.setTick t).hbm = s.hbm := rfl
@[simp] theorem State.setTick_clusters (s : State) (t : TickUnit) : (s.setTick t).clusters = s.clusters := rfl
@[simp] theorem State.setTick_seqs (s : State) (t : TickUnit) : (s.setTick t).seqs = s.seqs := rfl
@[simp] theorem State.setTick_tick (s : State) (t : TickUnit) : (s.setTick t).tick = t := rfl
@[simp] theorem State.setTick_job (s : State) (t : TickUnit) : (s.setTick t).job = s.job := rfl
@[simp] theorem State.setTick_host (s : State) (t : TickUnit) : (s.setTick t).host = s.host := rfl
@[simp] theorem State.setTick_fence (s : State) (t : TickUnit) : (s.setTick t).fence = s.fence := rfl
@[simp] theorem State.setTick_hbmStacks (s : State) (t : TickUnit) : (s.setTick t).hbmStacks = s.hbmStacks := rfl
@[simp] theorem State.setTick_parts (s : State) (t : TickUnit) : (s.setTick t).parts = s.parts := rfl
@[simp] theorem State.setTick_und (s : State) (t : TickUnit) : (s.setTick t).und = s.und := rfl
@[simp] theorem State.setTick_sill (s : State) (t : TickUnit) : (s.setTick t).sill = s.sill := rfl
@[simp] theorem State.setTick_copies (s : State) (t : TickUnit) : (s.setTick t).copies = s.copies := rfl
@[simp] theorem State.setTick_fab (s : State) (t : TickUnit) : (s.setTick t).fab = s.fab := rfl
@[simp] theorem State.setTick_coll (s : State) (t : TickUnit) : (s.setTick t).coll = s.coll := rfl
@[simp] theorem State.setTick_seed (s : State) (t : TickUnit) : (s.setTick t).seed = s.seed := rfl
@[simp] theorem State.setTick_power (s : State) (t : TickUnit) : (s.setTick t).power = s.power := rfl
@[simp] theorem State.setTick_ranger (s : State) (t : TickUnit) : (s.setTick t).ranger = s.ranger := rfl
@[simp] theorem State.setTick_sec (s : State) (t : TickUnit) : (s.setTick t).sec = s.sec := rfl
@[simp] theorem State.setTick_jtag (s : State) (t : TickUnit) : (s.setTick t).jtag = s.jtag := rfl
@[simp] theorem State.setTick_ctr (s : State) (t : TickUnit) : (s.setTick t).ctr = s.ctr := rfl
@[simp] theorem State.setTick_free (s : State) (t : TickUnit) : (s.setTick t).free = s.free := rfl
@[simp] theorem State.setTick_tx (s : State) (t : TickUnit) : (s.setTick t).tx = s.tx := rfl
@[simp] theorem State.setTick_landed (s : State) (t : TickUnit) : (s.setTick t).landed = s.landed := rfl
@[simp] theorem State.setTick_pending (s : State) (t : TickUnit) : (s.setTick t).pending = s.pending := rfl

@[simp] theorem State.setHost_clk (s : State) (h : HostUnit) : (s.setHost h).clk = s.clk := rfl
@[simp] theorem State.setHost_sram (s : State) (h : HostUnit) : (s.setHost h).sram = s.sram := rfl
@[simp] theorem State.setHost_hbm (s : State) (h : HostUnit) : (s.setHost h).hbm = s.hbm := rfl
@[simp] theorem State.setHost_clusters (s : State) (h : HostUnit) : (s.setHost h).clusters = s.clusters := rfl
@[simp] theorem State.setHost_seqs (s : State) (h : HostUnit) : (s.setHost h).seqs = s.seqs := rfl
@[simp] theorem State.setHost_tick (s : State) (h : HostUnit) : (s.setHost h).tick = s.tick := rfl
@[simp] theorem State.setHost_job (s : State) (h : HostUnit) : (s.setHost h).job = s.job := rfl
@[simp] theorem State.setHost_host (s : State) (h : HostUnit) : (s.setHost h).host = h := rfl
@[simp] theorem State.setHost_fence (s : State) (h : HostUnit) : (s.setHost h).fence = s.fence := rfl
@[simp] theorem State.setHost_hbmStacks (s : State) (h : HostUnit) : (s.setHost h).hbmStacks = s.hbmStacks := rfl
@[simp] theorem State.setHost_parts (s : State) (h : HostUnit) : (s.setHost h).parts = s.parts := rfl
@[simp] theorem State.setHost_und (s : State) (h : HostUnit) : (s.setHost h).und = s.und := rfl
@[simp] theorem State.setHost_sill (s : State) (h : HostUnit) : (s.setHost h).sill = s.sill := rfl
@[simp] theorem State.setHost_copies (s : State) (h : HostUnit) : (s.setHost h).copies = s.copies := rfl
@[simp] theorem State.setHost_fab (s : State) (h : HostUnit) : (s.setHost h).fab = s.fab := rfl
@[simp] theorem State.setHost_coll (s : State) (h : HostUnit) : (s.setHost h).coll = s.coll := rfl
@[simp] theorem State.setHost_seed (s : State) (h : HostUnit) : (s.setHost h).seed = s.seed := rfl
@[simp] theorem State.setHost_power (s : State) (h : HostUnit) : (s.setHost h).power = s.power := rfl
@[simp] theorem State.setHost_ranger (s : State) (h : HostUnit) : (s.setHost h).ranger = s.ranger := rfl
@[simp] theorem State.setHost_sec (s : State) (h : HostUnit) : (s.setHost h).sec = s.sec := rfl
@[simp] theorem State.setHost_jtag (s : State) (h : HostUnit) : (s.setHost h).jtag = s.jtag := rfl
@[simp] theorem State.setHost_ctr (s : State) (h : HostUnit) : (s.setHost h).ctr = s.ctr := rfl
@[simp] theorem State.setHost_free (s : State) (h : HostUnit) : (s.setHost h).free = s.free := rfl
@[simp] theorem State.setHost_tx (s : State) (h : HostUnit) : (s.setHost h).tx = s.tx := rfl
@[simp] theorem State.setHost_landed (s : State) (h : HostUnit) : (s.setHost h).landed = s.landed := rfl
@[simp] theorem State.setHost_pending (s : State) (h : HostUnit) : (s.setHost h).pending = s.pending := rfl

@[simp] theorem State.setFence_clk (s : State) (f : FenceUnit) : (s.setFence f).clk = s.clk := rfl
@[simp] theorem State.setFence_sram (s : State) (f : FenceUnit) : (s.setFence f).sram = s.sram := rfl
@[simp] theorem State.setFence_hbm (s : State) (f : FenceUnit) : (s.setFence f).hbm = s.hbm := rfl
@[simp] theorem State.setFence_clusters (s : State) (f : FenceUnit) : (s.setFence f).clusters = s.clusters := rfl
@[simp] theorem State.setFence_seqs (s : State) (f : FenceUnit) : (s.setFence f).seqs = s.seqs := rfl
@[simp] theorem State.setFence_tick (s : State) (f : FenceUnit) : (s.setFence f).tick = s.tick := rfl
@[simp] theorem State.setFence_job (s : State) (f : FenceUnit) : (s.setFence f).job = s.job := rfl
@[simp] theorem State.setFence_host (s : State) (f : FenceUnit) : (s.setFence f).host = s.host := rfl
@[simp] theorem State.setFence_fence (s : State) (f : FenceUnit) : (s.setFence f).fence = f := rfl
@[simp] theorem State.setFence_hbmStacks (s : State) (f : FenceUnit) : (s.setFence f).hbmStacks = s.hbmStacks := rfl
@[simp] theorem State.setFence_parts (s : State) (f : FenceUnit) : (s.setFence f).parts = s.parts := rfl
@[simp] theorem State.setFence_und (s : State) (f : FenceUnit) : (s.setFence f).und = s.und := rfl
@[simp] theorem State.setFence_sill (s : State) (f : FenceUnit) : (s.setFence f).sill = s.sill := rfl
@[simp] theorem State.setFence_copies (s : State) (f : FenceUnit) : (s.setFence f).copies = s.copies := rfl
@[simp] theorem State.setFence_fab (s : State) (f : FenceUnit) : (s.setFence f).fab = s.fab := rfl
@[simp] theorem State.setFence_coll (s : State) (f : FenceUnit) : (s.setFence f).coll = s.coll := rfl
@[simp] theorem State.setFence_seed (s : State) (f : FenceUnit) : (s.setFence f).seed = s.seed := rfl
@[simp] theorem State.setFence_power (s : State) (f : FenceUnit) : (s.setFence f).power = s.power := rfl
@[simp] theorem State.setFence_ranger (s : State) (f : FenceUnit) : (s.setFence f).ranger = s.ranger := rfl
@[simp] theorem State.setFence_sec (s : State) (f : FenceUnit) : (s.setFence f).sec = s.sec := rfl
@[simp] theorem State.setFence_jtag (s : State) (f : FenceUnit) : (s.setFence f).jtag = s.jtag := rfl
@[simp] theorem State.setFence_ctr (s : State) (f : FenceUnit) : (s.setFence f).ctr = s.ctr := rfl
@[simp] theorem State.setFence_free (s : State) (f : FenceUnit) : (s.setFence f).free = s.free := rfl
@[simp] theorem State.setFence_tx (s : State) (f : FenceUnit) : (s.setFence f).tx = s.tx := rfl
@[simp] theorem State.setFence_landed (s : State) (f : FenceUnit) : (s.setFence f).landed = s.landed := rfl
@[simp] theorem State.setFence_pending (s : State) (f : FenceUnit) : (s.setFence f).pending = s.pending := rfl

@[simp] theorem State.setFab_clk (s : State) (f : FabricUnit) : (s.setFab f).clk = s.clk := rfl
@[simp] theorem State.setFab_sram (s : State) (f : FabricUnit) : (s.setFab f).sram = s.sram := rfl
@[simp] theorem State.setFab_hbm (s : State) (f : FabricUnit) : (s.setFab f).hbm = s.hbm := rfl
@[simp] theorem State.setFab_clusters (s : State) (f : FabricUnit) : (s.setFab f).clusters = s.clusters := rfl
@[simp] theorem State.setFab_seqs (s : State) (f : FabricUnit) : (s.setFab f).seqs = s.seqs := rfl
@[simp] theorem State.setFab_tick (s : State) (f : FabricUnit) : (s.setFab f).tick = s.tick := rfl
@[simp] theorem State.setFab_job (s : State) (f : FabricUnit) : (s.setFab f).job = s.job := rfl
@[simp] theorem State.setFab_host (s : State) (f : FabricUnit) : (s.setFab f).host = s.host := rfl
@[simp] theorem State.setFab_fence (s : State) (f : FabricUnit) : (s.setFab f).fence = s.fence := rfl
@[simp] theorem State.setFab_hbmStacks (s : State) (f : FabricUnit) : (s.setFab f).hbmStacks = s.hbmStacks := rfl
@[simp] theorem State.setFab_parts (s : State) (f : FabricUnit) : (s.setFab f).parts = s.parts := rfl
@[simp] theorem State.setFab_und (s : State) (f : FabricUnit) : (s.setFab f).und = s.und := rfl
@[simp] theorem State.setFab_sill (s : State) (f : FabricUnit) : (s.setFab f).sill = s.sill := rfl
@[simp] theorem State.setFab_copies (s : State) (f : FabricUnit) : (s.setFab f).copies = s.copies := rfl
@[simp] theorem State.setFab_fab (s : State) (f : FabricUnit) : (s.setFab f).fab = f := rfl
@[simp] theorem State.setFab_coll (s : State) (f : FabricUnit) : (s.setFab f).coll = s.coll := rfl
@[simp] theorem State.setFab_seed (s : State) (f : FabricUnit) : (s.setFab f).seed = s.seed := rfl
@[simp] theorem State.setFab_power (s : State) (f : FabricUnit) : (s.setFab f).power = s.power := rfl
@[simp] theorem State.setFab_ranger (s : State) (f : FabricUnit) : (s.setFab f).ranger = s.ranger := rfl
@[simp] theorem State.setFab_sec (s : State) (f : FabricUnit) : (s.setFab f).sec = s.sec := rfl
@[simp] theorem State.setFab_jtag (s : State) (f : FabricUnit) : (s.setFab f).jtag = s.jtag := rfl
@[simp] theorem State.setFab_ctr (s : State) (f : FabricUnit) : (s.setFab f).ctr = s.ctr := rfl
@[simp] theorem State.setFab_free (s : State) (f : FabricUnit) : (s.setFab f).free = s.free := rfl
@[simp] theorem State.setFab_tx (s : State) (f : FabricUnit) : (s.setFab f).tx = s.tx := rfl
@[simp] theorem State.setFab_landed (s : State) (f : FabricUnit) : (s.setFab f).landed = s.landed := rfl
@[simp] theorem State.setFab_pending (s : State) (f : FabricUnit) : (s.setFab f).pending = s.pending := rfl

@[simp] theorem State.setRanger_clk (s : State) (r : RangerUnit) : (s.setRanger r).clk = s.clk := rfl
@[simp] theorem State.setRanger_sram (s : State) (r : RangerUnit) : (s.setRanger r).sram = s.sram := rfl
@[simp] theorem State.setRanger_hbm (s : State) (r : RangerUnit) : (s.setRanger r).hbm = s.hbm := rfl
@[simp] theorem State.setRanger_clusters (s : State) (r : RangerUnit) : (s.setRanger r).clusters = s.clusters := rfl
@[simp] theorem State.setRanger_seqs (s : State) (r : RangerUnit) : (s.setRanger r).seqs = s.seqs := rfl
@[simp] theorem State.setRanger_tick (s : State) (r : RangerUnit) : (s.setRanger r).tick = s.tick := rfl
@[simp] theorem State.setRanger_job (s : State) (r : RangerUnit) : (s.setRanger r).job = s.job := rfl
@[simp] theorem State.setRanger_host (s : State) (r : RangerUnit) : (s.setRanger r).host = s.host := rfl
@[simp] theorem State.setRanger_fence (s : State) (r : RangerUnit) : (s.setRanger r).fence = s.fence := rfl
@[simp] theorem State.setRanger_hbmStacks (s : State) (r : RangerUnit) : (s.setRanger r).hbmStacks = s.hbmStacks := rfl
@[simp] theorem State.setRanger_parts (s : State) (r : RangerUnit) : (s.setRanger r).parts = s.parts := rfl
@[simp] theorem State.setRanger_und (s : State) (r : RangerUnit) : (s.setRanger r).und = s.und := rfl
@[simp] theorem State.setRanger_sill (s : State) (r : RangerUnit) : (s.setRanger r).sill = s.sill := rfl
@[simp] theorem State.setRanger_copies (s : State) (r : RangerUnit) : (s.setRanger r).copies = s.copies := rfl
@[simp] theorem State.setRanger_fab (s : State) (r : RangerUnit) : (s.setRanger r).fab = s.fab := rfl
@[simp] theorem State.setRanger_coll (s : State) (r : RangerUnit) : (s.setRanger r).coll = s.coll := rfl
@[simp] theorem State.setRanger_seed (s : State) (r : RangerUnit) : (s.setRanger r).seed = s.seed := rfl
@[simp] theorem State.setRanger_power (s : State) (r : RangerUnit) : (s.setRanger r).power = s.power := rfl
@[simp] theorem State.setRanger_ranger (s : State) (r : RangerUnit) : (s.setRanger r).ranger = r := rfl
@[simp] theorem State.setRanger_sec (s : State) (r : RangerUnit) : (s.setRanger r).sec = s.sec := rfl
@[simp] theorem State.setRanger_jtag (s : State) (r : RangerUnit) : (s.setRanger r).jtag = s.jtag := rfl
@[simp] theorem State.setRanger_ctr (s : State) (r : RangerUnit) : (s.setRanger r).ctr = s.ctr := rfl
@[simp] theorem State.setRanger_free (s : State) (r : RangerUnit) : (s.setRanger r).free = s.free := rfl
@[simp] theorem State.setRanger_tx (s : State) (r : RangerUnit) : (s.setRanger r).tx = s.tx := rfl
@[simp] theorem State.setRanger_landed (s : State) (r : RangerUnit) : (s.setRanger r).landed = s.landed := rfl
@[simp] theorem State.setRanger_pending (s : State) (r : RangerUnit) : (s.setRanger r).pending = s.pending := rfl

@[simp] theorem State.setSram_clk (s : State) (m : List Host.Cell) : (s.setSram m).clk = s.clk := rfl
@[simp] theorem State.setSram_sram (s : State) (m : List Host.Cell) : (s.setSram m).sram = m := rfl
@[simp] theorem State.setSram_hbm (s : State) (m : List Host.Cell) : (s.setSram m).hbm = s.hbm := rfl
@[simp] theorem State.setSram_clusters (s : State) (m : List Host.Cell) : (s.setSram m).clusters = s.clusters := rfl
@[simp] theorem State.setSram_seqs (s : State) (m : List Host.Cell) : (s.setSram m).seqs = s.seqs := rfl
@[simp] theorem State.setSram_tick (s : State) (m : List Host.Cell) : (s.setSram m).tick = s.tick := rfl
@[simp] theorem State.setSram_job (s : State) (m : List Host.Cell) : (s.setSram m).job = s.job := rfl
@[simp] theorem State.setSram_host (s : State) (m : List Host.Cell) : (s.setSram m).host = s.host := rfl
@[simp] theorem State.setSram_fence (s : State) (m : List Host.Cell) : (s.setSram m).fence = s.fence := rfl
@[simp] theorem State.setSram_hbmStacks (s : State) (m : List Host.Cell) : (s.setSram m).hbmStacks = s.hbmStacks := rfl
@[simp] theorem State.setSram_parts (s : State) (m : List Host.Cell) : (s.setSram m).parts = s.parts := rfl
@[simp] theorem State.setSram_und (s : State) (m : List Host.Cell) : (s.setSram m).und = s.und := rfl
@[simp] theorem State.setSram_sill (s : State) (m : List Host.Cell) : (s.setSram m).sill = s.sill := rfl
@[simp] theorem State.setSram_copies (s : State) (m : List Host.Cell) : (s.setSram m).copies = s.copies := rfl
@[simp] theorem State.setSram_fab (s : State) (m : List Host.Cell) : (s.setSram m).fab = s.fab := rfl
@[simp] theorem State.setSram_coll (s : State) (m : List Host.Cell) : (s.setSram m).coll = s.coll := rfl
@[simp] theorem State.setSram_seed (s : State) (m : List Host.Cell) : (s.setSram m).seed = s.seed := rfl
@[simp] theorem State.setSram_power (s : State) (m : List Host.Cell) : (s.setSram m).power = s.power := rfl
@[simp] theorem State.setSram_ranger (s : State) (m : List Host.Cell) : (s.setSram m).ranger = s.ranger := rfl
@[simp] theorem State.setSram_sec (s : State) (m : List Host.Cell) : (s.setSram m).sec = s.sec := rfl
@[simp] theorem State.setSram_jtag (s : State) (m : List Host.Cell) : (s.setSram m).jtag = s.jtag := rfl
@[simp] theorem State.setSram_ctr (s : State) (m : List Host.Cell) : (s.setSram m).ctr = s.ctr := rfl
@[simp] theorem State.setSram_free (s : State) (m : List Host.Cell) : (s.setSram m).free = s.free := rfl
@[simp] theorem State.setSram_tx (s : State) (m : List Host.Cell) : (s.setSram m).tx = s.tx := rfl
@[simp] theorem State.setSram_landed (s : State) (m : List Host.Cell) : (s.setSram m).landed = s.landed := rfl
@[simp] theorem State.setSram_pending (s : State) (m : List Host.Cell) : (s.setSram m).pending = s.pending := rfl

@[simp] theorem State.setHbm_clk (s : State) (m : List Host.Cell) : (s.setHbm m).clk = s.clk := rfl
@[simp] theorem State.setHbm_sram (s : State) (m : List Host.Cell) : (s.setHbm m).sram = s.sram := rfl
@[simp] theorem State.setHbm_hbm (s : State) (m : List Host.Cell) : (s.setHbm m).hbm = m := rfl
@[simp] theorem State.setHbm_clusters (s : State) (m : List Host.Cell) : (s.setHbm m).clusters = s.clusters := rfl
@[simp] theorem State.setHbm_seqs (s : State) (m : List Host.Cell) : (s.setHbm m).seqs = s.seqs := rfl
@[simp] theorem State.setHbm_tick (s : State) (m : List Host.Cell) : (s.setHbm m).tick = s.tick := rfl
@[simp] theorem State.setHbm_job (s : State) (m : List Host.Cell) : (s.setHbm m).job = s.job := rfl
@[simp] theorem State.setHbm_host (s : State) (m : List Host.Cell) : (s.setHbm m).host = s.host := rfl
@[simp] theorem State.setHbm_fence (s : State) (m : List Host.Cell) : (s.setHbm m).fence = s.fence := rfl
@[simp] theorem State.setHbm_hbmStacks (s : State) (m : List Host.Cell) : (s.setHbm m).hbmStacks = s.hbmStacks := rfl
@[simp] theorem State.setHbm_parts (s : State) (m : List Host.Cell) : (s.setHbm m).parts = s.parts := rfl
@[simp] theorem State.setHbm_und (s : State) (m : List Host.Cell) : (s.setHbm m).und = s.und := rfl
@[simp] theorem State.setHbm_sill (s : State) (m : List Host.Cell) : (s.setHbm m).sill = s.sill := rfl
@[simp] theorem State.setHbm_copies (s : State) (m : List Host.Cell) : (s.setHbm m).copies = s.copies := rfl
@[simp] theorem State.setHbm_fab (s : State) (m : List Host.Cell) : (s.setHbm m).fab = s.fab := rfl
@[simp] theorem State.setHbm_coll (s : State) (m : List Host.Cell) : (s.setHbm m).coll = s.coll := rfl
@[simp] theorem State.setHbm_seed (s : State) (m : List Host.Cell) : (s.setHbm m).seed = s.seed := rfl
@[simp] theorem State.setHbm_power (s : State) (m : List Host.Cell) : (s.setHbm m).power = s.power := rfl
@[simp] theorem State.setHbm_ranger (s : State) (m : List Host.Cell) : (s.setHbm m).ranger = s.ranger := rfl
@[simp] theorem State.setHbm_sec (s : State) (m : List Host.Cell) : (s.setHbm m).sec = s.sec := rfl
@[simp] theorem State.setHbm_jtag (s : State) (m : List Host.Cell) : (s.setHbm m).jtag = s.jtag := rfl
@[simp] theorem State.setHbm_ctr (s : State) (m : List Host.Cell) : (s.setHbm m).ctr = s.ctr := rfl
@[simp] theorem State.setHbm_free (s : State) (m : List Host.Cell) : (s.setHbm m).free = s.free := rfl
@[simp] theorem State.setHbm_tx (s : State) (m : List Host.Cell) : (s.setHbm m).tx = s.tx := rfl
@[simp] theorem State.setHbm_landed (s : State) (m : List Host.Cell) : (s.setHbm m).landed = s.landed := rfl
@[simp] theorem State.setHbm_pending (s : State) (m : List Host.Cell) : (s.setHbm m).pending = s.pending := rfl

@[simp] theorem State.send_clk (s : State) (o : Out) : (s.send o).clk = s.clk := rfl
@[simp] theorem State.send_sram (s : State) (o : Out) : (s.send o).sram = s.sram := rfl
@[simp] theorem State.send_hbm (s : State) (o : Out) : (s.send o).hbm = s.hbm := rfl
@[simp] theorem State.send_clusters (s : State) (o : Out) : (s.send o).clusters = s.clusters := rfl
@[simp] theorem State.send_seqs (s : State) (o : Out) : (s.send o).seqs = s.seqs := rfl
@[simp] theorem State.send_tick (s : State) (o : Out) : (s.send o).tick = s.tick := rfl
@[simp] theorem State.send_job (s : State) (o : Out) : (s.send o).job = s.job := rfl
@[simp] theorem State.send_host (s : State) (o : Out) : (s.send o).host = s.host := rfl
@[simp] theorem State.send_fence (s : State) (o : Out) : (s.send o).fence = s.fence := rfl
@[simp] theorem State.send_hbmStacks (s : State) (o : Out) : (s.send o).hbmStacks = s.hbmStacks := rfl
@[simp] theorem State.send_parts (s : State) (o : Out) : (s.send o).parts = s.parts := rfl
@[simp] theorem State.send_und (s : State) (o : Out) : (s.send o).und = s.und := rfl
@[simp] theorem State.send_sill (s : State) (o : Out) : (s.send o).sill = s.sill := rfl
@[simp] theorem State.send_copies (s : State) (o : Out) : (s.send o).copies = s.copies := rfl
@[simp] theorem State.send_fab (s : State) (o : Out) : (s.send o).fab = s.fab := rfl
@[simp] theorem State.send_coll (s : State) (o : Out) : (s.send o).coll = s.coll := rfl
@[simp] theorem State.send_seed (s : State) (o : Out) : (s.send o).seed = s.seed := rfl
@[simp] theorem State.send_power (s : State) (o : Out) : (s.send o).power = s.power := rfl
@[simp] theorem State.send_ranger (s : State) (o : Out) : (s.send o).ranger = s.ranger := rfl
@[simp] theorem State.send_sec (s : State) (o : Out) : (s.send o).sec = s.sec := rfl
@[simp] theorem State.send_jtag (s : State) (o : Out) : (s.send o).jtag = s.jtag := rfl
@[simp] theorem State.send_ctr (s : State) (o : Out) : (s.send o).ctr = s.ctr := rfl
@[simp] theorem State.send_free (s : State) (o : Out) : (s.send o).free = s.free := rfl
@[simp] theorem State.send_tx (s : State) (o : Out) : (s.send o).tx = s.tx ++ [o] := rfl
@[simp] theorem State.send_landed (s : State) (o : Out) : (s.send o).landed = s.landed := rfl
@[simp] theorem State.send_pending (s : State) (o : Out) : (s.send o).pending = s.pending := rfl

@[simp] theorem State.reach_clk (s : State) (cc : Nat) : (s.reach cc).clk = { s.clk with cc := max s.clk.cc cc } := rfl
@[simp] theorem State.reach_sram (s : State) (cc : Nat) : (s.reach cc).sram = s.sram := rfl
@[simp] theorem State.reach_hbm (s : State) (cc : Nat) : (s.reach cc).hbm = s.hbm := rfl
@[simp] theorem State.reach_clusters (s : State) (cc : Nat) : (s.reach cc).clusters = s.clusters := rfl
@[simp] theorem State.reach_seqs (s : State) (cc : Nat) : (s.reach cc).seqs = s.seqs := rfl
@[simp] theorem State.reach_tick (s : State) (cc : Nat) : (s.reach cc).tick = s.tick := rfl
@[simp] theorem State.reach_job (s : State) (cc : Nat) : (s.reach cc).job = s.job := rfl
@[simp] theorem State.reach_host (s : State) (cc : Nat) : (s.reach cc).host = s.host := rfl
@[simp] theorem State.reach_fence (s : State) (cc : Nat) : (s.reach cc).fence = s.fence := rfl
@[simp] theorem State.reach_hbmStacks (s : State) (cc : Nat) : (s.reach cc).hbmStacks = s.hbmStacks := rfl
@[simp] theorem State.reach_parts (s : State) (cc : Nat) : (s.reach cc).parts = s.parts := rfl
@[simp] theorem State.reach_und (s : State) (cc : Nat) : (s.reach cc).und = s.und := rfl
@[simp] theorem State.reach_sill (s : State) (cc : Nat) : (s.reach cc).sill = s.sill := rfl
@[simp] theorem State.reach_copies (s : State) (cc : Nat) : (s.reach cc).copies = s.copies := rfl
@[simp] theorem State.reach_fab (s : State) (cc : Nat) : (s.reach cc).fab = s.fab := rfl
@[simp] theorem State.reach_coll (s : State) (cc : Nat) : (s.reach cc).coll = s.coll := rfl
@[simp] theorem State.reach_seed (s : State) (cc : Nat) : (s.reach cc).seed = s.seed := rfl
@[simp] theorem State.reach_power (s : State) (cc : Nat) : (s.reach cc).power = s.power := rfl
@[simp] theorem State.reach_ranger (s : State) (cc : Nat) : (s.reach cc).ranger = s.ranger := rfl
@[simp] theorem State.reach_sec (s : State) (cc : Nat) : (s.reach cc).sec = s.sec := rfl
@[simp] theorem State.reach_jtag (s : State) (cc : Nat) : (s.reach cc).jtag = s.jtag := rfl
@[simp] theorem State.reach_ctr (s : State) (cc : Nat) : (s.reach cc).ctr = s.ctr := rfl
@[simp] theorem State.reach_free (s : State) (cc : Nat) : (s.reach cc).free = s.free := rfl
@[simp] theorem State.reach_tx (s : State) (cc : Nat) : (s.reach cc).tx = s.tx := rfl
@[simp] theorem State.reach_landed (s : State) (cc : Nat) : (s.reach cc).landed = s.landed := rfl
@[simp] theorem State.reach_pending (s : State) (cc : Nat) : (s.reach cc).pending = s.pending := rfl

@[simp] theorem State.spend_clk (s : State) : (s.spend).clk = s.clk := rfl
@[simp] theorem State.spend_sram (s : State) : (s.spend).sram = s.sram := rfl
@[simp] theorem State.spend_hbm (s : State) : (s.spend).hbm = s.hbm := rfl
@[simp] theorem State.spend_clusters (s : State) : (s.spend).clusters = s.clusters := rfl
@[simp] theorem State.spend_seqs (s : State) : (s.spend).seqs = s.seqs := rfl
@[simp] theorem State.spend_tick (s : State) : (s.spend).tick = s.tick := rfl
@[simp] theorem State.spend_job (s : State) : (s.spend).job = s.job := rfl
@[simp] theorem State.spend_host (s : State) : (s.spend).host = s.host := rfl
@[simp] theorem State.spend_fence (s : State) : (s.spend).fence = s.fence := rfl
@[simp] theorem State.spend_hbmStacks (s : State) : (s.spend).hbmStacks = s.hbmStacks := rfl
@[simp] theorem State.spend_parts (s : State) : (s.spend).parts = s.parts := rfl
@[simp] theorem State.spend_und (s : State) : (s.spend).und = s.und := rfl
@[simp] theorem State.spend_sill (s : State) : (s.spend).sill = s.sill := rfl
@[simp] theorem State.spend_copies (s : State) : (s.spend).copies = s.copies := rfl
@[simp] theorem State.spend_fab (s : State) : (s.spend).fab = s.fab := rfl
@[simp] theorem State.spend_coll (s : State) : (s.spend).coll = s.coll := rfl
@[simp] theorem State.spend_seed (s : State) : (s.spend).seed = s.seed := rfl
@[simp] theorem State.spend_power (s : State) : (s.spend).power = s.power := rfl
@[simp] theorem State.spend_ranger (s : State) : (s.spend).ranger = s.ranger := rfl
@[simp] theorem State.spend_sec (s : State) : (s.spend).sec = s.sec := rfl
@[simp] theorem State.spend_jtag (s : State) : (s.spend).jtag = s.jtag := rfl
@[simp] theorem State.spend_ctr (s : State) : (s.spend).ctr = s.ctr := rfl
@[simp] theorem State.spend_free (s : State) : (s.spend).free = s.free + 1 := rfl
@[simp] theorem State.spend_tx (s : State) : (s.spend).tx = s.tx := rfl
@[simp] theorem State.spend_landed (s : State) : (s.spend).landed = s.landed := rfl
@[simp] theorem State.spend_pending (s : State) : (s.spend).pending = s.pending := rfl

@[simp] theorem State.setCount_clk (s : State) (key v : Nat) : (s.setCount key v).clk = s.clk := rfl
@[simp] theorem State.setCount_sram (s : State) (key v : Nat) : (s.setCount key v).sram = s.sram := rfl
@[simp] theorem State.setCount_hbm (s : State) (key v : Nat) : (s.setCount key v).hbm = s.hbm := rfl
@[simp] theorem State.setCount_clusters (s : State) (key v : Nat) : (s.setCount key v).clusters = s.clusters := rfl
@[simp] theorem State.setCount_seqs (s : State) (key v : Nat) : (s.setCount key v).seqs = s.seqs := rfl
@[simp] theorem State.setCount_tick (s : State) (key v : Nat) : (s.setCount key v).tick = s.tick := rfl
@[simp] theorem State.setCount_job (s : State) (key v : Nat) : (s.setCount key v).job = s.job := rfl
@[simp] theorem State.setCount_host (s : State) (key v : Nat) : (s.setCount key v).host = s.host := rfl
@[simp] theorem State.setCount_fence (s : State) (key v : Nat) : (s.setCount key v).fence = s.fence := rfl
@[simp] theorem State.setCount_hbmStacks (s : State) (key v : Nat) : (s.setCount key v).hbmStacks = s.hbmStacks := rfl
@[simp] theorem State.setCount_parts (s : State) (key v : Nat) : (s.setCount key v).parts = s.parts := rfl
@[simp] theorem State.setCount_und (s : State) (key v : Nat) : (s.setCount key v).und = s.und := rfl
@[simp] theorem State.setCount_sill (s : State) (key v : Nat) : (s.setCount key v).sill = s.sill := rfl
@[simp] theorem State.setCount_copies (s : State) (key v : Nat) : (s.setCount key v).copies = s.copies := rfl
@[simp] theorem State.setCount_fab (s : State) (key v : Nat) : (s.setCount key v).fab = s.fab := rfl
@[simp] theorem State.setCount_coll (s : State) (key v : Nat) : (s.setCount key v).coll = s.coll := rfl
@[simp] theorem State.setCount_seed (s : State) (key v : Nat) : (s.setCount key v).seed = s.seed := rfl
@[simp] theorem State.setCount_power (s : State) (key v : Nat) : (s.setCount key v).power = s.power := rfl
@[simp] theorem State.setCount_ranger (s : State) (key v : Nat) : (s.setCount key v).ranger = s.ranger := rfl
@[simp] theorem State.setCount_sec (s : State) (key v : Nat) : (s.setCount key v).sec = s.sec := rfl
@[simp] theorem State.setCount_jtag (s : State) (key v : Nat) : (s.setCount key v).jtag = s.jtag := rfl
@[simp] theorem State.setCount_ctr (s : State) (key v : Nat) : (s.setCount key v).ctr = Tab.put key v s.ctr := rfl
@[simp] theorem State.setCount_free (s : State) (key v : Nat) : (s.setCount key v).free = s.free := rfl
@[simp] theorem State.setCount_tx (s : State) (key v : Nat) : (s.setCount key v).tx = s.tx := rfl
@[simp] theorem State.setCount_landed (s : State) (key v : Nat) : (s.setCount key v).landed = s.landed := rfl
@[simp] theorem State.setCount_pending (s : State) (key v : Nat) : (s.setCount key v).pending = s.pending := rfl

@[simp] theorem State.setJtag_clk (s : State) (j : Jtag) : (s.setJtag j).clk = s.clk := rfl
@[simp] theorem State.setJtag_sram (s : State) (j : Jtag) : (s.setJtag j).sram = s.sram := rfl
@[simp] theorem State.setJtag_hbm (s : State) (j : Jtag) : (s.setJtag j).hbm = s.hbm := rfl
@[simp] theorem State.setJtag_clusters (s : State) (j : Jtag) : (s.setJtag j).clusters = s.clusters := rfl
@[simp] theorem State.setJtag_seqs (s : State) (j : Jtag) : (s.setJtag j).seqs = s.seqs := rfl
@[simp] theorem State.setJtag_tick (s : State) (j : Jtag) : (s.setJtag j).tick = s.tick := rfl
@[simp] theorem State.setJtag_job (s : State) (j : Jtag) : (s.setJtag j).job = s.job := rfl
@[simp] theorem State.setJtag_host (s : State) (j : Jtag) : (s.setJtag j).host = s.host := rfl
@[simp] theorem State.setJtag_fence (s : State) (j : Jtag) : (s.setJtag j).fence = s.fence := rfl
@[simp] theorem State.setJtag_hbmStacks (s : State) (j : Jtag) : (s.setJtag j).hbmStacks = s.hbmStacks := rfl
@[simp] theorem State.setJtag_parts (s : State) (j : Jtag) : (s.setJtag j).parts = s.parts := rfl
@[simp] theorem State.setJtag_und (s : State) (j : Jtag) : (s.setJtag j).und = s.und := rfl
@[simp] theorem State.setJtag_sill (s : State) (j : Jtag) : (s.setJtag j).sill = s.sill := rfl
@[simp] theorem State.setJtag_copies (s : State) (j : Jtag) : (s.setJtag j).copies = s.copies := rfl
@[simp] theorem State.setJtag_fab (s : State) (j : Jtag) : (s.setJtag j).fab = s.fab := rfl
@[simp] theorem State.setJtag_coll (s : State) (j : Jtag) : (s.setJtag j).coll = s.coll := rfl
@[simp] theorem State.setJtag_seed (s : State) (j : Jtag) : (s.setJtag j).seed = s.seed := rfl
@[simp] theorem State.setJtag_power (s : State) (j : Jtag) : (s.setJtag j).power = s.power := rfl
@[simp] theorem State.setJtag_ranger (s : State) (j : Jtag) : (s.setJtag j).ranger = s.ranger := rfl
@[simp] theorem State.setJtag_sec (s : State) (j : Jtag) : (s.setJtag j).sec = s.sec := rfl
@[simp] theorem State.setJtag_jtag (s : State) (j : Jtag) : (s.setJtag j).jtag = j := rfl
@[simp] theorem State.setJtag_ctr (s : State) (j : Jtag) : (s.setJtag j).ctr = s.ctr := rfl
@[simp] theorem State.setJtag_free (s : State) (j : Jtag) : (s.setJtag j).free = s.free := rfl
@[simp] theorem State.setJtag_tx (s : State) (j : Jtag) : (s.setJtag j).tx = s.tx := rfl
@[simp] theorem State.setJtag_landed (s : State) (j : Jtag) : (s.setJtag j).landed = s.landed := rfl
@[simp] theorem State.setJtag_pending (s : State) (j : Jtag) : (s.setJtag j).pending = s.pending := rfl

@[simp] theorem State.setSeed_clk (s : State) (b : Seedbank) : (s.setSeed b).clk = s.clk := rfl
@[simp] theorem State.setSeed_sram (s : State) (b : Seedbank) : (s.setSeed b).sram = s.sram := rfl
@[simp] theorem State.setSeed_hbm (s : State) (b : Seedbank) : (s.setSeed b).hbm = s.hbm := rfl
@[simp] theorem State.setSeed_clusters (s : State) (b : Seedbank) : (s.setSeed b).clusters = s.clusters := rfl
@[simp] theorem State.setSeed_seqs (s : State) (b : Seedbank) : (s.setSeed b).seqs = s.seqs := rfl
@[simp] theorem State.setSeed_tick (s : State) (b : Seedbank) : (s.setSeed b).tick = s.tick := rfl
@[simp] theorem State.setSeed_job (s : State) (b : Seedbank) : (s.setSeed b).job = s.job := rfl
@[simp] theorem State.setSeed_host (s : State) (b : Seedbank) : (s.setSeed b).host = s.host := rfl
@[simp] theorem State.setSeed_fence (s : State) (b : Seedbank) : (s.setSeed b).fence = s.fence := rfl
@[simp] theorem State.setSeed_hbmStacks (s : State) (b : Seedbank) : (s.setSeed b).hbmStacks = s.hbmStacks := rfl
@[simp] theorem State.setSeed_parts (s : State) (b : Seedbank) : (s.setSeed b).parts = s.parts := rfl
@[simp] theorem State.setSeed_und (s : State) (b : Seedbank) : (s.setSeed b).und = s.und := rfl
@[simp] theorem State.setSeed_sill (s : State) (b : Seedbank) : (s.setSeed b).sill = s.sill := rfl
@[simp] theorem State.setSeed_copies (s : State) (b : Seedbank) : (s.setSeed b).copies = s.copies := rfl
@[simp] theorem State.setSeed_fab (s : State) (b : Seedbank) : (s.setSeed b).fab = s.fab := rfl
@[simp] theorem State.setSeed_coll (s : State) (b : Seedbank) : (s.setSeed b).coll = s.coll := rfl
@[simp] theorem State.setSeed_seed (s : State) (b : Seedbank) : (s.setSeed b).seed = b := rfl
@[simp] theorem State.setSeed_power (s : State) (b : Seedbank) : (s.setSeed b).power = s.power := rfl
@[simp] theorem State.setSeed_ranger (s : State) (b : Seedbank) : (s.setSeed b).ranger = s.ranger := rfl
@[simp] theorem State.setSeed_sec (s : State) (b : Seedbank) : (s.setSeed b).sec = s.sec := rfl
@[simp] theorem State.setSeed_jtag (s : State) (b : Seedbank) : (s.setSeed b).jtag = s.jtag := rfl
@[simp] theorem State.setSeed_ctr (s : State) (b : Seedbank) : (s.setSeed b).ctr = s.ctr := rfl
@[simp] theorem State.setSeed_free (s : State) (b : Seedbank) : (s.setSeed b).free = s.free := rfl
@[simp] theorem State.setSeed_tx (s : State) (b : Seedbank) : (s.setSeed b).tx = s.tx := rfl
@[simp] theorem State.setSeed_landed (s : State) (b : Seedbank) : (s.setSeed b).landed = s.landed := rfl
@[simp] theorem State.setSeed_pending (s : State) (b : Seedbank) : (s.setSeed b).pending = s.pending := rfl

@[simp] theorem State.setSec_clk (s : State) (x : Security) : (s.setSec x).clk = s.clk := rfl
@[simp] theorem State.setSec_sram (s : State) (x : Security) : (s.setSec x).sram = s.sram := rfl
@[simp] theorem State.setSec_hbm (s : State) (x : Security) : (s.setSec x).hbm = s.hbm := rfl
@[simp] theorem State.setSec_clusters (s : State) (x : Security) : (s.setSec x).clusters = s.clusters := rfl
@[simp] theorem State.setSec_seqs (s : State) (x : Security) : (s.setSec x).seqs = s.seqs := rfl
@[simp] theorem State.setSec_tick (s : State) (x : Security) : (s.setSec x).tick = s.tick := rfl
@[simp] theorem State.setSec_job (s : State) (x : Security) : (s.setSec x).job = s.job := rfl
@[simp] theorem State.setSec_host (s : State) (x : Security) : (s.setSec x).host = s.host := rfl
@[simp] theorem State.setSec_fence (s : State) (x : Security) : (s.setSec x).fence = s.fence := rfl
@[simp] theorem State.setSec_hbmStacks (s : State) (x : Security) : (s.setSec x).hbmStacks = s.hbmStacks := rfl
@[simp] theorem State.setSec_parts (s : State) (x : Security) : (s.setSec x).parts = s.parts := rfl
@[simp] theorem State.setSec_und (s : State) (x : Security) : (s.setSec x).und = s.und := rfl
@[simp] theorem State.setSec_sill (s : State) (x : Security) : (s.setSec x).sill = s.sill := rfl
@[simp] theorem State.setSec_copies (s : State) (x : Security) : (s.setSec x).copies = s.copies := rfl
@[simp] theorem State.setSec_fab (s : State) (x : Security) : (s.setSec x).fab = s.fab := rfl
@[simp] theorem State.setSec_coll (s : State) (x : Security) : (s.setSec x).coll = s.coll := rfl
@[simp] theorem State.setSec_seed (s : State) (x : Security) : (s.setSec x).seed = s.seed := rfl
@[simp] theorem State.setSec_power (s : State) (x : Security) : (s.setSec x).power = s.power := rfl
@[simp] theorem State.setSec_ranger (s : State) (x : Security) : (s.setSec x).ranger = s.ranger := rfl
@[simp] theorem State.setSec_sec (s : State) (x : Security) : (s.setSec x).sec = x := rfl
@[simp] theorem State.setSec_jtag (s : State) (x : Security) : (s.setSec x).jtag = s.jtag := rfl
@[simp] theorem State.setSec_ctr (s : State) (x : Security) : (s.setSec x).ctr = s.ctr := rfl
@[simp] theorem State.setSec_free (s : State) (x : Security) : (s.setSec x).free = s.free := rfl
@[simp] theorem State.setSec_tx (s : State) (x : Security) : (s.setSec x).tx = s.tx := rfl
@[simp] theorem State.setSec_landed (s : State) (x : Security) : (s.setSec x).landed = s.landed := rfl
@[simp] theorem State.setSec_pending (s : State) (x : Security) : (s.setSec x).pending = s.pending := rfl

@[simp] theorem State.setUnd_clk (s : State) (u : Understory) : (s.setUnd u).clk = s.clk := rfl
@[simp] theorem State.setUnd_sram (s : State) (u : Understory) : (s.setUnd u).sram = s.sram := rfl
@[simp] theorem State.setUnd_hbm (s : State) (u : Understory) : (s.setUnd u).hbm = s.hbm := rfl
@[simp] theorem State.setUnd_clusters (s : State) (u : Understory) : (s.setUnd u).clusters = s.clusters := rfl
@[simp] theorem State.setUnd_seqs (s : State) (u : Understory) : (s.setUnd u).seqs = s.seqs := rfl
@[simp] theorem State.setUnd_tick (s : State) (u : Understory) : (s.setUnd u).tick = s.tick := rfl
@[simp] theorem State.setUnd_job (s : State) (u : Understory) : (s.setUnd u).job = s.job := rfl
@[simp] theorem State.setUnd_host (s : State) (u : Understory) : (s.setUnd u).host = s.host := rfl
@[simp] theorem State.setUnd_fence (s : State) (u : Understory) : (s.setUnd u).fence = s.fence := rfl
@[simp] theorem State.setUnd_hbmStacks (s : State) (u : Understory) : (s.setUnd u).hbmStacks = s.hbmStacks := rfl
@[simp] theorem State.setUnd_parts (s : State) (u : Understory) : (s.setUnd u).parts = s.parts := rfl
@[simp] theorem State.setUnd_und (s : State) (u : Understory) : (s.setUnd u).und = u := rfl
@[simp] theorem State.setUnd_sill (s : State) (u : Understory) : (s.setUnd u).sill = s.sill := rfl
@[simp] theorem State.setUnd_copies (s : State) (u : Understory) : (s.setUnd u).copies = s.copies := rfl
@[simp] theorem State.setUnd_fab (s : State) (u : Understory) : (s.setUnd u).fab = s.fab := rfl
@[simp] theorem State.setUnd_coll (s : State) (u : Understory) : (s.setUnd u).coll = s.coll := rfl
@[simp] theorem State.setUnd_seed (s : State) (u : Understory) : (s.setUnd u).seed = s.seed := rfl
@[simp] theorem State.setUnd_power (s : State) (u : Understory) : (s.setUnd u).power = s.power := rfl
@[simp] theorem State.setUnd_ranger (s : State) (u : Understory) : (s.setUnd u).ranger = s.ranger := rfl
@[simp] theorem State.setUnd_sec (s : State) (u : Understory) : (s.setUnd u).sec = s.sec := rfl
@[simp] theorem State.setUnd_jtag (s : State) (u : Understory) : (s.setUnd u).jtag = s.jtag := rfl
@[simp] theorem State.setUnd_ctr (s : State) (u : Understory) : (s.setUnd u).ctr = s.ctr := rfl
@[simp] theorem State.setUnd_free (s : State) (u : Understory) : (s.setUnd u).free = s.free := rfl
@[simp] theorem State.setUnd_tx (s : State) (u : Understory) : (s.setUnd u).tx = s.tx := rfl
@[simp] theorem State.setUnd_landed (s : State) (u : Understory) : (s.setUnd u).landed = s.landed := rfl
@[simp] theorem State.setUnd_pending (s : State) (u : Understory) : (s.setUnd u).pending = s.pending := rfl

@[simp] theorem State.setStack_clk (s : State) (k : Nat) (v : Stack) : (s.setStack k v).clk = s.clk := rfl
@[simp] theorem State.setStack_sram (s : State) (k : Nat) (v : Stack) : (s.setStack k v).sram = s.sram := rfl
@[simp] theorem State.setStack_hbm (s : State) (k : Nat) (v : Stack) : (s.setStack k v).hbm = s.hbm := rfl
@[simp] theorem State.setStack_clusters (s : State) (k : Nat) (v : Stack) : (s.setStack k v).clusters = s.clusters := rfl
@[simp] theorem State.setStack_seqs (s : State) (k : Nat) (v : Stack) : (s.setStack k v).seqs = s.seqs := rfl
@[simp] theorem State.setStack_tick (s : State) (k : Nat) (v : Stack) : (s.setStack k v).tick = s.tick := rfl
@[simp] theorem State.setStack_job (s : State) (k : Nat) (v : Stack) : (s.setStack k v).job = s.job := rfl
@[simp] theorem State.setStack_host (s : State) (k : Nat) (v : Stack) : (s.setStack k v).host = s.host := rfl
@[simp] theorem State.setStack_fence (s : State) (k : Nat) (v : Stack) : (s.setStack k v).fence = s.fence := rfl
@[simp] theorem State.setStack_hbmStacks (s : State) (k : Nat) (v : Stack) : (s.setStack k v).hbmStacks = Tab.put k v s.hbmStacks := rfl
@[simp] theorem State.setStack_parts (s : State) (k : Nat) (v : Stack) : (s.setStack k v).parts = s.parts := rfl
@[simp] theorem State.setStack_und (s : State) (k : Nat) (v : Stack) : (s.setStack k v).und = s.und := rfl
@[simp] theorem State.setStack_sill (s : State) (k : Nat) (v : Stack) : (s.setStack k v).sill = s.sill := rfl
@[simp] theorem State.setStack_copies (s : State) (k : Nat) (v : Stack) : (s.setStack k v).copies = s.copies := rfl
@[simp] theorem State.setStack_fab (s : State) (k : Nat) (v : Stack) : (s.setStack k v).fab = s.fab := rfl
@[simp] theorem State.setStack_coll (s : State) (k : Nat) (v : Stack) : (s.setStack k v).coll = s.coll := rfl
@[simp] theorem State.setStack_seed (s : State) (k : Nat) (v : Stack) : (s.setStack k v).seed = s.seed := rfl
@[simp] theorem State.setStack_power (s : State) (k : Nat) (v : Stack) : (s.setStack k v).power = s.power := rfl
@[simp] theorem State.setStack_ranger (s : State) (k : Nat) (v : Stack) : (s.setStack k v).ranger = s.ranger := rfl
@[simp] theorem State.setStack_sec (s : State) (k : Nat) (v : Stack) : (s.setStack k v).sec = s.sec := rfl
@[simp] theorem State.setStack_jtag (s : State) (k : Nat) (v : Stack) : (s.setStack k v).jtag = s.jtag := rfl
@[simp] theorem State.setStack_ctr (s : State) (k : Nat) (v : Stack) : (s.setStack k v).ctr = s.ctr := rfl
@[simp] theorem State.setStack_free (s : State) (k : Nat) (v : Stack) : (s.setStack k v).free = s.free := rfl
@[simp] theorem State.setStack_tx (s : State) (k : Nat) (v : Stack) : (s.setStack k v).tx = s.tx := rfl
@[simp] theorem State.setStack_landed (s : State) (k : Nat) (v : Stack) : (s.setStack k v).landed = s.landed := rfl
@[simp] theorem State.setStack_pending (s : State) (k : Nat) (v : Stack) : (s.setStack k v).pending = s.pending := rfl

@[simp] theorem State.setPower_clk (s : State) (p : Power) : (s.setPower p).clk = s.clk := rfl
@[simp] theorem State.setPower_sram (s : State) (p : Power) : (s.setPower p).sram = s.sram := rfl
@[simp] theorem State.setPower_hbm (s : State) (p : Power) : (s.setPower p).hbm = s.hbm := rfl
@[simp] theorem State.setPower_clusters (s : State) (p : Power) : (s.setPower p).clusters = s.clusters := rfl
@[simp] theorem State.setPower_seqs (s : State) (p : Power) : (s.setPower p).seqs = s.seqs := rfl
@[simp] theorem State.setPower_tick (s : State) (p : Power) : (s.setPower p).tick = s.tick := rfl
@[simp] theorem State.setPower_job (s : State) (p : Power) : (s.setPower p).job = s.job := rfl
@[simp] theorem State.setPower_host (s : State) (p : Power) : (s.setPower p).host = s.host := rfl
@[simp] theorem State.setPower_fence (s : State) (p : Power) : (s.setPower p).fence = s.fence := rfl
@[simp] theorem State.setPower_hbmStacks (s : State) (p : Power) : (s.setPower p).hbmStacks = s.hbmStacks := rfl
@[simp] theorem State.setPower_parts (s : State) (p : Power) : (s.setPower p).parts = s.parts := rfl
@[simp] theorem State.setPower_und (s : State) (p : Power) : (s.setPower p).und = s.und := rfl
@[simp] theorem State.setPower_sill (s : State) (p : Power) : (s.setPower p).sill = s.sill := rfl
@[simp] theorem State.setPower_copies (s : State) (p : Power) : (s.setPower p).copies = s.copies := rfl
@[simp] theorem State.setPower_fab (s : State) (p : Power) : (s.setPower p).fab = s.fab := rfl
@[simp] theorem State.setPower_coll (s : State) (p : Power) : (s.setPower p).coll = s.coll := rfl
@[simp] theorem State.setPower_seed (s : State) (p : Power) : (s.setPower p).seed = s.seed := rfl
@[simp] theorem State.setPower_power (s : State) (p : Power) : (s.setPower p).power = p := rfl
@[simp] theorem State.setPower_ranger (s : State) (p : Power) : (s.setPower p).ranger = s.ranger := rfl
@[simp] theorem State.setPower_sec (s : State) (p : Power) : (s.setPower p).sec = s.sec := rfl
@[simp] theorem State.setPower_jtag (s : State) (p : Power) : (s.setPower p).jtag = s.jtag := rfl
@[simp] theorem State.setPower_ctr (s : State) (p : Power) : (s.setPower p).ctr = s.ctr := rfl
@[simp] theorem State.setPower_free (s : State) (p : Power) : (s.setPower p).free = s.free := rfl
@[simp] theorem State.setPower_tx (s : State) (p : Power) : (s.setPower p).tx = s.tx := rfl
@[simp] theorem State.setPower_landed (s : State) (p : Power) : (s.setPower p).landed = s.landed := rfl
@[simp] theorem State.setPower_pending (s : State) (p : Power) : (s.setPower p).pending = s.pending := rfl

@[simp] theorem State.setSillage_clk (s : State) (d : Nat) (u : Sillage) : (s.setSillage d u).clk = s.clk := rfl
@[simp] theorem State.setSillage_sram (s : State) (d : Nat) (u : Sillage) : (s.setSillage d u).sram = s.sram := rfl
@[simp] theorem State.setSillage_hbm (s : State) (d : Nat) (u : Sillage) : (s.setSillage d u).hbm = s.hbm := rfl
@[simp] theorem State.setSillage_clusters (s : State) (d : Nat) (u : Sillage) : (s.setSillage d u).clusters = s.clusters := rfl
@[simp] theorem State.setSillage_seqs (s : State) (d : Nat) (u : Sillage) : (s.setSillage d u).seqs = s.seqs := rfl
@[simp] theorem State.setSillage_tick (s : State) (d : Nat) (u : Sillage) : (s.setSillage d u).tick = s.tick := rfl
@[simp] theorem State.setSillage_job (s : State) (d : Nat) (u : Sillage) : (s.setSillage d u).job = s.job := rfl
@[simp] theorem State.setSillage_host (s : State) (d : Nat) (u : Sillage) : (s.setSillage d u).host = s.host := rfl
@[simp] theorem State.setSillage_fence (s : State) (d : Nat) (u : Sillage) : (s.setSillage d u).fence = s.fence := rfl
@[simp] theorem State.setSillage_hbmStacks (s : State) (d : Nat) (u : Sillage) : (s.setSillage d u).hbmStacks = s.hbmStacks := rfl
@[simp] theorem State.setSillage_parts (s : State) (d : Nat) (u : Sillage) : (s.setSillage d u).parts = s.parts := rfl
@[simp] theorem State.setSillage_und (s : State) (d : Nat) (u : Sillage) : (s.setSillage d u).und = s.und := rfl
@[simp] theorem State.setSillage_sill (s : State) (d : Nat) (u : Sillage) : (s.setSillage d u).sill = Tab.put d u s.sill := rfl
@[simp] theorem State.setSillage_copies (s : State) (d : Nat) (u : Sillage) : (s.setSillage d u).copies = s.copies := rfl
@[simp] theorem State.setSillage_fab (s : State) (d : Nat) (u : Sillage) : (s.setSillage d u).fab = s.fab := rfl
@[simp] theorem State.setSillage_coll (s : State) (d : Nat) (u : Sillage) : (s.setSillage d u).coll = s.coll := rfl
@[simp] theorem State.setSillage_seed (s : State) (d : Nat) (u : Sillage) : (s.setSillage d u).seed = s.seed := rfl
@[simp] theorem State.setSillage_power (s : State) (d : Nat) (u : Sillage) : (s.setSillage d u).power = s.power := rfl
@[simp] theorem State.setSillage_ranger (s : State) (d : Nat) (u : Sillage) : (s.setSillage d u).ranger = s.ranger := rfl
@[simp] theorem State.setSillage_sec (s : State) (d : Nat) (u : Sillage) : (s.setSillage d u).sec = s.sec := rfl
@[simp] theorem State.setSillage_jtag (s : State) (d : Nat) (u : Sillage) : (s.setSillage d u).jtag = s.jtag := rfl
@[simp] theorem State.setSillage_ctr (s : State) (d : Nat) (u : Sillage) : (s.setSillage d u).ctr = s.ctr := rfl
@[simp] theorem State.setSillage_free (s : State) (d : Nat) (u : Sillage) : (s.setSillage d u).free = s.free := rfl
@[simp] theorem State.setSillage_tx (s : State) (d : Nat) (u : Sillage) : (s.setSillage d u).tx = s.tx := rfl
@[simp] theorem State.setSillage_landed (s : State) (d : Nat) (u : Sillage) : (s.setSillage d u).landed = s.landed := rfl
@[simp] theorem State.setSillage_pending (s : State) (d : Nat) (u : Sillage) : (s.setSillage d u).pending = s.pending := rfl

@[simp] theorem State.setPort_clk (s : State) (p : Nat) (v : Port) : (s.setPort p v).clk = s.clk := rfl
@[simp] theorem State.setPort_sram (s : State) (p : Nat) (v : Port) : (s.setPort p v).sram = s.sram := rfl
@[simp] theorem State.setPort_hbm (s : State) (p : Nat) (v : Port) : (s.setPort p v).hbm = s.hbm := rfl
@[simp] theorem State.setPort_clusters (s : State) (p : Nat) (v : Port) : (s.setPort p v).clusters = s.clusters := rfl
@[simp] theorem State.setPort_seqs (s : State) (p : Nat) (v : Port) : (s.setPort p v).seqs = s.seqs := rfl
@[simp] theorem State.setPort_tick (s : State) (p : Nat) (v : Port) : (s.setPort p v).tick = s.tick := rfl
@[simp] theorem State.setPort_job (s : State) (p : Nat) (v : Port) : (s.setPort p v).job = s.job := rfl
@[simp] theorem State.setPort_host (s : State) (p : Nat) (v : Port) : (s.setPort p v).host = s.host := rfl
@[simp] theorem State.setPort_fence (s : State) (p : Nat) (v : Port) : (s.setPort p v).fence = s.fence := rfl
@[simp] theorem State.setPort_hbmStacks (s : State) (p : Nat) (v : Port) : (s.setPort p v).hbmStacks = s.hbmStacks := rfl
@[simp] theorem State.setPort_parts (s : State) (p : Nat) (v : Port) : (s.setPort p v).parts = s.parts := rfl
@[simp] theorem State.setPort_und (s : State) (p : Nat) (v : Port) : (s.setPort p v).und = s.und := rfl
@[simp] theorem State.setPort_sill (s : State) (p : Nat) (v : Port) : (s.setPort p v).sill = s.sill := rfl
@[simp] theorem State.setPort_copies (s : State) (p : Nat) (v : Port) : (s.setPort p v).copies = s.copies := rfl
@[simp] theorem State.setPort_fab (s : State) (p : Nat) (v : Port) : (s.setPort p v).fab = { s.fab with ports := Tab.put p v s.fab.ports } := rfl
@[simp] theorem State.setPort_coll (s : State) (p : Nat) (v : Port) : (s.setPort p v).coll = s.coll := rfl
@[simp] theorem State.setPort_seed (s : State) (p : Nat) (v : Port) : (s.setPort p v).seed = s.seed := rfl
@[simp] theorem State.setPort_power (s : State) (p : Nat) (v : Port) : (s.setPort p v).power = s.power := rfl
@[simp] theorem State.setPort_ranger (s : State) (p : Nat) (v : Port) : (s.setPort p v).ranger = s.ranger := rfl
@[simp] theorem State.setPort_sec (s : State) (p : Nat) (v : Port) : (s.setPort p v).sec = s.sec := rfl
@[simp] theorem State.setPort_jtag (s : State) (p : Nat) (v : Port) : (s.setPort p v).jtag = s.jtag := rfl
@[simp] theorem State.setPort_ctr (s : State) (p : Nat) (v : Port) : (s.setPort p v).ctr = s.ctr := rfl
@[simp] theorem State.setPort_free (s : State) (p : Nat) (v : Port) : (s.setPort p v).free = s.free := rfl
@[simp] theorem State.setPort_tx (s : State) (p : Nat) (v : Port) : (s.setPort p v).tx = s.tx := rfl
@[simp] theorem State.setPort_landed (s : State) (p : Nat) (v : Port) : (s.setPort p v).landed = s.landed := rfl
@[simp] theorem State.setPort_pending (s : State) (p : Nat) (v : Port) : (s.setPort p v).pending = s.pending := rfl

@[simp] theorem State.setRouter_clk (s : State) (d : Nat) (r : Router) : (s.setRouter d r).clk = s.clk := rfl
@[simp] theorem State.setRouter_sram (s : State) (d : Nat) (r : Router) : (s.setRouter d r).sram = s.sram := rfl
@[simp] theorem State.setRouter_hbm (s : State) (d : Nat) (r : Router) : (s.setRouter d r).hbm = s.hbm := rfl
@[simp] theorem State.setRouter_clusters (s : State) (d : Nat) (r : Router) : (s.setRouter d r).clusters = s.clusters := rfl
@[simp] theorem State.setRouter_seqs (s : State) (d : Nat) (r : Router) : (s.setRouter d r).seqs = s.seqs := rfl
@[simp] theorem State.setRouter_tick (s : State) (d : Nat) (r : Router) : (s.setRouter d r).tick = s.tick := rfl
@[simp] theorem State.setRouter_job (s : State) (d : Nat) (r : Router) : (s.setRouter d r).job = s.job := rfl
@[simp] theorem State.setRouter_host (s : State) (d : Nat) (r : Router) : (s.setRouter d r).host = s.host := rfl
@[simp] theorem State.setRouter_fence (s : State) (d : Nat) (r : Router) : (s.setRouter d r).fence = s.fence := rfl
@[simp] theorem State.setRouter_hbmStacks (s : State) (d : Nat) (r : Router) : (s.setRouter d r).hbmStacks = s.hbmStacks := rfl
@[simp] theorem State.setRouter_parts (s : State) (d : Nat) (r : Router) : (s.setRouter d r).parts = s.parts := rfl
@[simp] theorem State.setRouter_und (s : State) (d : Nat) (r : Router) : (s.setRouter d r).und = s.und := rfl
@[simp] theorem State.setRouter_sill (s : State) (d : Nat) (r : Router) : (s.setRouter d r).sill = s.sill := rfl
@[simp] theorem State.setRouter_copies (s : State) (d : Nat) (r : Router) : (s.setRouter d r).copies = s.copies := rfl
@[simp] theorem State.setRouter_fab (s : State) (d : Nat) (r : Router) : (s.setRouter d r).fab = { s.fab with routers := Tab.put d r s.fab.routers } := rfl
@[simp] theorem State.setRouter_coll (s : State) (d : Nat) (r : Router) : (s.setRouter d r).coll = s.coll := rfl
@[simp] theorem State.setRouter_seed (s : State) (d : Nat) (r : Router) : (s.setRouter d r).seed = s.seed := rfl
@[simp] theorem State.setRouter_power (s : State) (d : Nat) (r : Router) : (s.setRouter d r).power = s.power := rfl
@[simp] theorem State.setRouter_ranger (s : State) (d : Nat) (r : Router) : (s.setRouter d r).ranger = s.ranger := rfl
@[simp] theorem State.setRouter_sec (s : State) (d : Nat) (r : Router) : (s.setRouter d r).sec = s.sec := rfl
@[simp] theorem State.setRouter_jtag (s : State) (d : Nat) (r : Router) : (s.setRouter d r).jtag = s.jtag := rfl
@[simp] theorem State.setRouter_ctr (s : State) (d : Nat) (r : Router) : (s.setRouter d r).ctr = s.ctr := rfl
@[simp] theorem State.setRouter_free (s : State) (d : Nat) (r : Router) : (s.setRouter d r).free = s.free := rfl
@[simp] theorem State.setRouter_tx (s : State) (d : Nat) (r : Router) : (s.setRouter d r).tx = s.tx := rfl
@[simp] theorem State.setRouter_landed (s : State) (d : Nat) (r : Router) : (s.setRouter d r).landed = s.landed := rfl
@[simp] theorem State.setRouter_pending (s : State) (d : Nat) (r : Router) : (s.setRouter d r).pending = s.pending := rfl

@[simp] theorem State.setPage_clk (s : State) (p : Nat) (v : Page) : (s.setPage p v).clk = s.clk := rfl
@[simp] theorem State.setPage_sram (s : State) (p : Nat) (v : Page) : (s.setPage p v).sram = s.sram := rfl
@[simp] theorem State.setPage_hbm (s : State) (p : Nat) (v : Page) : (s.setPage p v).hbm = s.hbm := rfl
@[simp] theorem State.setPage_clusters (s : State) (p : Nat) (v : Page) : (s.setPage p v).clusters = s.clusters := rfl
@[simp] theorem State.setPage_seqs (s : State) (p : Nat) (v : Page) : (s.setPage p v).seqs = s.seqs := rfl
@[simp] theorem State.setPage_tick (s : State) (p : Nat) (v : Page) : (s.setPage p v).tick = s.tick := rfl
@[simp] theorem State.setPage_job (s : State) (p : Nat) (v : Page) : (s.setPage p v).job = s.job := rfl
@[simp] theorem State.setPage_host (s : State) (p : Nat) (v : Page) : (s.setPage p v).host = s.host := rfl
@[simp] theorem State.setPage_fence (s : State) (p : Nat) (v : Page) : (s.setPage p v).fence = s.fence := rfl
@[simp] theorem State.setPage_hbmStacks (s : State) (p : Nat) (v : Page) : (s.setPage p v).hbmStacks = s.hbmStacks := rfl
@[simp] theorem State.setPage_parts (s : State) (p : Nat) (v : Page) : (s.setPage p v).parts = s.parts := rfl
@[simp] theorem State.setPage_und (s : State) (p : Nat) (v : Page) : (s.setPage p v).und = { s.und with pages := Tab.put p v s.und.pages } := rfl
@[simp] theorem State.setPage_sill (s : State) (p : Nat) (v : Page) : (s.setPage p v).sill = s.sill := rfl
@[simp] theorem State.setPage_copies (s : State) (p : Nat) (v : Page) : (s.setPage p v).copies = s.copies := rfl
@[simp] theorem State.setPage_fab (s : State) (p : Nat) (v : Page) : (s.setPage p v).fab = s.fab := rfl
@[simp] theorem State.setPage_coll (s : State) (p : Nat) (v : Page) : (s.setPage p v).coll = s.coll := rfl
@[simp] theorem State.setPage_seed (s : State) (p : Nat) (v : Page) : (s.setPage p v).seed = s.seed := rfl
@[simp] theorem State.setPage_power (s : State) (p : Nat) (v : Page) : (s.setPage p v).power = s.power := rfl
@[simp] theorem State.setPage_ranger (s : State) (p : Nat) (v : Page) : (s.setPage p v).ranger = s.ranger := rfl
@[simp] theorem State.setPage_sec (s : State) (p : Nat) (v : Page) : (s.setPage p v).sec = s.sec := rfl
@[simp] theorem State.setPage_jtag (s : State) (p : Nat) (v : Page) : (s.setPage p v).jtag = s.jtag := rfl
@[simp] theorem State.setPage_ctr (s : State) (p : Nat) (v : Page) : (s.setPage p v).ctr = s.ctr := rfl
@[simp] theorem State.setPage_free (s : State) (p : Nat) (v : Page) : (s.setPage p v).free = s.free := rfl
@[simp] theorem State.setPage_tx (s : State) (p : Nat) (v : Page) : (s.setPage p v).tx = s.tx := rfl
@[simp] theorem State.setPage_landed (s : State) (p : Nat) (v : Page) : (s.setPage p v).landed = s.landed := rfl
@[simp] theorem State.setPage_pending (s : State) (p : Nat) (v : Page) : (s.setPage p v).pending = s.pending := rfl

@[simp] theorem State.setLines_clk (s : State) (key : Nat) (l : List PartLine) : (s.setLines key l).clk = s.clk := rfl
@[simp] theorem State.setLines_sram (s : State) (key : Nat) (l : List PartLine) : (s.setLines key l).sram = s.sram := rfl
@[simp] theorem State.setLines_hbm (s : State) (key : Nat) (l : List PartLine) : (s.setLines key l).hbm = s.hbm := rfl
@[simp] theorem State.setLines_clusters (s : State) (key : Nat) (l : List PartLine) : (s.setLines key l).clusters = s.clusters := rfl
@[simp] theorem State.setLines_seqs (s : State) (key : Nat) (l : List PartLine) : (s.setLines key l).seqs = s.seqs := rfl
@[simp] theorem State.setLines_tick (s : State) (key : Nat) (l : List PartLine) : (s.setLines key l).tick = s.tick := rfl
@[simp] theorem State.setLines_job (s : State) (key : Nat) (l : List PartLine) : (s.setLines key l).job = s.job := rfl
@[simp] theorem State.setLines_host (s : State) (key : Nat) (l : List PartLine) : (s.setLines key l).host = s.host := rfl
@[simp] theorem State.setLines_fence (s : State) (key : Nat) (l : List PartLine) : (s.setLines key l).fence = s.fence := rfl
@[simp] theorem State.setLines_hbmStacks (s : State) (key : Nat) (l : List PartLine) : (s.setLines key l).hbmStacks = s.hbmStacks := rfl
@[simp] theorem State.setLines_und (s : State) (key : Nat) (l : List PartLine) : (s.setLines key l).und = s.und := rfl
@[simp] theorem State.setLines_sill (s : State) (key : Nat) (l : List PartLine) : (s.setLines key l).sill = s.sill := rfl
@[simp] theorem State.setLines_copies (s : State) (key : Nat) (l : List PartLine) : (s.setLines key l).copies = s.copies := rfl
@[simp] theorem State.setLines_fab (s : State) (key : Nat) (l : List PartLine) : (s.setLines key l).fab = s.fab := rfl
@[simp] theorem State.setLines_coll (s : State) (key : Nat) (l : List PartLine) : (s.setLines key l).coll = s.coll := rfl
@[simp] theorem State.setLines_seed (s : State) (key : Nat) (l : List PartLine) : (s.setLines key l).seed = s.seed := rfl
@[simp] theorem State.setLines_power (s : State) (key : Nat) (l : List PartLine) : (s.setLines key l).power = s.power := rfl
@[simp] theorem State.setLines_ranger (s : State) (key : Nat) (l : List PartLine) : (s.setLines key l).ranger = s.ranger := rfl
@[simp] theorem State.setLines_sec (s : State) (key : Nat) (l : List PartLine) : (s.setLines key l).sec = s.sec := rfl
@[simp] theorem State.setLines_jtag (s : State) (key : Nat) (l : List PartLine) : (s.setLines key l).jtag = s.jtag := rfl
@[simp] theorem State.setLines_ctr (s : State) (key : Nat) (l : List PartLine) : (s.setLines key l).ctr = s.ctr := rfl
@[simp] theorem State.setLines_free (s : State) (key : Nat) (l : List PartLine) : (s.setLines key l).free = s.free := rfl
@[simp] theorem State.setLines_tx (s : State) (key : Nat) (l : List PartLine) : (s.setLines key l).tx = s.tx := rfl
@[simp] theorem State.setLines_landed (s : State) (key : Nat) (l : List PartLine) : (s.setLines key l).landed = s.landed := rfl
@[simp] theorem State.setLines_pending (s : State) (key : Nat) (l : List PartLine) : (s.setLines key l).pending = s.pending := rfl

@[simp] theorem State.setCopyQueue_clk (s : State) (d q : Nat) (l : List CopyOp) : (s.setCopyQueue d q l).clk = s.clk := rfl
@[simp] theorem State.setCopyQueue_sram (s : State) (d q : Nat) (l : List CopyOp) : (s.setCopyQueue d q l).sram = s.sram := rfl
@[simp] theorem State.setCopyQueue_hbm (s : State) (d q : Nat) (l : List CopyOp) : (s.setCopyQueue d q l).hbm = s.hbm := rfl
@[simp] theorem State.setCopyQueue_clusters (s : State) (d q : Nat) (l : List CopyOp) : (s.setCopyQueue d q l).clusters = s.clusters := rfl
@[simp] theorem State.setCopyQueue_seqs (s : State) (d q : Nat) (l : List CopyOp) : (s.setCopyQueue d q l).seqs = s.seqs := rfl
@[simp] theorem State.setCopyQueue_tick (s : State) (d q : Nat) (l : List CopyOp) : (s.setCopyQueue d q l).tick = s.tick := rfl
@[simp] theorem State.setCopyQueue_job (s : State) (d q : Nat) (l : List CopyOp) : (s.setCopyQueue d q l).job = s.job := rfl
@[simp] theorem State.setCopyQueue_host (s : State) (d q : Nat) (l : List CopyOp) : (s.setCopyQueue d q l).host = s.host := rfl
@[simp] theorem State.setCopyQueue_fence (s : State) (d q : Nat) (l : List CopyOp) : (s.setCopyQueue d q l).fence = s.fence := rfl
@[simp] theorem State.setCopyQueue_hbmStacks (s : State) (d q : Nat) (l : List CopyOp) : (s.setCopyQueue d q l).hbmStacks = s.hbmStacks := rfl
@[simp] theorem State.setCopyQueue_parts (s : State) (d q : Nat) (l : List CopyOp) : (s.setCopyQueue d q l).parts = s.parts := rfl
@[simp] theorem State.setCopyQueue_und (s : State) (d q : Nat) (l : List CopyOp) : (s.setCopyQueue d q l).und = s.und := rfl
@[simp] theorem State.setCopyQueue_sill (s : State) (d q : Nat) (l : List CopyOp) : (s.setCopyQueue d q l).sill = s.sill := rfl
@[simp] theorem State.setCopyQueue_fab (s : State) (d q : Nat) (l : List CopyOp) : (s.setCopyQueue d q l).fab = s.fab := rfl
@[simp] theorem State.setCopyQueue_coll (s : State) (d q : Nat) (l : List CopyOp) : (s.setCopyQueue d q l).coll = s.coll := rfl
@[simp] theorem State.setCopyQueue_seed (s : State) (d q : Nat) (l : List CopyOp) : (s.setCopyQueue d q l).seed = s.seed := rfl
@[simp] theorem State.setCopyQueue_power (s : State) (d q : Nat) (l : List CopyOp) : (s.setCopyQueue d q l).power = s.power := rfl
@[simp] theorem State.setCopyQueue_ranger (s : State) (d q : Nat) (l : List CopyOp) : (s.setCopyQueue d q l).ranger = s.ranger := rfl
@[simp] theorem State.setCopyQueue_sec (s : State) (d q : Nat) (l : List CopyOp) : (s.setCopyQueue d q l).sec = s.sec := rfl
@[simp] theorem State.setCopyQueue_jtag (s : State) (d q : Nat) (l : List CopyOp) : (s.setCopyQueue d q l).jtag = s.jtag := rfl
@[simp] theorem State.setCopyQueue_ctr (s : State) (d q : Nat) (l : List CopyOp) : (s.setCopyQueue d q l).ctr = s.ctr := rfl
@[simp] theorem State.setCopyQueue_free (s : State) (d q : Nat) (l : List CopyOp) : (s.setCopyQueue d q l).free = s.free := rfl
@[simp] theorem State.setCopyQueue_tx (s : State) (d q : Nat) (l : List CopyOp) : (s.setCopyQueue d q l).tx = s.tx := rfl
@[simp] theorem State.setCopyQueue_landed (s : State) (d q : Nat) (l : List CopyOp) : (s.setCopyQueue d q l).landed = s.landed := rfl
@[simp] theorem State.setCopyQueue_pending (s : State) (d q : Nat) (l : List CopyOp) : (s.setCopyQueue d q l).pending = s.pending := rfl

@[simp] theorem State.setFabQueue_clk (s : State) (d q : Nat) (l : List FabOp) : (s.setFabQueue d q l).clk = s.clk := rfl
@[simp] theorem State.setFabQueue_sram (s : State) (d q : Nat) (l : List FabOp) : (s.setFabQueue d q l).sram = s.sram := rfl
@[simp] theorem State.setFabQueue_hbm (s : State) (d q : Nat) (l : List FabOp) : (s.setFabQueue d q l).hbm = s.hbm := rfl
@[simp] theorem State.setFabQueue_clusters (s : State) (d q : Nat) (l : List FabOp) : (s.setFabQueue d q l).clusters = s.clusters := rfl
@[simp] theorem State.setFabQueue_seqs (s : State) (d q : Nat) (l : List FabOp) : (s.setFabQueue d q l).seqs = s.seqs := rfl
@[simp] theorem State.setFabQueue_tick (s : State) (d q : Nat) (l : List FabOp) : (s.setFabQueue d q l).tick = s.tick := rfl
@[simp] theorem State.setFabQueue_job (s : State) (d q : Nat) (l : List FabOp) : (s.setFabQueue d q l).job = s.job := rfl
@[simp] theorem State.setFabQueue_host (s : State) (d q : Nat) (l : List FabOp) : (s.setFabQueue d q l).host = s.host := rfl
@[simp] theorem State.setFabQueue_fence (s : State) (d q : Nat) (l : List FabOp) : (s.setFabQueue d q l).fence = s.fence := rfl
@[simp] theorem State.setFabQueue_hbmStacks (s : State) (d q : Nat) (l : List FabOp) : (s.setFabQueue d q l).hbmStacks = s.hbmStacks := rfl
@[simp] theorem State.setFabQueue_parts (s : State) (d q : Nat) (l : List FabOp) : (s.setFabQueue d q l).parts = s.parts := rfl
@[simp] theorem State.setFabQueue_und (s : State) (d q : Nat) (l : List FabOp) : (s.setFabQueue d q l).und = s.und := rfl
@[simp] theorem State.setFabQueue_sill (s : State) (d q : Nat) (l : List FabOp) : (s.setFabQueue d q l).sill = s.sill := rfl
@[simp] theorem State.setFabQueue_copies (s : State) (d q : Nat) (l : List FabOp) : (s.setFabQueue d q l).copies = s.copies := rfl
@[simp] theorem State.setFabQueue_coll (s : State) (d q : Nat) (l : List FabOp) : (s.setFabQueue d q l).coll = s.coll := rfl
@[simp] theorem State.setFabQueue_seed (s : State) (d q : Nat) (l : List FabOp) : (s.setFabQueue d q l).seed = s.seed := rfl
@[simp] theorem State.setFabQueue_power (s : State) (d q : Nat) (l : List FabOp) : (s.setFabQueue d q l).power = s.power := rfl
@[simp] theorem State.setFabQueue_ranger (s : State) (d q : Nat) (l : List FabOp) : (s.setFabQueue d q l).ranger = s.ranger := rfl
@[simp] theorem State.setFabQueue_sec (s : State) (d q : Nat) (l : List FabOp) : (s.setFabQueue d q l).sec = s.sec := rfl
@[simp] theorem State.setFabQueue_jtag (s : State) (d q : Nat) (l : List FabOp) : (s.setFabQueue d q l).jtag = s.jtag := rfl
@[simp] theorem State.setFabQueue_ctr (s : State) (d q : Nat) (l : List FabOp) : (s.setFabQueue d q l).ctr = s.ctr := rfl
@[simp] theorem State.setFabQueue_free (s : State) (d q : Nat) (l : List FabOp) : (s.setFabQueue d q l).free = s.free := rfl
@[simp] theorem State.setFabQueue_tx (s : State) (d q : Nat) (l : List FabOp) : (s.setFabQueue d q l).tx = s.tx := rfl
@[simp] theorem State.setFabQueue_landed (s : State) (d q : Nat) (l : List FabOp) : (s.setFabQueue d q l).landed = s.landed := rfl
@[simp] theorem State.setFabQueue_pending (s : State) (d q : Nat) (l : List FabOp) : (s.setFabQueue d q l).pending = s.pending := rfl

@[simp] theorem State.putMb_clk (s : State) (mb off : Nat) (bs : List Byte) : (s.putMb mb off bs).clk = s.clk := rfl
@[simp] theorem State.putMb_sram (s : State) (mb off : Nat) (bs : List Byte) : (s.putMb mb off bs).sram = s.sram := rfl
@[simp] theorem State.putMb_hbm (s : State) (mb off : Nat) (bs : List Byte) : (s.putMb mb off bs).hbm = s.hbm := rfl
@[simp] theorem State.putMb_clusters (s : State) (mb off : Nat) (bs : List Byte) : (s.putMb mb off bs).clusters = s.clusters := rfl
@[simp] theorem State.putMb_seqs (s : State) (mb off : Nat) (bs : List Byte) : (s.putMb mb off bs).seqs = s.seqs := rfl
@[simp] theorem State.putMb_tick (s : State) (mb off : Nat) (bs : List Byte) : (s.putMb mb off bs).tick = s.tick := rfl
@[simp] theorem State.putMb_job (s : State) (mb off : Nat) (bs : List Byte) : (s.putMb mb off bs).job = s.job := rfl
@[simp] theorem State.putMb_host (s : State) (mb off : Nat) (bs : List Byte) : (s.putMb mb off bs).host = { s.host with mailbox := putBlock zeroByte (mbBase mb + off) bs s.host.mailbox } := rfl
@[simp] theorem State.putMb_fence (s : State) (mb off : Nat) (bs : List Byte) : (s.putMb mb off bs).fence = s.fence := rfl
@[simp] theorem State.putMb_hbmStacks (s : State) (mb off : Nat) (bs : List Byte) : (s.putMb mb off bs).hbmStacks = s.hbmStacks := rfl
@[simp] theorem State.putMb_parts (s : State) (mb off : Nat) (bs : List Byte) : (s.putMb mb off bs).parts = s.parts := rfl
@[simp] theorem State.putMb_und (s : State) (mb off : Nat) (bs : List Byte) : (s.putMb mb off bs).und = s.und := rfl
@[simp] theorem State.putMb_sill (s : State) (mb off : Nat) (bs : List Byte) : (s.putMb mb off bs).sill = s.sill := rfl
@[simp] theorem State.putMb_copies (s : State) (mb off : Nat) (bs : List Byte) : (s.putMb mb off bs).copies = s.copies := rfl
@[simp] theorem State.putMb_fab (s : State) (mb off : Nat) (bs : List Byte) : (s.putMb mb off bs).fab = s.fab := rfl
@[simp] theorem State.putMb_coll (s : State) (mb off : Nat) (bs : List Byte) : (s.putMb mb off bs).coll = s.coll := rfl
@[simp] theorem State.putMb_seed (s : State) (mb off : Nat) (bs : List Byte) : (s.putMb mb off bs).seed = s.seed := rfl
@[simp] theorem State.putMb_power (s : State) (mb off : Nat) (bs : List Byte) : (s.putMb mb off bs).power = s.power := rfl
@[simp] theorem State.putMb_ranger (s : State) (mb off : Nat) (bs : List Byte) : (s.putMb mb off bs).ranger = s.ranger := rfl
@[simp] theorem State.putMb_sec (s : State) (mb off : Nat) (bs : List Byte) : (s.putMb mb off bs).sec = s.sec := rfl
@[simp] theorem State.putMb_jtag (s : State) (mb off : Nat) (bs : List Byte) : (s.putMb mb off bs).jtag = s.jtag := rfl
@[simp] theorem State.putMb_ctr (s : State) (mb off : Nat) (bs : List Byte) : (s.putMb mb off bs).ctr = s.ctr := rfl
@[simp] theorem State.putMb_free (s : State) (mb off : Nat) (bs : List Byte) : (s.putMb mb off bs).free = s.free := rfl
@[simp] theorem State.putMb_tx (s : State) (mb off : Nat) (bs : List Byte) : (s.putMb mb off bs).tx = s.tx := rfl
@[simp] theorem State.putMb_landed (s : State) (mb off : Nat) (bs : List Byte) : (s.putMb mb off bs).landed = s.landed := rfl
@[simp] theorem State.putMb_pending (s : State) (mb off : Nat) (bs : List Byte) : (s.putMb mb off bs).pending = s.pending := rfl

@[simp] theorem State.setCore_clk (s : State) (n core : Nat) (f : Core → Core) : (s.setCore n core f).clk = s.clk := rfl
@[simp] theorem State.setCore_sram (s : State) (n core : Nat) (f : Core → Core) : (s.setCore n core f).sram = s.sram := rfl
@[simp] theorem State.setCore_hbm (s : State) (n core : Nat) (f : Core → Core) : (s.setCore n core f).hbm = s.hbm := rfl
@[simp] theorem State.setCore_clusters (s : State) (n core : Nat) (f : Core → Core) : (s.setCore n core f).clusters = Tab.put n { s.cluster n with cores := Machine.setCore (s.cluster n) core f } s.clusters := rfl
@[simp] theorem State.setCore_seqs (s : State) (n core : Nat) (f : Core → Core) : (s.setCore n core f).seqs = s.seqs := rfl
@[simp] theorem State.setCore_tick (s : State) (n core : Nat) (f : Core → Core) : (s.setCore n core f).tick = s.tick := rfl
@[simp] theorem State.setCore_job (s : State) (n core : Nat) (f : Core → Core) : (s.setCore n core f).job = s.job := rfl
@[simp] theorem State.setCore_host (s : State) (n core : Nat) (f : Core → Core) : (s.setCore n core f).host = s.host := rfl
@[simp] theorem State.setCore_fence (s : State) (n core : Nat) (f : Core → Core) : (s.setCore n core f).fence = s.fence := rfl
@[simp] theorem State.setCore_hbmStacks (s : State) (n core : Nat) (f : Core → Core) : (s.setCore n core f).hbmStacks = s.hbmStacks := rfl
@[simp] theorem State.setCore_parts (s : State) (n core : Nat) (f : Core → Core) : (s.setCore n core f).parts = s.parts := rfl
@[simp] theorem State.setCore_und (s : State) (n core : Nat) (f : Core → Core) : (s.setCore n core f).und = s.und := rfl
@[simp] theorem State.setCore_sill (s : State) (n core : Nat) (f : Core → Core) : (s.setCore n core f).sill = s.sill := rfl
@[simp] theorem State.setCore_copies (s : State) (n core : Nat) (f : Core → Core) : (s.setCore n core f).copies = s.copies := rfl
@[simp] theorem State.setCore_fab (s : State) (n core : Nat) (f : Core → Core) : (s.setCore n core f).fab = s.fab := rfl
@[simp] theorem State.setCore_coll (s : State) (n core : Nat) (f : Core → Core) : (s.setCore n core f).coll = s.coll := rfl
@[simp] theorem State.setCore_seed (s : State) (n core : Nat) (f : Core → Core) : (s.setCore n core f).seed = s.seed := rfl
@[simp] theorem State.setCore_power (s : State) (n core : Nat) (f : Core → Core) : (s.setCore n core f).power = s.power := rfl
@[simp] theorem State.setCore_ranger (s : State) (n core : Nat) (f : Core → Core) : (s.setCore n core f).ranger = s.ranger := rfl
@[simp] theorem State.setCore_sec (s : State) (n core : Nat) (f : Core → Core) : (s.setCore n core f).sec = s.sec := rfl
@[simp] theorem State.setCore_jtag (s : State) (n core : Nat) (f : Core → Core) : (s.setCore n core f).jtag = s.jtag := rfl
@[simp] theorem State.setCore_ctr (s : State) (n core : Nat) (f : Core → Core) : (s.setCore n core f).ctr = s.ctr := rfl
@[simp] theorem State.setCore_free (s : State) (n core : Nat) (f : Core → Core) : (s.setCore n core f).free = s.free := rfl
@[simp] theorem State.setCore_tx (s : State) (n core : Nat) (f : Core → Core) : (s.setCore n core f).tx = s.tx := rfl
@[simp] theorem State.setCore_landed (s : State) (n core : Nat) (f : Core → Core) : (s.setCore n core f).landed = s.landed := rfl
@[simp] theorem State.setCore_pending (s : State) (n core : Nat) (f : Core → Core) : (s.setCore n core f).pending = s.pending := rfl

@[simp] theorem State.nextWord_clk (s : State) (n core pc latency : Nat) : (s.nextWord n core pc latency).clk = s.clk := rfl
@[simp] theorem State.nextWord_sram (s : State) (n core pc latency : Nat) : (s.nextWord n core pc latency).sram = s.sram := rfl
@[simp] theorem State.nextWord_hbm (s : State) (n core pc latency : Nat) : (s.nextWord n core pc latency).hbm = s.hbm := rfl
@[simp] theorem State.nextWord_seqs (s : State) (n core pc latency : Nat) : (s.nextWord n core pc latency).seqs = s.seqs := rfl
@[simp] theorem State.nextWord_tick (s : State) (n core pc latency : Nat) : (s.nextWord n core pc latency).tick = s.tick := rfl
@[simp] theorem State.nextWord_job (s : State) (n core pc latency : Nat) : (s.nextWord n core pc latency).job = s.job := rfl
@[simp] theorem State.nextWord_host (s : State) (n core pc latency : Nat) : (s.nextWord n core pc latency).host = s.host := rfl
@[simp] theorem State.nextWord_fence (s : State) (n core pc latency : Nat) : (s.nextWord n core pc latency).fence = s.fence := rfl
@[simp] theorem State.nextWord_hbmStacks (s : State) (n core pc latency : Nat) : (s.nextWord n core pc latency).hbmStacks = s.hbmStacks := rfl
@[simp] theorem State.nextWord_parts (s : State) (n core pc latency : Nat) : (s.nextWord n core pc latency).parts = s.parts := rfl
@[simp] theorem State.nextWord_und (s : State) (n core pc latency : Nat) : (s.nextWord n core pc latency).und = s.und := rfl
@[simp] theorem State.nextWord_sill (s : State) (n core pc latency : Nat) : (s.nextWord n core pc latency).sill = s.sill := rfl
@[simp] theorem State.nextWord_copies (s : State) (n core pc latency : Nat) : (s.nextWord n core pc latency).copies = s.copies := rfl
@[simp] theorem State.nextWord_fab (s : State) (n core pc latency : Nat) : (s.nextWord n core pc latency).fab = s.fab := rfl
@[simp] theorem State.nextWord_coll (s : State) (n core pc latency : Nat) : (s.nextWord n core pc latency).coll = s.coll := rfl
@[simp] theorem State.nextWord_seed (s : State) (n core pc latency : Nat) : (s.nextWord n core pc latency).seed = s.seed := rfl
@[simp] theorem State.nextWord_power (s : State) (n core pc latency : Nat) : (s.nextWord n core pc latency).power = s.power := rfl
@[simp] theorem State.nextWord_ranger (s : State) (n core pc latency : Nat) : (s.nextWord n core pc latency).ranger = s.ranger := rfl
@[simp] theorem State.nextWord_sec (s : State) (n core pc latency : Nat) : (s.nextWord n core pc latency).sec = s.sec := rfl
@[simp] theorem State.nextWord_jtag (s : State) (n core pc latency : Nat) : (s.nextWord n core pc latency).jtag = s.jtag := rfl
@[simp] theorem State.nextWord_ctr (s : State) (n core pc latency : Nat) : (s.nextWord n core pc latency).ctr = s.ctr := rfl
@[simp] theorem State.nextWord_free (s : State) (n core pc latency : Nat) : (s.nextWord n core pc latency).free = s.free := rfl
@[simp] theorem State.nextWord_tx (s : State) (n core pc latency : Nat) : (s.nextWord n core pc latency).tx = s.tx := rfl
@[simp] theorem State.nextWord_landed (s : State) (n core pc latency : Nat) : (s.nextWord n core pc latency).landed = s.landed := rfl
@[simp] theorem State.nextWord_pending (s : State) (n core pc latency : Nat) : (s.nextWord n core pc latency).pending = s.pending := rfl

end Sys2Proof.Machine
end

