-- ==== Sys2Proof/Laws/Memory.lean ====
section
/-! SUPPORT. The sparse tables and the byte memories: what a write leaves to be read, that it leaves every other place
alone, and that it keeps the canonical form. -/

namespace Sys2Proof.Machine

/-! ### Tables -/

@[simp] theorem Tab.find_put_same {V : Type} (k : Nat) (v : V) (m : Tab V) : Tab.find k (Tab.put k v m) = some v := by
  induction m with
  | nil => simp [Tab.put, Tab.find]
  | cons p m ih =>
    obtain ⟨j, w⟩ := p
    unfold Tab.put
    split
    · simp [Tab.find]
    · split
      · simp [Tab.find]
      · rw [Tab.find, if_neg (by omega), ih]

theorem Tab.find_put_other {V : Type} (k j : Nat) (v : V) (m : Tab V) (h : j ≠ k) :
    Tab.find j (Tab.put k v m) = Tab.find j m := by
  induction m with
  | nil => simp [Tab.put, Tab.find, Ne.symm h]
  | cons p m ih =>
    obtain ⟨i, w⟩ := p
    unfold Tab.put
    split
    · simp [Tab.find, Ne.symm h]
    · split
      · subst i; simp [Tab.find, Ne.symm h]
      · simp [Tab.find, ih]

@[simp] theorem Tab.get_put_same {V : Type} (d : V) (k : Nat) (v : V) (m : Tab V) : Tab.get d k (Tab.put k v m) = v := by
  simp [Tab.get]

theorem Tab.get_put_other {V : Type} (d : V) (k j : Nat) (v : V) (m : Tab V) (h : j ≠ k) :
    Tab.get d j (Tab.put k v m) = Tab.get d j m := by
  simp [Tab.get, Tab.find_put_other k j v m h]

/-- Of two settings of one key the second stands. -/
@[simp] theorem Tab.put_put {V : Type} (k : Nat) (v w : V) (m : Tab V) : Tab.put k w (Tab.put k v m) = Tab.put k w m := by
  induction m with
  | nil => simp [Tab.put]
  | cons p m ih =>
    obtain ⟨j, x⟩ := p
    by_cases h : k < j
    · simp [Tab.put, h]
    · by_cases e : k = j <;> simp [Tab.put, h, e, ih]

/-- The cluster that was set. -/
@[simp] theorem State.cluster_setCluster (s : State) (n : Nat) (c : Cluster) : (s.setCluster n c).cluster n = c := by
  simp [State.cluster]

theorem State.cluster_setCluster_other (s : State) (n m : Nat) (c : Cluster) (h : m ≠ n) :
    (s.setCluster n c).cluster m = s.cluster m := by
  simp [State.cluster, Tab.get_put_other _ _ _ _ _ h]

@[simp] theorem State.setCluster_setCluster (s : State) (n : Nat) (c d : Cluster) :
    (s.setCluster n c).setCluster n d = s.setCluster n d := by
  unfold State.setCluster; simp

@[simp] theorem State.setSeq_setSeq (s : State) (d : Nat) (q r : Seq) : (s.setSeq d q).setSeq d r = s.setSeq d r := by
  unfold State.setSeq; simp

@[simp] theorem State.seq_setSeq (s : State) (d : Nat) (q : Seq) : (s.setSeq d q).seq d = q := by
  simp [State.seq]

theorem State.seq_setSeq_other (s : State) (d e : Nat) (q : Seq) (h : e ≠ d) : (s.setSeq d q).seq e = s.seq e := by
  simp [State.seq, Tab.get_put_other _ _ _ _ _ h]

/-! ### Cells -/

/-- Cells with strictly rising addresses from a bound on, none equal to the default. -/
def Cells.rises {V : Type} (d : V) : Nat → List (Nat × V) → Prop
  | _, [] => True
  | lo, (j, v) :: m => lo ≤ j ∧ v ≠ d ∧ Cells.rises d (j + 1) m

theorem Cells.rises_mono {V : Type} {d : V} {m : List (Nat × V)} {lo hi : Nat} (h : Cells.rises d hi m) (hl : lo ≤ hi) :
    Cells.rises d lo m := by
  cases m with
  | nil => trivial
  | cons p m => exact ⟨by have := h.1; omega, h.2⟩

theorem Cells.wf_iff {V : Type} [DecidableEq V] (d : V) (m : List (Nat × V)) : Cells.wf d m = true ↔ Cells.rises d 0 m := by
  have key : ∀ (m : List (Nat × V)) (lo : Nat), Cells.rises d lo m ↔ (∀ p, m.head? = some p → lo ≤ p.1) ∧ Cells.wf d m = true := by
    intro m
    induction m with
    | nil => intro lo; simp [Cells.rises, Cells.wf]
    | cons p m ih =>
      intro lo
      obtain ⟨j, v⟩ := p
      simp only [Cells.rises, ih]
      cases m with
      | nil => simp [Cells.wf]
      | cons q m =>
        obtain ⟨k, w⟩ := q
        simp only [Cells.wf, List.head?_cons, Option.some.injEq, forall_eq', Bool.and_eq_true, decide_eq_true_eq, Nat.succ_le_iff, and_assoc]
  have h := key m 0
  simpa using h.symm

theorem Cells.rises_block {V : Type} [DecidableEq V] (d : V) (vs : List V) (a hi : Nat) (m : List (Nat × V))
    (hm : Cells.rises d hi m) (h : a + vs.length ≤ hi) : Cells.rises d a (blockCells d a vs ++ m) := by
  induction vs generalizing a with
  | nil => exact Cells.rises_mono hm (by simpa [blockCells] using h)
  | cons v vs ih =>
    simp only [List.length_cons] at h
    unfold blockCells
    split
    · exact Cells.rises_mono (ih (a + 1) (by omega)) (by omega)
    · exact ⟨Nat.le_refl _, by assumption, ih (a + 1) (by omega)⟩

theorem Cells.rises_below {V : Type} (d : V) (a lo : Nat) (m r : List (Nat × V)) (hm : Cells.rises d lo m)
    (hr : Cells.rises d (max a lo) r) : Cells.rises d lo (cellsBelow a m ++ r) := by
  induction m generalizing lo with
  | nil => exact Cells.rises_mono hr (by omega)
  | cons p m ih =>
    obtain ⟨j, v⟩ := p
    unfold cellsBelow
    split
    · exact ⟨hm.1, hm.2.1, ih (j + 1) hm.2.2 (Cells.rises_mono hr (by have := hm.1; omega))⟩
    · exact Cells.rises_mono hr (by omega)

theorem Cells.rises_cellsFrom {V : Type} (d : V) (a lo : Nat) (m : List (Nat × V)) (hm : Cells.rises d lo m) :
    Cells.rises d (max a lo) (cellsFrom a m) := by
  induction m generalizing lo with
  | nil => trivial
  | cons p m ih =>
    obtain ⟨j, v⟩ := p
    unfold cellsFrom
    split
    · exact Cells.rises_mono (ih (j + 1) hm.2.2) (by have := hm.1; omega)
    · exact ⟨by have := hm.1; omega, hm.2⟩

/-- Writing a block keeps the canonical form. -/
theorem Cells.wf_putBlock {V : Type} [DecidableEq V] (d : V) (a : Nat) (vs : List V) (m : List (Nat × V))
    (h : Cells.wf d m = true) : Cells.wf d (putBlock d a vs m) = true := by
  rw [Cells.wf_iff] at *
  exact Cells.rises_below d a 0 m _ h
    (Cells.rises_mono (Cells.rises_block d vs a _ _ (Cells.rises_cellsFrom d (a + vs.length) 0 m h) (by omega)) (by omega))

/-- Erasing a block keeps the canonical form. -/
theorem Cells.wf_eraseBlock {V : Type} [DecidableEq V] (d : V) (a n : Nat) (m : List (Nat × V))
    (h : Cells.wf d m = true) : Cells.wf d (eraseBlock a n m) = true := by
  rw [Cells.wf_iff] at *
  exact Cells.rises_below d a 0 m _ h (Cells.rises_mono (Cells.rises_cellsFrom d (a + n) 0 m h) (by omega))

theorem Memory.wf_putBlock (a : Nat) (bs : List Byte) (m : List Host.Cell) (h : Memory.wf m = true) :
    Memory.wf (putBlock zeroByte a bs m) = true := Cells.wf_putBlock _ _ _ _ h

theorem Memory.wf_eraseBlock (a n : Nat) (m : List Host.Cell) (h : Memory.wf m = true) :
    Memory.wf (eraseBlock a n m) = true := Cells.wf_eraseBlock _ _ _ _ h

/-! ### Reads -/

theorem cellAt_low {V : Type} (d : V) (lo k : Nat) (m : List (Nat × V)) (hm : Cells.rises d lo m) (h : k < lo) :
    cellAt d k m = d := by
  cases m with
  | nil => rfl
  | cons p m =>
    obtain ⟨j, v⟩ := p
    have := hm.1
    rw [cellAt, if_neg (by omega), if_pos (by omega)]

theorem cellAt_below {V : Type} (d : V) (a k lo : Nat) (m r : List (Nat × V)) (hm : Cells.rises d lo m)
    (hr : Cells.rises d a r) (h : k < a) : cellAt d k (cellsBelow a m ++ r) = cellAt d k m := by
  induction m generalizing lo with
  | nil => simp [cellsBelow, cellAt, cellAt_low d a k r hr h]
  | cons p m ih =>
    obtain ⟨j, v⟩ := p
    unfold cellsBelow
    split
    · simp only [List.cons_append, cellAt, ih (j + 1) hm.2.2]
    · rw [List.nil_append, cellAt_low d a k r hr h, cellAt, if_neg (by omega), if_pos (by omega)]

theorem cellAt_above {V : Type} (d : V) (a k : Nat) (m r : List (Nat × V)) (h : a ≤ k) :
    cellAt d k (cellsBelow a m ++ r) = cellAt d k r := by
  induction m with
  | nil => rfl
  | cons p m ih =>
    obtain ⟨j, v⟩ := p
    unfold cellsBelow
    split
    · rw [List.cons_append, cellAt, if_neg (by omega), if_neg (by omega), ih]
    · rfl

theorem cellAt_cellsFrom {V : Type} (d : V) (a k lo : Nat) (m : List (Nat × V)) (hm : Cells.rises d lo m) (h : a ≤ k) :
    cellAt d k (cellsFrom a m) = cellAt d k m := by
  induction m generalizing lo with
  | nil => rfl
  | cons p m ih =>
    obtain ⟨j, v⟩ := p
    unfold cellsFrom
    split
    · rw [ih (j + 1) hm.2.2, cellAt, if_neg (by omega), if_neg (by omega)]
    · rfl

theorem cellAt_blockCells {V : Type} [DecidableEq V] (d : V) (vs : List V) (a k : Nat) (m : List (Nat × V))
    (hm : Cells.rises d (a + vs.length) m) :
    cellAt d k (blockCells d a vs ++ m) = if a ≤ k ∧ k < a + vs.length then vs.getD (k - a) d else cellAt d k m := by
  induction vs generalizing a with
  | nil => rw [if_neg (by simp only [List.length_nil]; omega)]; rfl
  | cons v vs ih =>
    simp only [List.length_cons] at hm ⊢
    have hm' : Cells.rises d (a + 1 + vs.length) m := Cells.rises_mono hm (by omega)
    have step := ih (a + 1) hm'
    unfold blockCells
    by_cases hk : k = a
    · subst hk
      by_cases hv : v = d
      · rw [if_pos hv, step, if_neg (by omega), if_pos (by omega), cellAt_low d _ k m hm' (by omega)]; simp [hv]
      · rw [if_neg hv, if_pos (by omega)]; simp [cellAt]
    · have tail : cellAt d k (blockCells d (a + 1) vs ++ m) =
          if a ≤ k ∧ k < a + (vs.length + 1) then (v :: vs).getD (k - a) d else cellAt d k m := by
        rw [step]
        by_cases hin : a + 1 ≤ k ∧ k < a + 1 + vs.length
        · rw [if_pos hin, if_pos (by omega)]
          obtain ⟨n, hn⟩ : ∃ n, k - a = n + 1 := ⟨k - a - 1, by omega⟩
          rw [hn, show k - (a + 1) = n by omega]; rfl
        · rw [if_neg hin, if_neg (by omega)]
      split
      · exact tail
      · by_cases hlt : k < a
        · rw [List.cons_append, cellAt, if_neg (by omega), if_pos hlt, if_neg (by omega), cellAt_low d _ k m hm' (by omega)]
        · rw [List.cons_append, cellAt, if_neg (by omega), if_neg hlt, tail]

/-- A byte read after a block is written: the block's inside it, the old one outside. -/
theorem cellAt_putBlock {V : Type} [DecidableEq V] (d : V) (a k : Nat) (vs : List V) (m : List (Nat × V))
    (h : Cells.wf d m = true) :
    cellAt d k (putBlock d a vs m) = if a ≤ k ∧ k < a + vs.length then vs.getD (k - a) d else cellAt d k m := by
  rw [Cells.wf_iff] at h
  have hf := Cells.rises_cellsFrom d (a + vs.length) 0 m h
  have hb : Cells.rises d a (blockCells d a vs ++ cellsFrom (a + vs.length) m) :=
    Cells.rises_block d vs a _ _ (Cells.rises_mono hf (Nat.le_max_left _ _)) (Nat.le_refl _)
  unfold putBlock
  by_cases hk : k < a
  · rw [cellAt_below d a k 0 m _ h hb hk, if_neg (by omega)]
  · rw [cellAt_above d a k m _ (by omega), cellAt_blockCells d vs a k _ (Cells.rises_mono hf (Nat.le_max_left _ _))]
    by_cases hin : a ≤ k ∧ k < a + vs.length
    · rw [if_pos hin, if_pos hin]
    · rw [if_neg hin, if_neg hin, cellAt_cellsFrom d _ k 0 m h (by omega)]

/-- A byte read after a block is erased. -/
theorem cellAt_eraseBlock {V : Type} [DecidableEq V] (d : V) (a n k : Nat) (m : List (Nat × V)) (h : Cells.wf d m = true) :
    cellAt d k (eraseBlock a n m) = if a ≤ k ∧ k < a + n then d else cellAt d k m := by
  rw [Cells.wf_iff] at h
  have hf := Cells.rises_cellsFrom d (a + n) 0 m h
  unfold eraseBlock
  by_cases hk : k < a
  · rw [cellAt_below d a k 0 m _ h (Cells.rises_mono hf (by omega)) hk, if_neg (by omega)]
  · rw [cellAt_above d a k m _ (by omega)]
    by_cases hin : a ≤ k ∧ k < a + n
    · rw [if_pos hin, cellAt_low d _ k _ hf (by omega)]
    · rw [if_neg hin, cellAt_cellsFrom d _ k 0 m h (by omega)]

theorem takeBlock_cellAt {V : Type} (d : V) (n a : Nat) (m : List (Nat × V)) (hm : Cells.rises d a m) :
    takeBlock d n a m = (List.range n).map (fun i => cellAt d (a + i) m) := by
  have nil : ∀ n a, takeBlock d n a ([] : List (Nat × V)) = List.replicate n d := by
    intro n
    induction n with
    | zero => intro a; rfl
    | succ n ih => intro a; rw [takeBlock, ih]; rfl
  induction n generalizing a m with
  | zero => cases m <;> rfl
  | succ n ih =>
    rw [List.range_succ_eq_map]
    cases m with
    | nil =>
      rw [nil]
      apply List.ext_getElem
      · simp
      · intro i h1 h2
        cases i <;> simp [cellAt]
    | cons p m =>
      obtain ⟨j, v⟩ := p
      simp only [takeBlock, List.map_cons, List.map_map, Nat.add_zero]
      split
      · rename_i hj
        subst hj
        rw [ih (j + 1) m hm.2.2]
        simp only [cellAt, if_true, List.cons.injEq, true_and]
        apply List.map_congr_left
        intro i _
        simp only [Function.comp]
        rw [if_neg (by omega), if_neg (by omega)]
        congr 1; omega
      · rename_i hj
        have hja : a + 1 ≤ j := by have := hm.1; omega
        rw [ih (a + 1) ((j, v) :: m) ⟨hja, hm.2⟩]
        rw [show cellAt d a ((j, v) :: m) = d by rw [cellAt, if_neg (by omega), if_pos (by omega)]]
        simp only [List.cons.injEq, true_and]
        apply List.map_congr_left
        intro i _
        simp only [Function.comp]
        congr 1; omega

/-- A block read is the bytes of its addresses. -/
theorem getBlock_cellAt {V : Type} [DecidableEq V] (d : V) (a n : Nat) (m : List (Nat × V)) (h : Cells.wf d m = true) :
    getBlock d a n m = (List.range n).map (fun i => cellAt d (a + i) m) := by
  rw [Cells.wf_iff] at h
  unfold getBlock
  rw [takeBlock_cellAt d n a _ (Cells.rises_mono (Cells.rises_cellsFrom d a 0 m h) (Nat.le_max_left _ _))]
  apply List.map_congr_left
  intro i _
  exact cellAt_cellsFrom d a _ 0 m h (by omega)

/-- A block read after it is written. -/
theorem getBlock_putBlock {V : Type} [DecidableEq V] (d : V) (a : Nat) (vs : List V) (m : List (Nat × V))
    (h : Cells.wf d m = true) : getBlock d a vs.length (putBlock d a vs m) = vs := by
  rw [getBlock_cellAt d a _ _ (Cells.wf_putBlock d a vs m h)]
  apply List.ext_getElem
  · simp
  · intro i h1 h2
    simp only [List.getElem_map, List.getElem_range]
    rw [cellAt_putBlock d a _ vs m h, if_pos (by simp at h1; omega)]
    simp [List.getElem?_eq_getElem h2]

end Sys2Proof.Machine
end

