-- ==== Sys2Proof/Laws/Settle.lean ====
section
/-! SUPPORT. What raising a vector, a record, a report, a hold and the end of every command may change. -/

namespace Sys2Proof.Machine

theorem State.sendVector_same (s : State) (v : Nat) : sameBut [.host, .tx] s (s.sendVector v) := by
  intro f hf
  unfold State.sendVector
  split <;> cases f <;> simp [Field.same] at hf ⊢

theorem sameBut.trans {fs : List Field} {s t u : State} (h : sameBut fs s t) (k : sameBut fs t u) : sameBut fs s u := by
  intro f hf
  have a := h f hf
  have b := k f hf
  cases f <;> simp only [Field.same] at a b ⊢ <;> rw [b, a]

theorem State.raise_same (s : State) (v : Nat) : sameBut [.host, .tx] s (s.raise v) := by
  intro f hf
  unfold State.raise
  refine sameBut.trans ?_ (State.sendVector_same _ v) f hf
  intro f hf; cases f <;> simp [Field.same] at hf ⊢

theorem sameBut.weaken {fs gs : List Field} {s t : State} (h : sameBut fs s t) (k : ∀ f ∈ fs, f ∈ gs) : sameBut gs s t :=
  fun f hf => h f (fun m => hf (k f m))

/-- What an outer operation may change, after what the inner ones may. -/
theorem sameBut.after {fs gs : List Field} {s t u : State} (h : sameBut gs t u) (k : ∀ f ∈ gs, f ∈ fs) (p : sameBut fs s t) :
    sameBut fs s u := p.trans (h.weaken k)

theorem sameBut.refl (fs : List Field) (s : State) : sameBut fs s s := by
  intro f _; cases f <;> rfl

/-- A fold of steps that keep a member keeps it. -/
theorem sameBut.fold {α : Type} {fs : List Field} {f : State → α → State} (h : ∀ s a, sameBut fs s (f s a)) (l : List α)
    (s : State) : sameBut fs s (l.foldl f s) := by
  induction l generalizing s with
  | nil => exact sameBut.refl fs s
  | cons a l ih => exact (h s a).trans (ih (f s a))

theorem State.count_same (s : State) (key k : Nat) : sameBut [.ctr] s (s.count key k) := by
  intro f hf
  unfold State.count
  split <;> cases f <;> simp [Field.same] at hf ⊢

theorem State.flushVector_same (s : State) (v : Nat) : sameBut [.host, .tx] s (s.flushVector v) := by
  unfold State.flushVector
  split
  · exact (sameBut.trans (by intro f hf; cases f <;> simp [Field.same] at hf ⊢) (State.sendVector_same _ v))
  · exact sameBut.refl _ _

theorem State.flushVectors_same (s : State) : sameBut [.host, .tx] s s.flushVectors :=
  sameBut.fold State.flushVector_same _ s

theorem State.sensorEvent_same (s : State) (a b : Nat) : sameBut [.tx] s (s.sensorEvent a b) := by
  intro f hf; cases f <;> simp [Field.same, State.sensorEvent] at hf ⊢

theorem State.tellSensors_same (s : State) : sameBut [.ranger, .tx] s s.tellSensors := by
  have one (s : State) (a b : Nat) (r : RangerUnit) : sameBut [.ranger, .tx] s ((s.setRanger r).sensorEvent a b) :=
    sameBut.trans (by intro f hf; cases f <;> simp [Field.same] at hf ⊢)
      ((State.sensorEvent_same _ a b).weaken (by simp))
  unfold State.tellSensors
  simp only []
  split <;> split
  · exact sameBut.refl _ _
  · exact one _ _ _ _
  · exact one _ _ _ _
  · exact (one _ _ _ _).trans (one _ _ _ _)

/-- A job that no fence must hold goes on: the end of a command changes only what leaves the device, the pending
vectors and what the sensors last told. -/
theorem State.settle_same (s : State) (h : s.mustHold = false) : sameBut [.ranger, .tx, .host] s s.settle := by
  unfold State.settle
  simp only [h, Bool.false_eq_true, if_false]
  exact ((State.tellSensors_same s).weaken (by simp)).trans ((State.flushVectors_same _).weaken (by simp))

theorem State.mustHold_congr {s t : State} (hj : t.job = s.job) (hf : t.fence = s.fence) : t.mustHold = s.mustHold := by
  simp [State.mustHold, hj, hf]

theorem State.setJobState_state (s : State) (j : JobState) : (s.setJobState j).job.state = j := by
  unfold State.setJobState
  split
  · assumption
  · have h := State.raise_same ((s.setJob { s.job with state := j }).addTrace 4 0 [BitVec.ofNat 8 j.code]) 33 .job (by simp)
    simp only [Field.same] at h
    rw [h]; rfl

theorem State.sendReport_same (s : State) (b : List Byte) : sameBut [.tx] s (s.sendReport b) :=
  sameBut.fold (fun s c => by intro f hf; cases f <;> simp [Field.same] at hf ⊢) _ s

theorem State.addTrace_same (s : State) (k c : Nat) (d : List Byte) : sameBut [.ranger] s (s.addTrace k c d) := by
  intro f hf; unfold State.addTrace; cases f <;> simp [Field.same] at hf ⊢

theorem State.setRanger_same (s : State) (r : RangerUnit) : sameBut [.ranger] s (s.setRanger r) := by
  intro f hf; cases f <;> simp [Field.same] at hf ⊢

theorem State.setRanger_sendReport_same (s : State) (r : RangerUnit) (m : List Byte) :
    sameBut [.ranger, .tx] s ((s.setRanger r).sendReport m) :=
  ((State.setRanger_same s r).weaken (by simp)).trans ((State.sendReport_same _ m).weaken (by simp))

theorem State.report_same (s : State) (k : Nat) (b : List Byte) : sameBut [.ranger, .tx] s (s.report k b) := by
  unfold State.report
  by_cases h : s.ranger.reports.length ≥ 64
  · simp only [h, if_true]
    have first := (State.addTrace_same s 7 0
      (leBytes 4 ((Option.map (fun x => x.rnum) s.ranger.reports.head?).getD 0))).weaken (gs := [.ranger, .tx]) (by simp)
    generalize s.addTrace 7 0 (leBytes 4 ((Option.map (fun x => x.rnum) s.ranger.reports.head?).getD 0)) = u at first ⊢
    refine first.trans ?_
    apply State.setRanger_sendReport_same
  · simp only [h, if_false]
    apply State.setRanger_sendReport_same

@[simp] theorem State.raise_job (s : State) (v : Nat) : (s.raise v).job = s.job := State.raise_same s v .job (by simp)
@[simp] theorem State.addTrace_job (s : State) (k c : Nat) (d : List Byte) : (s.addTrace k c d).job = s.job := rfl

theorem State.complete_held (s : State) (a : Accepted) (st dt : Nat) (r : List Byte) (h : s.job.state = .held) :
    (s.complete a st dt r).job = s.job := by
  have back : s.stateBack a = s := by simp [State.stateBack, h]
  unfold State.complete
  simp only [back, State.raise_job, State.addTrace_job, State.putMb_job, State.setHost_job]

theorem State.abortWaiting_held (s : State) (h : s.job.state = .held) : s.abortWaiting.job = s.job := by
  unfold State.abortWaiting
  split
  · rfl
  · split
    · simp only [State.finishLong]
      split
      · rfl
      · exact State.complete_held _ _ _ _ _ h
    · rfl

/-- R480: a holdable job is held. -/
theorem State.hold_state (s : State) (r : FaultRec) (h : s.job.state.holdable = true) : (s.hold r).job.state = .held := by
  unfold State.hold
  simp only [h, if_true]
  have hs := State.setJobState_state (s.abandon.record { r with action := r.action ||| 1 }) .held
  have hr := State.report_same ((s.abandon.record { r with action := r.action ||| 1 }).setJobState .held) 0x41
    ((((s.abandon.record { r with action := r.action ||| 1 }).setJobState .held).fence.ring.head?.map FaultRec.bytes).getD [])
    .job (by simp)
  simp only [Field.same] at hr
  rw [State.abortWaiting_held _ (by rw [hr, hs]), hr, hs]

/-! ### Pending vectors -/

theorem State.maySend_congr {s t : State} (h : t.host.irqMask = s.host.irqMask) (p : t.host.pcie = s.host.pcie)
    (m : t.host.msixTable = s.host.msixTable) (v : Nat) : t.maySend v = s.maySend v := by
  simp [State.maySend, h, p, m]

/-- What one pending vector's turn leaves pending. -/
theorem State.flushVector_due (s : State) (v w : Nat) :
    (s.flushVector v).maySend w = s.maySend w ∧
    ((s.flushVector v).host.pba.getLsbD w = true → s.host.pba.getLsbD w = true ∧ (w = v → s.maySend v = false)) := by
  unfold State.flushVector
  split
  · rename_i hp
    have keep : ∀ u, (s.setHost { s.host with pba := u }).maySend w = s.maySend w := fun u => State.maySend_congr rfl rfl rfl w
    have keepv : ∀ u, (s.setHost { s.host with pba := u }).maySend v = s.maySend v := fun u => State.maySend_congr rfl rfl rfl v
    unfold State.sendVector
    rw [keepv]
    split
    · refine ⟨State.maySend_congr rfl rfl rfl w, ?_⟩
      simp only [State.send_host, State.setHost_host, BitVec.getLsbD_and, BitVec.getLsbD_not, BitVec.getLsbD_twoPow]
      intro h
      simp only [Bool.and_eq_true, Bool.not_eq_true', Bool.and_eq_false_iff, decide_eq_false_iff_not, decide_eq_true_eq] at h
      refine ⟨h.1, fun e => ?_⟩
      omega
    · rename_i hm
      refine ⟨State.maySend_congr rfl rfl rfl w, ?_⟩
      intro h
      by_cases e : w = v
      · subst e; exact ⟨hp, fun _ => by simpa using hm⟩
      · simp only [State.setHost_host, BitVec.getLsbD_or, BitVec.getLsbD_and, BitVec.getLsbD_twoPow] at h
        simp only [Ne.symm e, decide_false, Bool.and_false, Bool.or_false, Bool.and_eq_true] at h
        exact ⟨h.1, fun f => absurd f e⟩
  · rename_i hp
    exact ⟨rfl, fun h => ⟨h, fun e => absurd (e ▸ h) hp⟩⟩

end Sys2Proof.Machine
end

