-- ==== Sys2Proof/Laws/Effects.lean ====
section
/-! SUPPORT. What the writes of operations may change as they land (R50): the memories and what the cache partition and the pages
hold of them, the clusters, the collectives and the counters. -/

namespace Sys2Proof.Machine

/-- One update of a member that a frame lists. -/
theorem sameBut.one {fs : List Field} {s t : State} (h : ∀ f, f ∉ fs → f.same s t) : sameBut fs s t := h

theorem sameBut.of_eq {fs : List Field} {s t : State} (h : t = s) : sameBut fs s t := h ▸ sameBut.refl fs s

/-- A pair's state that a fold carries. -/
theorem sameBut.foldPair {α β : Type} {fs : List Field} {f : State × β → α → State × β}
    (h : ∀ p a, sameBut fs p.1 (f p a).1) (l : List α) (p : State × β) : sameBut fs p.1 (l.foldl f p).1 := by
  induction l generalizing p with
  | nil => exact sameBut.refl fs p.1
  | cons a l ih => exact (h p a).trans (ih (f p a))

theorem State.setLines_same (s : State) (key : Nat) (l : List PartLine) : sameBut [.parts] s (s.setLines key l) := by
  intro f hf; cases f <;> simp [Field.same] at hf ⊢

theorem State.setHbm_same (s : State) (m : List Host.Cell) : sameBut [.hbm] s (s.setHbm m) := by
  intro f hf; cases f <;> simp [Field.same] at hf ⊢

theorem State.setSram_same (s : State) (m : List Host.Cell) : sameBut [.sram] s (s.setSram m) := by
  intro f hf; cases f <;> simp [Field.same] at hf ⊢

theorem State.setCluster_same (s : State) (n : Nat) (c : Cluster) : sameBut [.clusters] s (s.setCluster n c) := by
  intro f hf; cases f <;> simp [Field.same] at hf ⊢

theorem State.setSeq_same (s : State) (d : Nat) (q : Seq) : sameBut [.seqs] s (s.setSeq d q) := by
  intro f hf; cases f <;> simp [Field.same] at hf ⊢

theorem State.setFab_same (s : State) (x : FabricUnit) : sameBut [.fab] s (s.setFab x) := by
  intro f hf; cases f <;> simp [Field.same] at hf ⊢

theorem State.setHost_same (s : State) (x : HostUnit) : sameBut [.host] s (s.setHost x) := by
  intro f hf; cases f <;> simp [Field.same] at hf ⊢

theorem State.send_same (s : State) (o : Out) : sameBut [.tx] s (s.send o) := by
  intro f hf; cases f <;> simp [Field.same] at hf ⊢

theorem State.reach_same (s : State) (n : Nat) : sameBut [.clk] s (s.reach n) := by
  intro f hf; cases f <;> simp [Field.same] at hf ⊢

theorem State.spend_same (s : State) : sameBut [.free] s s.spend := by
  intro f hf; cases f <;> simp [Field.same] at hf ⊢

theorem State.setPage_same (s : State) (p : Nat) (v : Page) : sameBut [.und] s (s.setPage p v) := by
  intro f hf; cases f <;> simp [Field.same] at hf ⊢

theorem State.fillLine_same (s : State) (d key : Nat) (ls : List PartLine) (l : PartLine) :
    sameBut [.parts, .ctr] s (s.fillLine d key ls l) := by
  unfold State.fillLine
  dsimp only
  have set := (State.setLines_same s key (evictLine (l :: ls)).1).weaken (gs := [.parts, .ctr]) (by simp)
  split
  · split
    · exact set.trans ((State.count_same _ _ _).weaken (by simp))
    · exact set
  · exact set

theorem State.countLines_same (s : State) (k j key : Nat) (l : List PartLine) :
    sameBut [.parts, .ctr] s ((s.count k j).setLines key l) :=
  ((State.count_same s k j).weaken (by simp)).trans ((State.setLines_same _ key l).weaken (by simp))

theorem State.touchLine_same (s : State) (line hint : Nat) (w : Option (Nat × List Byte)) :
    sameBut [.parts, .ctr] s (s.touchLine line hint w) := by
  have cnt (u : State) (k j : Nat) : sameBut [.parts, .ctr] u (u.count k j) := (State.count_same u k j).weaken (by simp)
  have set (u : State) (key : Nat) (l : List PartLine) : sameBut [.parts, .ctr] u (u.setLines key l) :=
    (State.setLines_same u key l).weaken (by simp)
  have opt (u : State) (b : Bool) (k j : Nat) : sameBut [.parts, .ctr] u (if b = true then u.count k j else u) := by
    split
    · exact cnt _ _ _
    · exact sameBut.refl _ _
  unfold State.touchLine
  dsimp only
  split
  · split
    · exact (cnt _ _ _).trans (set _ _ _)
    · exact cnt _ _ _
    · exact (cnt _ _ _).trans (set _ _ _)
    · exact (cnt s _ _).trans ((opt _ _ _ _).trans (set _ _ _))
  · split
    · exact (cnt _ _ _).trans (set _ _ _)
    · exact (cnt s _ _).trans ((opt _ _ _ _).trans (set _ _ _))
    · exact (cnt _ _ _).trans (set _ _ _)
  · split
    · exact cnt _ _ _
    · exact (cnt _ _ _).trans (State.fillLine_same _ _ _ _ _)
  · split
    · exact cnt _ _ _
    · exact (cnt _ _ _).trans (State.fillLine_same _ _ _ _ _)

theorem State.touchRead_same (s : State) (h len hint : Nat) : sameBut [.parts, .ctr] s (s.touchRead h len hint) := by
  unfold State.touchRead
  split
  · exact sameBut.refl _ _
  · exact sameBut.fold (fun u (l : Nat × Nat × Nat) => State.touchLine_same u l.1 hint none) _ s

theorem State.touchWrite_same (s : State) (h hint : Nat) (bs : List Byte) :
    sameBut [.parts, .ctr] s (s.touchWrite h hint bs) := by
  unfold State.touchWrite
  split
  · exact sameBut.refl _ _
  · exact sameBut.foldPair (fun p (l : Nat × Nat × Nat) => State.touchLine_same p.1 l.1 hint _) _ (s, bs)

theorem State.writeHbm_same (s : State) (h hint : Nat) (bs : List Byte) :
    sameBut [.parts, .ctr, .hbm] s (s.writeHbm h hint bs) :=
  ((State.touchWrite_same s h hint bs).weaken (by simp)).trans ((State.setHbm_same _ _).weaken (by simp))

theorem State.usePage_same (s : State) (p : Nat) (w : Bool) : sameBut [.und] s (s.usePage p w) := by
  unfold State.usePage
  intro f hf
  cases f <;> simp [Field.same] at hf ⊢

/-- Noting a read changes no byte: only counters, the cache partition and the order of page use. -/
theorem State.noteRead_same (s : State) (a len hint : Nat) : sameBut [.parts, .ctr, .und] s (s.noteRead a len hint) := by
  unfold State.noteRead
  refine sameBut.fold (fun u p => ?_) _ s
  split
  · dsimp only
    split
    · exact ((State.touchRead_same u _ _ _).weaken (by simp)).trans ((State.usePage_same _ _ _).weaken (by simp))
    · exact (State.touchRead_same u _ _ _).weaken (by simp)
  · exact sameBut.refl _ _

theorem State.dropOwnerLines_same (s : State) (a len : Nat) : sameBut [.fab] s (s.dropOwnerLines a len) := by
  unfold State.dropOwnerLines
  dsimp only
  split
  · exact sameBut.refl _ _
  · intro f hf; cases f <;> simp [Field.same, State.keepOwners] at hf ⊢

theorem State.writePiece_same (s : State) (a hint : Nat) (bs : List Byte) :
    sameBut [.sram, .hbm, .parts, .ctr, .und, .fab] s (s.writePiece a hint bs) := by
  unfold State.writePiece
  dsimp only
  refine ((State.dropOwnerLines_same s a bs.length).weaken (by simp)).trans ?_
  split
  · exact (State.setSram_same _ _).weaken (by simp)
  · split
    · exact ((State.writeHbm_same _ _ _ _).weaken (by simp)).trans ((State.usePage_same _ _ _).weaken (by simp))
    · exact (State.writeHbm_same _ _ _ _).weaken (by simp)
  · exact sameBut.refl _ _

/-- A write of local addresses changes the memories, what the partition, the pages and the routers' caches hold of them, and
counters. -/
theorem State.writeLocal_same (s : State) (a hint : Nat) (bs : List Byte) :
    sameBut [.sram, .hbm, .parts, .ctr, .und, .fab] s (s.writeLocal a hint bs) := by
  unfold State.writeLocal
  exact sameBut.foldPair (fun p (q : Nat × Nat) => State.writePiece_same p.1 q.1 hint _) _ (s, bs)

theorem State.contribute_same (s : State) (n c : Nat) (bs : List Byte) : sameBut [.coll] s (s.contribute n c bs) := by
  intro f hf; unfold State.contribute; cases f <;> simp [Field.same] at hf ⊢

theorem State.bindDst_same (s : State) (n c d : Nat) : sameBut [.coll] s (s.bindDst n c d) := by
  intro f hf; unfold State.bindDst; cases f <;> simp [Field.same] at hf ⊢

/-- One effect of an operation (R50). -/
theorem State.apply_same (s : State) (e : Eff) :
    sameBut [.sram, .hbm, .clusters, .coll, .ctr, .parts, .und, .fab] s (s.apply e) := by
  unfold State.apply
  split
  · exact (State.setSram_same _ _).weaken (by simp)
  · exact (State.writeLocal_same _ _ _ _).weaken (by simp)
  · exact (State.noteRead_same _ _ _ _).weaken (by simp)
  · exact (State.setCluster_same _ _ _).weaken (by simp)
  · exact (State.setCluster_same _ _ _).weaken (by simp)
  · exact (State.count_same _ _ _).weaken (by simp)
  · exact (State.setSram_same _ _).weaken (by simp)
  · exact (State.bindDst_same _ _ _ _).weaken (by simp)
  · exact (State.contribute_same _ _ _ _).weaken (by simp)
  · exact (((State.count_same _ _ _).weaken (by simp)).trans ((State.count_same _ _ _).weaken (by simp))).trans
      ((State.contribute_same _ _ _ _).weaken (by simp))

theorem State.applyAll_same (s : State) (es : List Eff) :
    sameBut [.sram, .hbm, .clusters, .coll, .ctr, .parts, .und, .fab] s (s.applyAll es) :=
  sameBut.fold State.apply_same es s

/-- An effect leaves every operation, core and item of every cluster as it was. -/
theorem State.apply_cluster (s : State) (e : Eff) (m : Nat) :
    ((s.apply e).cluster m).ops = (s.cluster m).ops ∧ ((s.apply e).cluster m).cores = (s.cluster m).cores ∧
    ((s.apply e).cluster m).item = (s.cluster m).item := by
  have keep {t : State} {fs : List Field} (h : sameBut fs s t) (hc : Field.clusters ∉ fs) : t.cluster m = s.cluster m := by
    have := h .clusters hc; simp only [Field.same] at this; simp [State.cluster, this]
  have set (n : Nat) (c : Cluster) (h : c.ops = (s.cluster n).ops ∧ c.cores = (s.cluster n).cores ∧ c.item = (s.cluster n).item) :
      ((s.setCluster n c).cluster m).ops = (s.cluster m).ops ∧ ((s.setCluster n c).cluster m).cores = (s.cluster m).cores ∧
      ((s.setCluster n c).cluster m).item = (s.cluster m).item := by
    by_cases e : m = n
    · subst e; simpa using h
    · rw [State.cluster_setCluster_other s n m c e]; exact ⟨rfl, rfl, rfl⟩
  unfold State.apply
  split
  · rw [keep (State.setSram_same _ _) (by simp)]; exact ⟨rfl, rfl, rfl⟩
  · rw [keep (State.writeLocal_same _ _ _ _) (by simp)]; exact ⟨rfl, rfl, rfl⟩
  · rw [keep (State.noteRead_same _ _ _ _) (by simp)]; exact ⟨rfl, rfl, rfl⟩
  · exact set _ _ ⟨rfl, rfl, rfl⟩
  · exact set _ _ ⟨rfl, rfl, rfl⟩
  · rw [keep (State.count_same _ _ _) (by simp)]; exact ⟨rfl, rfl, rfl⟩
  · rw [keep (State.setSram_same _ _) (by simp)]; exact ⟨rfl, rfl, rfl⟩
  · rw [keep (State.bindDst_same _ _ _ _) (by simp)]; exact ⟨rfl, rfl, rfl⟩
  · rw [keep (State.contribute_same _ _ _ _) (by simp)]; exact ⟨rfl, rfl, rfl⟩
  · rw [keep ((((State.count_same _ _ _).weaken (by simp)).trans ((State.count_same _ _ _).weaken (by simp))).trans
      ((State.contribute_same _ _ _ _).weaken (gs := [.ctr, .coll]) (by simp))) (by simp)]
    exact ⟨rfl, rfl, rfl⟩

theorem State.applyAll_cluster (s : State) (es : List Eff) (m : Nat) :
    ((s.applyAll es).cluster m).ops = (s.cluster m).ops ∧ ((s.applyAll es).cluster m).cores = (s.cluster m).cores ∧
    ((s.applyAll es).cluster m).item = (s.cluster m).item := by
  unfold State.applyAll
  induction es generalizing s with
  | nil => exact ⟨rfl, rfl, rfl⟩
  | cons e es ih =>
    have a := ih (s.apply e)
    have b := State.apply_cluster s e m
    simp only [List.foldl_cons]
    exact ⟨a.1.trans b.1, a.2.1.trans b.2.1, a.2.2.trans b.2.2⟩

/-- The stall cycles of a die. -/
theorem State.stall_same (s : State) (d l c k : Nat) : sameBut [.seqs, .ctr] s (s.stall d l c k) := by
  unfold State.stall
  split
  · exact sameBut.refl _ _
  · exact (((State.count_same _ _ _).weaken (by simp)).trans ((State.count_same _ _ _).weaken (by simp))).trans
      ((State.setSeq_same _ _ _).weaken (by simp))

theorem State.stallRest_same (s : State) (d l c a b : Nat) : sameBut [.seqs, .ctr] s (s.stallRest d l c a b) := by
  unfold State.stallRest
  split
  · exact (State.stall_same _ _ _ _ _).trans (State.stall_same _ _ _ _ _)
  · exact State.stall_same _ _ _ _ _

theorem State.stallSpan_same (s : State) (d l c a b : Nat) : sameBut [.seqs, .ctr] s (s.stallSpan d l c a b) := by
  unfold State.stallSpan
  split
  · exact sameBut.refl _ _
  · exact ((State.stall_same _ _ _ _ _).trans (State.stall_same _ _ _ _ _)).trans (State.stallRest_same _ _ _ _ _ _)

theorem State.countHeld_same (s : State) (d t : Nat) : sameBut [.seqs, .ctr] s (s.countHeld d t) := by
  unfold State.countHeld
  split
  · exact sameBut.refl _ _
  · exact (State.stallSpan_same _ _ _ _ _ _).trans ((State.setSeq_same _ _ _).weaken (by simp))

theorem State.endHold_same (s : State) (d l c t : Nat) : sameBut [.seqs, .ctr] s (s.endHold d l c t) := by
  unfold State.endHold
  exact ((State.countHeld_same _ _ _).trans (State.stallSpan_same _ _ _ _ _ _)).trans ((State.setSeq_same _ _ _).weaken (by simp))

theorem State.unblock_same (s : State) (d t : Nat) : sameBut [.seqs, .ctr] s (s.unblock d t) := State.endHold_same _ _ _ _ _

theorem State.seq_of_same {s t : State} {fs : List Field} (h : sameBut fs s t) (hq : Field.seqs ∉ fs) (d : Nat) :
    t.seq d = s.seq d := by
  have := h .seqs hq; simp only [Field.same] at this; simp [State.seq, this]

theorem State.cluster_of_same {s t : State} {fs : List Field} (h : sameBut fs s t) (hq : Field.clusters ∉ fs) (n : Nat) :
    t.cluster n = s.cluster n := by
  have := h .clusters hq; simp only [Field.same] at this; simp [State.cluster, this]

/-- The stalls of a die leave the other dies' sequencers as they were. -/
theorem State.stall_other (s : State) (d l c k : Nat) : sameOtherSeqs d s (s.stall d l c k) := by
  intro e he
  unfold State.stall
  split
  · rfl
  · dsimp only
    rw [State.seq_setSeq_other _ _ _ _ he]
    exact State.seq_of_same (((State.count_same s _ _).weaken (gs := [.ctr]) (by simp)).trans (State.count_same _ _ _)) (by simp) e

theorem sameOtherSeqs.trans {d : Nat} {s t u : State} (h : sameOtherSeqs d s t) (k : sameOtherSeqs d t u) : sameOtherSeqs d s u :=
  fun e he => (k e he).trans (h e he)

theorem State.setSeq_other (s : State) (d : Nat) (q : Seq) : sameOtherSeqs d s (s.setSeq d q) :=
  fun _ he => State.seq_setSeq_other _ _ _ _ he

theorem State.stallRest_other (s : State) (d l c a b : Nat) : sameOtherSeqs d s (s.stallRest d l c a b) := by
  unfold State.stallRest
  split
  · exact (State.stall_other _ _ _ _ _).trans (State.stall_other _ _ _ _ _)
  · exact State.stall_other _ _ _ _ _

theorem State.stallSpan_other (s : State) (d l c a b : Nat) : sameOtherSeqs d s (s.stallSpan d l c a b) := by
  unfold State.stallSpan
  split
  · exact fun _ _ => rfl
  · exact ((State.stall_other _ _ _ _ _).trans (State.stall_other _ _ _ _ _)).trans (State.stallRest_other _ _ _ _ _ _)

theorem State.countHeld_other (s : State) (d t : Nat) : sameOtherSeqs d s (s.countHeld d t) := by
  unfold State.countHeld
  split
  · exact fun _ _ => rfl
  · exact (State.stallSpan_other _ _ _ _ _ _).trans (State.setSeq_other _ _ _)

theorem State.unblock_other (s : State) (d t : Nat) : sameOtherSeqs d s (s.unblock d t) :=
  ((State.countHeld_other _ _ _).trans (State.stallSpan_other _ _ _ _ _ _)).trans (State.setSeq_other _ _ _)

/-! ### Records, reports, mailboxes and holds -/

theorem State.record_same (s : State) (r : FaultRec) : sameBut [.fence, .ranger] s (s.record r) := by
  unfold State.record
  dsimp only
  refine sameBut.after (State.addTrace_same _ _ _ _) (by simp) ?_
  intro f hf; cases f <;> simp [Field.same] at hf ⊢

theorem State.setJobState_same (s : State) (j : JobState) : sameBut [.job, .ranger, .host, .tx] s (s.setJobState j) := by
  unfold State.setJobState
  split
  · exact sameBut.refl _ _
  · refine sameBut.after (State.raise_same _ _) (by simp) (sameBut.after (State.addTrace_same _ _ _ _) (by simp) ?_)
    intro f hf; cases f <;> simp [Field.same] at hf ⊢

theorem State.putMb_same (s : State) (mb off : Nat) (bs : List Byte) : sameBut [.host] s (s.putMb mb off bs) := by
  intro f hf; cases f <;> simp [Field.same] at hf ⊢

theorem State.stateBack_same (s : State) (a : Accepted) : sameBut [.job, .ranger, .host, .tx] s (s.stateBack a) := by
  unfold State.stateBack
  split
  · exact State.setJobState_same _ _
  · exact sameBut.refl _ _

/-- R464: the completion of a command writes its mailbox, and may return the job to the state before the command. -/
theorem State.complete_same (s : State) (a : Accepted) (st dt : Nat) (r : List Byte) :
    sameBut [.job, .ranger, .host, .tx] s (s.complete a st dt r) := by
  unfold State.complete
  dsimp only
  refine sameBut.after (State.raise_same _ _) (by simp) (sameBut.after (State.addTrace_same _ _ _ _) (by simp) ?_)
  refine sameBut.after (State.putMb_same _ _ _ _) (by simp) (sameBut.after (State.setHost_same _ _) (by simp) ?_)
  exact sameBut.after (State.putMb_same _ _ _ _) (by simp) (sameBut.after (State.putMb_same _ _ _ _) (by simp)
    (State.stateBack_same s a))

theorem State.abortWaiting_same (s : State) : sameBut [.job, .ranger, .host, .tx, .seed] s s.abortWaiting := by
  unfold State.abortWaiting
  split
  · exact sameBut.refl _ _
  · split
    · dsimp only
      unfold State.finishLong
      split
      · intro f hf; cases f <;> simp [Field.same] at hf ⊢
      · refine sameBut.after (State.complete_same _ _ _ _ _) (by simp) ?_
        intro f hf; cases f <;> simp [Field.same] at hf ⊢
    · exact sameBut.refl _ _

/-- What the writes in flight at a hold may change (R480). -/
def landFields : List Field := [.sram, .hbm, .clusters, .coll, .ctr, .parts, .und, .fab, .free]

theorem State.maybeApply_same (s : State) (e : Eff) : sameBut landFields s (s.maybeApply e) := by
  unfold State.maybeApply
  dsimp only
  split
  · exact sameBut.after (State.apply_same _ _) (by simp [landFields]) ((State.spend_same s).weaken (by simp [landFields]))
  · exact (State.spend_same s).weaken (by simp [landFields])

theorem State.landOrNot_same (s : State) (es : List Eff) : sameBut landFields s (s.landOrNot es) :=
  sameBut.fold State.maybeApply_same es s

theorem State.landOrNot_cluster (s : State) (es : List Eff) (m : Nat) :
    ((s.landOrNot es).cluster m).ops = (s.cluster m).ops ∧ ((s.landOrNot es).cluster m).item = (s.cluster m).item := by
  have one (s : State) (e : Eff) :
      ((s.maybeApply e).cluster m).ops = (s.cluster m).ops ∧ ((s.maybeApply e).cluster m).item = (s.cluster m).item := by
    unfold State.maybeApply
    dsimp only
    split
    · exact ⟨(State.apply_cluster s.spend e m).1, (State.apply_cluster s.spend e m).2.2⟩
    · exact ⟨rfl, rfl⟩
  unfold State.landOrNot
  induction es generalizing s with
  | nil => exact ⟨rfl, rfl⟩
  | cons e es ih => exact ⟨(ih (s.maybeApply e)).1.trans (one s e).1, (ih (s.maybeApply e)).2.trans (one s e).2⟩

theorem State.landFold_same {α : Type} (g : α → List Eff) (l : List α) (s : State) :
    sameBut landFields s (l.foldl (fun s o => s.landOrNot (g o)) s) :=
  sameBut.fold (fun s o => State.landOrNot_same s (g o)) l s

theorem State.landFold_cluster {α : Type} (g : α → List Eff) (l : List α) (s : State) (m : Nat) :
    ((l.foldl (fun s o => s.landOrNot (g o)) s).cluster m).ops = (s.cluster m).ops ∧
    ((l.foldl (fun s o => s.landOrNot (g o)) s).cluster m).item = (s.cluster m).item := by
  induction l generalizing s with
  | nil => exact ⟨rfl, rfl⟩
  | cons a l ih =>
    have h := ih (s.landOrNot (g a))
    have k := State.landOrNot_cluster s (g a) m
    exact ⟨h.1.trans k.1, h.2.trans k.2⟩

theorem State.dropClusterOps_same (s : State) (n : Nat) : sameBut landFields s (s.dropClusterOps n) := by
  unfold State.dropClusterOps
  dsimp only
  exact sameBut.after (State.setCluster_same _ _ _) (by simp [landFields]) (State.landFold_same (fun o : ClusterOp => o.effects) _ s)

theorem State.dropSillageOps_same (s : State) (d : Nat) : sameBut (.sill :: landFields) s (s.dropSillageOps d) := by
  unfold State.dropSillageOps
  dsimp only
  have h := (State.landFold_same (fun o : SillOp => o.effects) ((Tab.get {} d s.sill).choice ++ (Tab.get {} d s.sill).exch) s).weaken
    (gs := .sill :: landFields) (fun f m => List.mem_cons_of_mem _ m)
  refine h.trans ?_
  intro f hf
  cases f <;> simp [Field.same, landFields] at hf ⊢

theorem State.stop_same (s : State) (c : Tab (List CopyOp)) (f : FabricUnit) (q : Tab Seq) :
    sameBut [.copies, .fab, .seqs] s { s with copies := c, fab := f, seqs := q } := by
  intro f hf; cases f <;> simp [Field.same] at hf ⊢

/-- R480: what ends or is abandoned. -/
theorem State.abandon_same (s : State) : sameBut ([.sill, .copies, .seqs] ++ landFields) s s.abandon := by
  unfold State.abandon
  dsimp only
  refine sameBut.after (State.stop_same _ _ _ _) (by simp [landFields]) ?_
  refine sameBut.after (State.landFold_same (fun o : CopyOp => o.effects) _ _) (by simp [landFields]) ?_
  refine sameBut.after (sameBut.fold State.dropSillageOps_same _ _) (by simp [landFields]) ?_
  exact (sameBut.fold State.dropClusterOps_same _ s).weaken (by simp [landFields])

/-- What a hold changes after its record is written. -/
theorem State.hold_after (s : State) (r : FaultRec) (h : s.job.state.holdable = true) :
    sameBut [.job, .ranger, .host, .tx, .seed] (s.abandon.record { r with action := r.action ||| 1 }) (s.hold r) := by
  unfold State.hold
  simp only [h, if_true]
  exact sameBut.after (State.abortWaiting_same _) (by simp) (sameBut.after (State.report_same _ _ _) (by simp)
    ((State.setJobState_same _ _).weaken (by simp)))

/-- What a hold may change. -/
def holdFields : List Field := [.sill, .copies, .seqs, .fence, .job, .ranger, .host, .tx, .seed] ++ landFields

/-- What a hold may change: a memory byte only by a write in flight. -/
theorem State.hold_same (s : State) (r : FaultRec) : sameBut holdFields s (s.hold r) := by
  by_cases h : s.job.state.holdable = true
  · exact sameBut.after (State.hold_after s r h) (by simp [holdFields]) (sameBut.after (State.record_same _ _) (by simp [holdFields])
      ((State.abandon_same s).weaken (by simp [holdFields, landFields])))
  · unfold State.hold
    simp only [h]
    exact (State.record_same s r).weaken (by simp [holdFields])

end Sys2Proof.Machine
end

