-- ==== Sys2Proof/Laws/Commands.lean ====
section
/-! SUPPORT. Mailbox commands (R464, R466, R467): a command that executes runs in the state without it, and taking it changes the host
unit alone. -/

namespace Sys2Proof.Machine

/-- A command that executes runs its own meaning. -/
theorem State.command_runs {s t : State} {mb : Fin 32} {c : Cmd} {a : Accepted} (h : s.runsCommand mb c a t)
    (run : Accepted → State → State) : s.command mb c run = run a t := by
  obtain ⟨h1, h2, h3, u, ⟨rest, r1, r2, r3, r4, r5, rfl⟩, rfl⟩ := h
  unfold State.command
  simp only [r1, r2, r3, r4, r5]
  cases hl : c.long with
  | false => simp [h2, List.contains_iff_mem.1 h3]
  | true => simp [h2, List.contains_iff_mem.1 h3, h1 hl]

/-- Taking it changes the host unit alone. -/
theorem State.runsCommand_same {s t : State} {mb : Fin 32} {c : Cmd} {a : Accepted} (h : s.runsCommand mb c a t) :
    sameBut [.host] s t := by
  obtain ⟨h1, h2, h3, u, ⟨rest, r1, r2, r3, r4, r5, rfl⟩, rfl⟩ := h
  split
  · exact sameBut.after (State.setHost_same _ _) (by simp) (State.setHost_same _ _)
  · exact State.setHost_same _ _

theorem State.setLong_same (s : State) (l : LongCmd) : sameBut [.host] s (s.setLong l) := State.setHost_same _ _

theorem State.finishLong_same (s : State) (st dt : Nat) (r : List Byte) :
    sameBut [.job, .ranger, .host, .tx] s (s.finishLong st dt r) := by
  unfold State.finishLong
  split
  · exact sameBut.refl _ _
  · exact State.complete_same _ _ _ _ _

theorem State.readHost_same (s : State) (a : Accepted) (long : Bool) (addr len : Nat) :
    sameBut [.job, .ranger, .host, .tx] s (s.readHost a long addr len) := by
  unfold State.readHost
  split
  · exact State.complete_same _ _ _ _ _
  · exact sameBut.after (State.send_same _ _) (by simp) ((State.setHost_same _ _).weaken (by simp))

theorem State.writeHost_same (s : State) (a : Accepted) (addr : Nat) (bs : List Byte) :
    sameBut [.job, .ranger, .host, .tx] s (s.writeHost a addr bs) := by
  unfold State.writeHost
  split
  · exact State.complete_same _ _ _ _ _
  · exact sameBut.after (State.send_same _ _) (by simp) ((State.setHost_same _ _).weaken (by simp))

/-- Steps 2 to 6 of a restore (R516) change neither its set, nor the tick unit, nor a sequencer, nor what leaves the device. -/
theorem State.restoreSteps_same (s : State) :
    sameBut [.clusters, .parts, .hbm, .sram, .ctr, .job, .und, .fab, .sill] s s.restoreSteps.1 := by
  have set (u : State) (d : Nat) (v : Sillage) : sameBut [.sill] u (u.setSillage d v) := by
    intro f hf; cases f <;> simp [Field.same] at hf ⊢
  have drop (u : State) (d : Nat) (k : PartLine → Bool) : sameBut [.parts] u (u.dropLines d k) := by
    intro f hf; cases f <;> simp [Field.same, State.dropLines] at hf ⊢
  have acc : sameBut [.clusters] s s.clearAcc := by
    intro f hf; cases f <;> simp [Field.same, State.clearAcc] at hf ⊢
  have lose (u : State) (d : Nat) : sameBut [.parts, .hbm] u (u.loseLines d) := by
    unfold State.loseLines
    exact sameBut.after (drop _ _ _) (by simp)
      (sameBut.fold (fun v _ => (State.setHbm_same v _).weaken (by simp)) _ u)
  have ctx (u : State) : sameBut [.sill] u u.loadContexts := sameBut.fold (fun v _ => set v _ _) _ u
  have zero (u : State) : sameBut [.sill, .sram, .hbm, .parts, .ctr, .und, .fab] u u.zeroArrivals := by
    refine sameBut.fold (fun v _ => sameBut.trans ((set v _ _).weaken (by simp)) (sameBut.fold (fun w _ => ?_) _ _)) _ u
    dsimp only
    split
    · exact sameBut.refl _ _
    · exact (State.writeLocal_same _ _ _ _).weaken (by simp)
  have pools (u : State) (d : Nat) : sameBut [.sill, .sram] u (u.buildPools d) := by
    unfold State.buildPools
    exact sameBut.after (set _ _ _) (by simp)
      (sameBut.fold (fun v _ => (State.setSram_same v _).weaken (by simp)) _ u)
  have tables (u : State) : sameBut [.clusters, .parts, .hbm, .sram, .ctr, .job, .und, .fab, .sill] u u.reloadTables := by
    unfold State.reloadTables State.clearOwnerCaches
    exact ((ctx u).weaken (by simp)).trans (((zero _).weaken (by simp)).trans
      (sameBut.after (State.setFab_same _ _) (by simp) (sameBut.fold (fun v d => (pools v d).weaken (by simp)) _ _)))
  have start : sameBut [.clusters, .parts, .hbm, .sram, .ctr, .job, .und, .fab, .sill] s s.clearAcc.loseCaches :=
    (acc.weaken (by simp)).trans (sameBut.fold (fun v d => (lose v d).weaken (by simp)) _ _)
  unfold State.restoreSteps
  dsimp only
  split
  · exact start
  · refine start.trans (sameBut.trans ?_ (tables _))
    intro f hf; cases f <;> simp [Field.same, State.takeFrames, State.rehome] at hf ⊢

end Sys2Proof.Machine
end

