-- ==== Sys2Proof/Laws/Fabric.lean ====
section
/-! SUPPORT. What the sending of packets may change (R369 to R389): counters, what leaves the device, the packets that wait or are
kept, and nothing else. -/

namespace Sys2Proof.Machine

/-- What leaves on a port is counted and sent, and the port and the number of heads note it. -/
theorem State.transmit_same (s : State) (p : Nat) (esc : Bool) (k : Pkt) : sameBut [.ctr, .tx, .fab] s (s.transmit p esc k) := by
  unfold State.transmit
  dsimp only
  refine sameBut.after (State.send_same _ _) (by simp) (sameBut.after (State.setFab_same _ _) (by simp) ?_)
  split
  · exact sameBut.after (State.count_same _ _ _) (by simp) ((State.count_same _ _ _).weaken (by simp))
  · exact (State.count_same _ _ _).weaken (by simp)

/-- Routing a packet counts it, sends it, or lets it wait for an escape port (R383). -/
theorem State.inject_same (s : State) (k : Pkt) : sameBut [.ctr, .tx, .fab] s (s.inject k) := by
  unfold State.inject
  split
  · exact (State.send_same _ _).weaken (by simp)
  · split
    · exact (State.transmit_same _ _ _ _).weaken (by simp)
    · exact (State.transmit_same _ _ _ _).weaken (by simp)
    · exact (State.setFab_same _ _).weaken (by simp)
    · exact (State.count_same _ _ _).weaken (by simp)
    · exact sameBut.refl _ _

/-- What the sending of a packet changes of the fabric unit: what the port's line carries and the number of heads. -/
theorem State.transmit_fab (s : State) (p : Nat) (esc : Bool) (k : Pkt) :
    { (s.transmit p esc k).fab with heads := s.fab.heads, ports := s.fab.ports } = s.fab := by
  have keep {t : State} (h : sameBut [.ctr] s t) : t.fab = s.fab := by
    have := h .fab (by simp); simpa only [Field.same] using this
  unfold State.transmit
  dsimp only
  split
  · rw [State.send_fab, State.setFab_fab, keep (sameBut.trans (State.count_same _ _ _) (State.count_same _ _ _))]
  · rw [State.send_fab, State.setFab_fab, keep (State.count_same _ _ _)]

/-- Routing changes no register and no table of the fabric unit: only what waits for an escape port, and what `transmit` notes. -/
theorem State.inject_fab (s : State) (k : Pkt) :
    { (s.inject k).fab with escWaits := s.fab.escWaits, heads := s.fab.heads, ports := s.fab.ports } = s.fab := by
  have keep {t : State} (h : sameBut [.ctr] s t) : t.fab = s.fab := by
    have := h .fab (by simp); simpa only [Field.same] using this
  have sent (p : Nat) (esc : Bool) :
      { (s.transmit p esc k).fab with escWaits := s.fab.escWaits, heads := s.fab.heads, ports := s.fab.ports } = s.fab :=
    congrArg (fun f : FabricUnit => { f with escWaits := s.fab.escWaits }) (State.transmit_fab s p esc k)
  unfold State.inject
  split
  · rfl
  · split
    · exact sent _ _
    · exact sent _ _
    · rfl
    · rw [keep (State.count_same _ _ _)]
    · rfl

/-- R416: an access of the program without a route holds the job. -/
theorem State.unreachable_same (s t : State) (q : Queued) (h : s.unreachable q = some t) : sameBut holdFields s t := by
  have fault (d c op u addr : Nat) : sameBut holdFields s ((s.noteStatus d c op addr 6).remoteFault d c 6 u addr) :=
    sameBut.after (State.hold_same _ _) (fun _ m => m) ((State.setFab_same _ _).weaken (by simp [holdFields, landFields]))
  unfold State.unreachable at h
  dsimp only at h
  split at h
  · cases h
  · split at h <;> first | (cases h; done) | (cases h; exact fault _ _ _ _ _)

theorem State.leave_same (s : State) (o : Origin) (p : Pkt) : sameBut [.ctr, .tx, .fab] s (s.leave o p) := by
  unfold State.leave
  split
  · split
    · exact State.transmit_same _ _ _ _
    · exact State.inject_same _ _
  · exact State.inject_same _ _

/-- R388, R389: a packet to a destination with a route is kept and sent. -/
theorem State.launch_routed (s : State) (q : Queued) (h : s.unreachable q = none) : sameBut [.ctr, .tx, .fab] s (s.launch q) := by
  unfold State.launch
  simp only [h]
  exact sameBut.trans ((State.setFab_same _ _).weaken (by simp)) (State.leave_same _ _ _)

theorem State.launch_same (s : State) (q : Queued) : sameBut holdFields s (s.launch q) := by
  match h : s.unreachable q with
  | some t =>
    have : s.launch q = t := by simp only [State.launch, h]
    rw [this]; exact State.unreachable_same s t q h
  | none => exact (State.launch_routed s q h).weaken (by simp [holdFields, landFields])

theorem State.pumpOne_same (s : State) (q : Queued) : sameBut holdFields s (s.pumpOne q) := by
  unfold State.pumpOne
  split
  · exact State.launch_same _ _
  · exact (State.setFab_same _ _).weaken (by simp [holdFields, landFields])

theorem State.countWaits_same (s : State) (l : List Queued) : sameBut [.ctr] s (s.countWaits l) := by
  unfold State.countWaits
  refine sameBut.fold (fun u d => sameBut.fold (fun v o => ?_) _ u) _ s
  split
  · exact State.count_same _ _ _
  · exact sameBut.refl _ _

/-- What lets waiting packets leave (R387, R388, R410, R416). -/
theorem State.pump_same (s : State) : sameBut holdFields s s.pump := by
  unfold State.pump
  dsimp only
  refine sameBut.trans ?_ (sameBut.fold State.pumpOne_same _ _)
  exact sameBut.after (State.countWaits_same _ _) (by simp [holdFields, landFields])
    ((State.setFab_same _ _).weaken (by simp [holdFields, landFields]))

theorem State.post_same (s : State) (d : Nat) (p : Pkt) (o : Origin) : sameBut holdFields s (s.post d p o) :=
  sameBut.trans ((State.setFab_same _ _).weaken (by simp [holdFields, landFields])) (State.pumpOne_same _ _)

theorem State.sendAck_same (s : State) (p : Pkt) (st : Nat) : sameBut [.ctr, .tx, .fab] s (s.sendAck p st) := by
  unfold State.sendAck
  dsimp only
  refine sameBut.after (State.inject_same _ _) (by simp) ?_
  split
  · exact (State.count_same _ _ _).weaken (by simp)
  · exact sameBut.refl _ _

theorem State.sendReply_same (s : State) (p : Pkt) (ty st len : Nat) (b : List Byte) :
    sameBut [.ctr, .tx, .fab] s (s.sendReply p ty st len b) := by
  unfold State.sendReply
  dsimp only
  refine sameBut.after (State.inject_same _ _) (by simp) ?_
  split
  · exact (State.count_same _ _ _).weaken (by simp)
  · exact sameBut.refl _ _

theorem State.directed_same (s : State) (p : Pkt) : sameBut [.ctr, .tx, .fab] s (s.directed p) := by
  unfold State.directed
  dsimp only
  split
  · exact (State.count_same _ _ _).weaken (by simp)
  · split
    · exact sameBut.refl _ _
    · split
      · exact State.transmit_same _ _ _ _
      · exact (State.setFab_same _ _).weaken (by simp)

/-- R384: a packet that goes on. -/
theorem State.forward_same (s : State) (p : Pkt) : sameBut [.ctr, .tx, .fab] s (s.forward p) := by
  unfold State.forward
  split
  · exact State.directed_same _ _
  · exact State.inject_same _ _

theorem State.countCheck_same (s : State) (c : Check) : sameBut [.ctr] s (s.countCheck c) := by
  cases c <;> first | exact State.count_same _ _ _ | exact sameBut.refl _ _

/-- R475, R479: the answer that a packet for a fenced router gets. -/
theorem State.refuseFenced_same (s : State) (p : Pkt) : sameBut [.ctr, .tx, .fab] s (s.refuseFenced p) := by
  unfold State.refuseFenced
  dsimp only
  split
  · exact State.sendReply_same _ _ _ _ _ _
  · split
    · exact State.sendReply_same _ _ _ _ _ _
    · split
      · exact State.sendAck_same _ _ _
      · exact sameBut.refl _ _

/-- R361, R400: a packet that comes by a link that is down is discarded; of one that is up the port and a counter tell. -/
theorem State.fromLink_same {fs : List Field} (s : State) (p : Pkt) (f : State → State)
    (hf : ∀ g ∈ [Field.ctr, .fab], g ∈ fs) (h : ∀ u, sameBut fs u (f u)) : sameBut fs s (s.fromLink p f) := by
  have cnt (u : State) (k j : Nat) : sameBut fs u (u.count k j) := (State.count_same u k j).weaken (fun g m => hf g (by simp_all))
  unfold State.fromLink
  split
  · exact h s
  · split
    · exact cnt _ _ _
    · exact (((State.setFab_same _ _).weaken (fun g m => hf g (by simp_all))).trans (cnt _ _ _)).trans (h _)

/-- R384, R385: a packet that is not taken changes counters, what leaves, and what waits for a port; one that is taken changes what
its delivery does. -/
theorem State.deliver_same {fs : List Field} (s : State) (p : Pkt) (typ die : Nat) (ok : Bool) (f : State → State)
    (hf : ∀ g ∈ [Field.ctr, .tx, .fab], g ∈ fs) (h : ∀ u, sameBut fs u (f u)) : sameBut fs s (s.deliver p typ die ok f) := by
  have cnt (u : State) (k j : Nat) : sameBut fs u (u.count k j) := (State.count_same u k j).weaken (fun g m => hf g (by simp_all))
  unfold State.deliver
  refine State.fromLink_same s p _ 
    (fun g m => hf g ((by decide : ∀ g ∈ [Field.ctr, .fab], g ∈ [Field.ctr, .tx, .fab]) g m)) (fun u => ?_)
  split
  · exact (State.forward_same _ _).weaken hf
  · split
    · exact cnt _ _ _
    · dsimp only
      split
      · exact (State.countCheck_same _ _).weaken (fun g m => hf g (by simp_all))
      · split
        · exact (State.refuseFenced_same _ _).weaken hf
        · split
          · exact cnt _ _ _
          · exact h u

theorem State.setPort_same (s : State) (p : Nat) (v : Port) : sameBut [.fab] s (s.setPort p v) := by
  intro f hf; cases f <;> simp [Field.same] at hf ⊢

theorem State.linkEvent_same (s : State) (p fail : Nat) : sameBut [.ctr, .tx, .fab] s (s.linkEvent p fail) :=
  sameBut.fold (fun _ _ => State.inject_same _ _) _ s

/-- R363: a link that goes down is a record, a message and counts. -/
theorem State.linkDown_same (s : State) (p fail : Nat) : sameBut [.ctr, .tx, .fab, .fence, .ranger] s (s.linkDown p fail) := by
  have base (u : State) (k : Nat) (v : Port) (x : FabricUnit) (w : Port) :
      sameBut [.ctr, .fab] u ((((u.count cLdDiscard k).setPort p v).setFab x).setPort p w) :=
    ((State.count_same _ _ _).weaken (by simp)).trans (((State.setPort_same _ _ _).weaken (by simp)).trans
      (((State.setFab_same _ _).weaken (by simp)).trans ((State.setPort_same _ _ _).weaken (by simp))))
  unfold State.linkDown
  dsimp only
  split
  · refine sameBut.after (State.record_same _ _) (by simp) (sameBut.after (State.linkEvent_same _ _ _) (by simp)
      (sameBut.after (State.count_same _ _ _) (by simp) ?_))
    exact (base _ _ _ _ _).weaken (by simp)
  · exact (base _ _ _ _ _).weaken (by simp)

theorem State.sendTree_same (s : State) (p ty : Nat) (b : List Byte) : sameBut [.ctr, .tx, .fab] s (s.sendTree p ty b) := by
  unfold State.sendTree
  split
  · exact State.transmit_same _ _ _ _
  · exact sameBut.refl _ _

/-- R72: records to the children of the beacon tree. -/
theorem State.sendChildren_same (s : State) (ty : Nat) (b : List Byte) : sameBut [.ctr, .tx, .fab] s (s.sendChildren ty b) :=
  sameBut.fold (fun _ _ => State.sendTree_same _ _ _ _) _ s

end Sys2Proof.Machine
end

