-- ==== Sys2Proof/Laws/Plans.lean ====
section
/-! SUPPORT. What the plan of a cluster operation may do at its issue: count, note what it reads, bind a collective's
destination, and zero slots of the cluster's own accumulator. Every other write lands when the operation ends (R50). -/

namespace Sys2Proof.Machine

/-- A plan whose effects at issue are those that an issue may have. -/
structure Plan.IssuesOnly (n : Nat) (p : Plan) : Prop where
  ok : ∀ units slots dur now effs a, p = .ok units slots dur now effs a → ∀ e ∈ now, e.atIssue n = true

/-- The same of a plan behind checks. -/
structure Plan.CheckedOnly (n : Nat) (p : Except (Nat × Nat) Plan) : Prop where
  ok : ∀ q, p = .ok q → q.IssuesOnly n

theorem Plan.only_bad {n : Nat} : Plan.bad.IssuesOnly n := ⟨by intro _ _ _ _ _ _ h; cases h⟩
theorem Plan.only_meta {n : Nat} (a b : Nat) : (Plan.badMeta a b).IssuesOnly n := ⟨by intro _ _ _ _ _ _ h; cases h⟩
theorem Plan.only_refuse {n : Nat} (a b : Nat) : (Plan.refuse a b).IssuesOnly n := ⟨by intro _ _ _ _ _ _ h; cases h⟩

theorem Plan.only_ok {n : Nat} (u sl du : Nat) (now eff : List Eff) (a : Bool) (h : ∀ e ∈ now, e.atIssue n = true) :
    (Plan.ok u sl du now eff a).IssuesOnly n := ⟨by intro _ _ _ _ _ _ h; cases h; assumption⟩

theorem zeroEffs_atIssue (n mask : Nat) : ∀ e ∈ zeroEffs n mask, e.atIssue n = true := by
  intro e h
  simp only [zeroEffs, List.mem_flatMap, List.mem_cons, List.not_mem_nil, or_false] at h
  obtain ⟨k, _, h⟩ := h
  rcases h with h | h <;> subst h <;> simp [Eff.atIssue]

theorem ifZero_atIssue (n mask : Nat) (b : Bool) : ∀ e ∈ (if b then zeroEffs n mask else []), e.atIssue n = true := by
  cases b
  · simp
  · simpa using zeroEffs_atIssue n mask

theorem nil_atIssue (n : Nat) : ∀ e ∈ ([] : List Eff), e.atIssue n = true := by simp

theorem Plan.only_orFault {n : Nat} {p : Except (Nat × Nat) Plan} (h : Plan.CheckedOnly n p) : (planOrFault p).IssuesOnly n := by
  unfold planOrFault
  split
  · exact h.ok _ rfl
  · exact Plan.only_meta _ _

theorem Plan.checked_bind {n : Nat} {α : Type} (x : Except (Nat × Nat) α) (f : α → Except (Nat × Nat) Plan)
    (h : ∀ a, Plan.CheckedOnly n (f a)) : Plan.CheckedOnly n (x >>= f) := by
  refine ⟨fun q hq => ?_⟩
  cases x with
  | error e => simp [bind, Except.bind] at hq
  | ok a => exact (h a).ok q hq

theorem Plan.checked_ok {n : Nat} {p : Plan} (h : p.IssuesOnly n) : Plan.CheckedOnly n (.ok p) := ⟨by intro q hq; cases hq; exact h⟩
theorem Plan.checked_error {n : Nat} (e : Nat × Nat) : Plan.CheckedOnly n (.error e) := ⟨by intro q hq; cases hq⟩

theorem Plan.checked_map {n : Nat} {α : Type} (x : Except (Nat × Nat) α) (f : α → Plan) (h : ∀ a, (f a).IssuesOnly n) :
    Plan.CheckedOnly n (x.map f) := by
  refine ⟨fun q hq => ?_⟩
  cases x with
  | error e => simp [Except.map] at hq
  | ok a => simp only [Except.map, Except.ok.injEq] at hq; subst hq; exact h a

theorem defaultReads_atIssue (s : State) (n : Nat) (d : GatherDesc) (miss : Nat) :
    ∀ e ∈ s.defaultReads d miss, e.atIssue n = true := by
  intro e h
  unfold State.defaultReads at h
  split at h
  · rw [(List.mem_replicate.mp h).2]; rfl
  · cases h

theorem gatherNow_atIssue (s : State) (n : Nat) (d : GatherDesc) (ix : List Nat) :
    ∀ e ∈ s.gatherNow n d ix, e.atIssue n = true := by
  intro e h
  simp only [State.gatherNow, List.mem_append, List.mem_cons, List.not_mem_nil, or_false, List.mem_map] at h
  rcases h with (((h | h) | h) | ⟨r, _, h⟩) | h
  · subst h; rfl
  · subst h; rfl
  · split at h
    · cases h
    · simp only [List.mem_cons, List.not_mem_nil, or_false] at h; subst h; rfl
  · subst h; rfl
  · exact defaultReads_atIssue s n d _ e h

theorem scatterNow_atIssue (s : State) (n : Nat) (d : GatherDesc) (ix : List Nat) :
    ∀ e ∈ s.scatterNow n d ix, e.atIssue n = true := by
  intro e h
  simp only [State.scatterNow, List.mem_cons, List.not_mem_nil, or_false] at h
  rcases h with h | h <;> subst h <;> rfl

end Sys2Proof.Machine
end

