-- ==== Sys2Proof/Laws/Tick.lean ====
section
/-! SUPPORT. What the parts of an edge, of the start of a tick and of the tier manager may change (R54, R71 to R76, R326, R334). -/

namespace Sys2Proof.Machine

theorem State.setTick_same (s : State) (t : TickUnit) : sameBut [.tick] s (s.setTick t) := by
  intro f hf; cases f <;> simp [Field.same] at hf ⊢

theorem State.setJob_same (s : State) (j : Job) : sameBut [.job] s (s.setJob j) := by
  intro f hf; cases f <;> simp [Field.same] at hf ⊢

theorem State.setUnd_same (s : State) (u : Understory) : sameBut [.und] s (s.setUnd u) := by
  intro f hf; cases f <;> simp [Field.same] at hf ⊢

/-! ### The tier manager -/

/-- What the tier manager may change: Understory's own state, and, as a frame is read for a write-back, what the cache partition
holds and counters. -/
def tierFields : List Field := [.und, .parts, .ctr]

theorem State.setPage_tier (s : State) (p : Nat) (v : Page) : sameBut tierFields s (s.setPage p v) :=
  (State.setPage_same _ _ _).weaken (by simp [tierFields])

theorem State.setUnd_tier (s : State) (u : Understory) : sameBut tierFields s (s.setUnd u) :=
  (State.setUnd_same _ _).weaken (by simp [tierFields])

theorem State.startWriteback_same (s : State) (p : Nat) : sameBut tierFields s (s.startWriteback p) := by
  unfold State.startWriteback
  dsimp only
  split
  · split
    · exact sameBut.refl _ _
    · exact ((State.touchRead_same _ _ _ _).weaken (by simp [tierFields])).trans (State.setPage_tier _ _ _)
  · exact sameBut.refl _ _

theorem State.evict_same (s : State) (p : Nat) : sameBut tierFields s (s.evict p) := by
  unfold State.evict
  split
  · exact State.setPage_tier _ _ _
  · exact sameBut.refl _ _

theorem State.takeFrame_same (s : State) (a : Nat) : sameBut tierFields s (s.takeFrame a).1 := by
  unfold State.takeFrame
  split
  · exact State.setUnd_tier _ _
  · split
    · exact sameBut.refl _ _
    · split
      · exact State.setPage_tier _ _ _
      · exact (State.startWriteback_same _ _).trans (State.evict_same _ _)

theorem State.beginStage_same (s : State) (r : StageReq) : sameBut tierFields s (s.beginStage r) := by
  unfold State.beginStage
  have h := State.takeFrame_same s (s.pageAccount r.page)
  generalize s.takeFrame (s.pageAccount r.page) = x at h
  obtain ⟨t, f⟩ := x
  cases f with
  | none => exact h
  | some k => exact h.trans ((State.setPage_tier _ _ _).trans (State.setUnd_tier _ _))

theorem State.writeAhead_same (s : State) (urgent : Bool) : sameBut tierFields s (s.writeAhead urgent) := by
  unfold State.writeAhead
  refine sameBut.fold (fun v a => ?_) _ s
  generalize (if urgent = true then 64 else 16 : Nat) = k
  split
  · exact sameBut.refl _ _
  · split
    · split
      · exact State.startWriteback_same _ _
      · exact sameBut.refl _ _
    · exact sameBut.refl _ _

theorem State.serveStaging_same (s : State) : sameBut tierFields s s.serveStaging := by
  unfold State.serveStaging
  dsimp only
  refine sameBut.trans ?_ (sameBut.fold (fun v c => ?_) _ _)
  · split
    · exact sameBut.refl _ _
    · exact sameBut.fold State.beginStage_same _ _
  · split
    · exact sameBut.refl _ _
    · split
      · exact State.beginStage_same _ _
      · exact sameBut.refl _ _

/-- R326, R335: the tier manager changes no byte of memory outside Understory. -/
theorem State.serveTier_same (s : State) : sameBut tierFields s s.serveTier :=
  ((State.writeAhead_same _ _).trans (State.serveStaging_same _)).trans (State.writeAhead_same _ _)

theorem State.tierEdge_same (s : State) (t : Nat) : sameBut tierFields s (s.tierEdge t) := by
  unfold State.tierEdge
  exact ((State.count_same _ _ _).weaken (by simp [tierFields])).trans ((State.setUnd_tier _ _).trans (State.serveTier_same _))

theorem State.tablesEdge_same (s : State) : sameBut [.und] s s.tablesEdge := State.setUnd_same _ _

/-! ### Edges -/

theorem State.tickMon_same (s : State) : sameBut [.tx] s s.tickMon := by
  unfold State.tickMon
  split
  · exact State.send_same _ _
  · exact sameBut.refl _ _

theorem State.closePeak_same (s : State) : sameBut [.power] s s.closePeak := by
  intro f hf; cases f <;> simp [Field.same, State.closePeak] at hf ⊢

theorem State.takeOver_same (s : State) : sameBut [.tick] s s.takeOver := by
  unfold State.takeOver
  dsimp only
  split
  · exact State.setTick_same _ _
  · exact sameBut.refl _ _

theorem State.overran_same (s : State) (t : Nat) : sameBut [.tick] s (s.overran t) := State.setTick_same _ _

theorem State.mergeReply_same (s : State) (f c k : Nat) : sameBut [.tick] s (s.mergeReply f c k) := State.setTick_same _ _

theorem State.mergeOwn_same (s : State) : sameBut [.tick] s s.mergeOwn := (State.mergeReply_same _ _ _ _).trans (State.setTick_same _ _)

/-- R71: a beacon goes to the children, and its sender notes what it announced. -/
theorem State.sendBeacon_same (s : State) (t : Nat) : sameBut [.ctr, .tx, .fab, .tick] s (s.sendBeacon t) := by
  unfold State.sendBeacon
  dsimp only
  refine sameBut.after (State.setTick_same _ _) (by simp) ?_
  split
  · exact (State.sendChildren_same _ _ _).weaken (by simp)
  · exact sameBut.refl _ _

theorem State.sendReply72_same (s : State) (t : Nat) : sameBut [.ctr, .tx, .fab, .tick] s (s.sendReply72 t) := by
  unfold State.sendReply72
  dsimp only
  refine sameBut.after (State.setTick_same _ _) (by simp) ?_
  split
  · exact (State.mergeOwn_same _).weaken (by simp)
  · exact sameBut.after (State.sendTree_same _ _ _ _) (by simp) ((State.mergeOwn_same _).weaken (by simp))

theorem State.beaconLost_same (s : State) : sameBut holdFields s s.beaconLost := by
  unfold State.beaconLost
  split
  · exact State.hold_same _ _
  · exact sameBut.refl _ _

end Sys2Proof.Machine
end

