-- ==== Sys2Proof/Laws/Wake.lean ====
section
/-! SUPPORT. What waking parts changes: power states, the stacks' self-refresh and counters, and nothing else (R33, R530). -/

namespace Sys2Proof.Machine

def wakeFields : List Field := [.power, .hbmStacks, .ctr]

theorem State.setPower_same (s : State) (p : Power) : sameBut [.power] s (s.setPower p) := by
  intro f hf; cases f <;> first | rfl | simp at hf

theorem State.setStack_same (s : State) (k : Nat) (v : Stack) : sameBut [.hbmStacks] s (s.setStack k v) := by
  intro f hf; cases f <;> first | rfl | simp at hf

theorem State.refreshAlone_same (s : State) (d : Nat) (on : Bool) : sameBut [.hbmStacks] s (s.refreshAlone d on) :=
  sameBut.fold (fun u k => by dsimp only; split <;> first | exact sameBut.refl _ _ | exact State.setStack_same _ _ _) _ _

theorem State.wakeKey_same (s : State) (key : Nat) : sameBut [.power, .ctr] s (s.wakeKey key) := by
  unfold State.wakeKey
  split
  · exact sameBut.refl _ _
  · exact sameBut.after (State.setPower_same _ _) (by simp) ((State.count_same _ _ _).weaken (by simp))

theorem State.wakeKey_wake (s : State) (key : Nat) : sameBut wakeFields s (s.wakeKey key) :=
  (State.wakeKey_same s key).weaken (by simp [wakeFields])

theorem State.wakeDie_same (s : State) (d : Nat) : sameBut wakeFields s (s.wakeDie d) := by
  unfold State.wakeDie
  split
  · exact sameBut.after (State.refreshAlone_same _ _ _) (by simp [wakeFields]) (State.wakeKey_wake _ _)
  · exact sameBut.refl _ _

theorem State.wakeRegion_same (s : State) (r : Nat) : sameBut wakeFields s (s.wakeRegion r) :=
  (State.wakeDie_same _ _).trans (State.wakeKey_wake _ _)

theorem State.wakeCluster_same (s : State) (n : Nat) : sameBut wakeFields s (s.wakeCluster n) := by
  refine sameBut.trans ?_ (State.wakeKey_wake _ _)
  unfold State.wakeAround
  split
  · exact State.wakeRegion_same _ _
  · exact sameBut.refl _ _

/-- R530: what waking a part changes. -/
theorem State.wakeUp_same (s : State) (key : Nat) : sameBut wakeFields s (s.wakeUp key) := by
  unfold State.wakeUp
  dsimp only
  split
  · exact (State.wakeCluster_same _ _).trans (State.wakeKey_wake _ _)
  · exact State.wakeCluster_same _ _
  · exact State.wakeRegion_same _ _
  · exact State.wakeDie_same _ _
  · exact (State.wakeCluster_same _ _).trans (State.wakeKey_wake _ _)
  · exact (State.wakeDie_same _ _).trans (State.wakeKey_wake _ _)

theorem State.accessKey_same (s : State) (key : Nat) : sameBut wakeFields s (s.accessKey key) := by
  unfold State.accessKey
  dsimp only
  split
  · split
    · exact sameBut.after (State.count_same _ _ _) (by simp [wakeFields]) (State.wakeUp_same _ _)
    · exact State.wakeUp_same _ _
  · exact sameBut.refl _ _

/-- R33: what accesses to ranges change before they are served. -/
theorem State.wakeRanges_same (s : State) (rs : List (Nat × Nat)) : sameBut wakeFields s (s.wakeRanges rs) := by
  unfold State.wakeRanges
  split
  · exact sameBut.refl _ _
  · exact sameBut.fold State.accessKey_same _ _

/-- R33, R51: what looking for what a bundle needs changes, whether the bundle then waits or not. -/
theorem State.wakeNeeded_same (s : State) (t : Nat) (needs : Nat → Bool) :
    (∀ u, s.wakeNeeded t needs = .hold u → sameBut wakeFields s u) ∧
    (∀ u r, s.wakeNeeded t needs = .from1 u r → sameBut wakeFields s u) := by
  have key (l : List Nat) : sameBut wakeFields s (l.foldl (fun (s : State) k =>
      if k / 2 ^ 16 = 0 || k / 2 ^ 16 ≥ 4 then s.wakeUp k else s.accessKey k) s) :=
    sameBut.fold (fun u k => by
      by_cases h : (decide (k / 2 ^ 16 = 0) || decide (k / 2 ^ 16 ≥ 4)) = true
      · rw [if_pos h]; exact State.wakeUp_same _ _
      · rw [if_neg h]; exact State.accessKey_same _ _) _ _
  unfold State.wakeNeeded
  dsimp only
  constructor
  · intro u h; split at h <;> cases h; exact key _
  · intro u r h; split at h <;> cases h; exact key _

theorem State.awaitUnits_same (s : State) (t : Nat) : sameBut [.clk] s (s.awaitUnits t) := by
  unfold State.awaitUnits
  split
  · exact sameBut.refl _ _
  · exact State.reach_same _ _

/-- R51: what accepting a slot of a die changes before its issue. -/
theorem State.accepting_same (s : State) (d t : Nat) : sameBut [.clk, .seqs, .ctr] s (s.accepting d t) :=
  sameBut.after (State.awaitUnits_same _ _) (by simp) ((State.unblock_same _ _ _).weaken (by simp))

end Sys2Proof.Machine
end

