-- ==== Sys2Proof/Laws/Words.lean ====
section
/-! SUPPORT. The words of a scalar core (R143, R146): which meaning runs, and what its completion leaves in the core. -/

namespace Sys2Proof.Machine

/-- A core that is at a word runs it, in the cycle that it is free for. -/
theorem State.word_at {s : State} {n : Fin 64} {core : Fin 4} {op w : Nat} (h : s.atWord n core op w)
    (f : State → Core → Nat → State) : s.word n core op f = f (s.atCore n core) (s.coreOf n core) w := by
  obtain ⟨h1, h2, h3, h4, h5, h6, h7⟩ := h
  unfold State.word
  have hc : ((s.cluster n).core core) = s.coreOf n core := rfl
  have due : s.dueTake n = s := by simp only [State.dueTake, h2, if_true]
  simp only [due, ite_self, hc, h5]
  have : (s.cluster n).item.isNone = false := by cases h : (s.cluster n).item <;> simp_all
  simp only [h1, h3, h4, h6, h7, decide_false, Bool.not_true, Bool.or_false, this]
  simp [State.atCore]

/-- A change of one core, then the completion of its word, is one change of that core. -/
theorem State.setCore_nextWord (s : State) (n core pc lat : Nat) (f : Core → Core) :
    (s.setCore n core f).nextWord n core pc lat = s.setCluster n { s.cluster n with
      cores := (s.cluster n).cores.mapIdx (fun j k => if j = core then { f k with pc := pc, freeAt := s.cc + lat } else k) } := by
  unfold State.nextWord State.setCore
  dsimp only
  rw [State.cluster_setCluster, State.setCluster_setCluster]
  simp only [State.cc, State.setCluster_clk, Machine.setCore, Vector.mapIdx_mapIdx]
  congr 2
  congr 1
  funext i k
  dsimp
  split <;> simp [*]

/-- The completion of a word that changes nothing else. -/
theorem State.nextWord_eq (s : State) (n core pc lat : Nat) :
    s.nextWord n core pc lat = s.setCluster n { s.cluster n with
      cores := (s.cluster n).cores.mapIdx (fun j k => if j = core then { k with pc := pc, freeAt := s.cc + lat } else k) } := rfl

theorem State.atCore_same (s : State) (n core : Nat) : sameBut [.clk] s (s.atCore n core) := State.reach_same _ _

/-- The word of a core changes its cluster alone. -/
theorem State.nextWord_same (s : State) (n core pc lat : Nat) : sameBut [.clusters] s (s.nextWord n core pc lat) :=
  State.setCluster_same _ _ _

theorem State.nextWord_other (s : State) (n core pc lat : Nat) : sameOtherClusters n s (s.nextWord n core pc lat) :=
  fun m hm => State.cluster_setCluster_other s n m _ hm

end Sys2Proof.Machine
end

