-- ==== Sys2Proof/Laws/Writes.lean ====
section
/-! SUPPORT. Every write of local memory keeps the canonical form of the two memories (R596), and what a write within one piece of
on-chip memory leaves there. -/

namespace Sys2Proof.Machine

/-- What changes neither memory keeps their form. -/
theorem State.memoryWf_of_same {s t : State} {fs : List Field} (h : sameBut fs s t) (h1 : Field.sram ∉ fs) (h2 : Field.hbm ∉ fs)
    (hw : s.memoryWf) : t.memoryWf := by
  have a := h .sram h1
  have b := h .hbm h2
  simp only [Field.same] at a b
  unfold State.memoryWf
  rw [a, b]
  exact hw

theorem State.writeHbm_wf (s : State) (h hint : Nat) (bs : List Byte) (hw : s.memoryWf) : (s.writeHbm h hint bs).memoryWf := by
  have k := State.touchWrite_same s h hint bs
  have a := k .sram (by simp)
  have b := k .hbm (by simp)
  simp only [Field.same] at a b
  unfold State.writeHbm State.memoryWf
  simp only [State.setHbm_sram, State.setHbm_hbm, a, b]
  exact ⟨hw.1, Memory.wf_putBlock _ _ _ hw.2⟩

theorem State.writePiece_wf (s : State) (a hint : Nat) (bs : List Byte) (hw : s.memoryWf) : (s.writePiece a hint bs).memoryWf := by
  unfold State.writePiece
  dsimp only
  have h0 := State.memoryWf_of_same (State.dropOwnerLines_same s a bs.length) (by simp) (by simp) hw
  split
  · exact ⟨Memory.wf_putBlock _ _ _ h0.1, h0.2⟩
  · split
    · exact State.memoryWf_of_same (State.usePage_same _ _ _) (by simp) (by simp) (State.writeHbm_wf _ _ _ _ h0)
    · exact State.writeHbm_wf _ _ _ _ h0
  · exact h0

/-- A write of local addresses keeps the form of the memories. -/
theorem State.writeLocal_wf (s : State) (a hint : Nat) (bs : List Byte) (hw : s.memoryWf) : (s.writeLocal a hint bs).memoryWf := by
  have go (l : List (Nat × Nat)) (p : State × List Byte) (h : p.1.memoryWf) :
      (l.foldl (fun (p : State × List Byte) q => (p.1.writePiece q.1 hint (p.2.take q.2), p.2.drop q.2)) p).1.memoryWf := by
    induction l generalizing p with
    | nil => exact h
    | cons q l ih => exact ih _ (State.writePiece_wf _ _ _ _ h)
  exact go (pieces a bs.length) (s, bs) hw

end Sys2Proof.Machine
end

