-- ==== Sys2Proof/WellFormed.lean ====
section
/-! DEFINITION. Which commands a sender of the specification can send: packets of the type of their row with a body of the
length that `LEN` gives (R369, R370), token packets of their type (R242), and operands of the lengths their rules fix. The
meanings do not assume it. -/

namespace Sys2Proof

/-- R369: a data packet's payload is padded to 64-byte units. -/
def dataBody (len : Nat) : Nat := max 64 ((len + 63) / 64 * 64)

/-- R369: header and body of a packet of a type: reserved fields 0, `LEN` in its range, and a body of that length. -/
def Pkt.wf (p : Pkt) (typ : Nat) : Bool :=
  let len := p.len.toNat
  p.typ.toNat == typ && p.rsv == 0 && p.flags.toNat < 32 && p.cls.toNat < 16 &&
    (if typ < 0x80 then p.cls.toNat % 2 == 0 && len == 32 && p.body.length == 32
     else p.cls.toNat % 2 == 1 && 32 ≤ len && len ≤ 4096 && len % 32 == 0 && p.body.length == dataBody len)

/-- R242: a token packet of a type carries the bytes that its `LEN` gives. -/
def Tok.wf (t : Tok) (typ : Nat) : Bool := t.typ.toNat == typ && t.rsv == 0 && t.payload.length == t.len.toNat

/-- R419: an access of a CXL.mem line: it stays within 64 bytes. -/
def lineWf (w : BitVec 40) (len : Nat) : Bool := 1 ≤ len && w.toNat % 64 + len ≤ 64

/-- Whether a command is one that the specification's senders can send. -/
def Instr.wf : Instr → Bool
  | .arm _ p => p.wf 0x03
  | .go _ p _ => p.wf 0x01
  | .beacon _ p _ => p.wf 0x01
  | .beaconReply _ p => p.wf 0x02
  | .snapData p => p.wf 0x84
  | .snapTag p => p.wf 0x84
  | .snapInvalidate p => p.wf 0x84
  | .pullRequest p => p.wf 0x84
  | .pullData p => p.wf 0x84
  | .ack p => p.wf 0x09
  | .store p => p.wf 0x80
  | .loadReq p => p.wf 0x20
  | .loadData p => p.wf 0x81
  | .atomicReq p => p.wf 0x21
  | .atomicReply p => p.wf 0x22
  | .token p => p.wf 0x82
  | .collPartial p => p.wf 0x83
  | .collResult p => p.wf 0x83
  | .collNote p => p.wf 0x83
  | .pruneReport p => p.wf 0x83
  | .blaze p => p.wf 0x08
  | .packetForward _ p => p.wf p.typ.toNat
  | .dispatchRowArrival _ t => t.wf 1
  | .returnRowArrival _ t => t.wf 2
  | .countArrival _ t => t.wf 3
  | .cmdlistRowArrival _ t => t.wf 4
  | .copyBeforeWrite _ data => 1 ≤ data.length
  | .cxlMemRead w len => lineWf w len
  | .cxlMemWrite w data => lineWf w data.length
  | .stageComplete _ (.retried n) => 1 ≤ n && n ≤ 8
  | .stageComplete _ (.failed n) => n ≤ 8
  | .thermalRead junctions hbmTemps => junctions.length == 32 && hbmTemps.length == 8
  | .registerWrite _ width _ => width == 4 || width == 8
  | .mgmtRead _ _ _ width => width == 4 || width == 8
  | .mgmtWrite _ _ _ width _ => width == 4 || width == 8
  | .setOwnerRoot _ _ rootHash => rootHash.length == 64
  | .recoveryPiece _ len data => data.length == len.toNat
  | .challenge _ _ nonce => nonce.length == 32
  | .getMeasurements _ _ signed nonce => !signed || nonce.length == 32
  | .finish _ _ _ _ chainRoot => chainRoot.length == 64
  | .vendorDefinedRequest _ _ data => data.length ≤ 4096
  | .poll body => body.length == 64
  | .reply body => body.length == 64
  | .timeServerReply _ packet => 48 ≤ packet.length
  | .hostXferCompletion ok data => ok || data.isEmpty
  | _ => true

end Sys2Proof
end

