-- ==== Sys2Proof/Tests/Slice0.lean ====
section
/-! SUPPORT. The model's own tests: commands that no sender can send, small machines that meet the hypotheses of the
statements, and single steps whose results follow from the specification's text. -/

namespace Sys2Proof.Tests

set_option Elab.async false

open Sys2Proof Sys2Proof.Machine

/-! ### Small machines -/

/-- A little-endian block of `n` bytes from its fields: offset, bytes, value. -/
def block (n : Nat) (fs : List (Nat × Nat × Nat)) : List Byte :=
  (List.range n).map (fun i =>
    match fs.find? (fun f => f.1 ≤ i && i < f.1 + f.2.1) with
    | some f => BitVec.ofNat 8 (f.2.2 / 2 ^ (8 * (i - f.1)))
    | none => 0)

/-- On-chip memory with blocks of bytes at rising addresses. -/
def memory (bs : List (Nat × List Byte)) : List Host.Cell := bs.flatMap (fun b => blockCells zeroByte b.1 b.2)

/-- A device that has booted and runs a job. -/
def running : State := { host := { bootState := 1, bootStage := 8 }, job := { state := .running } }

/-- That device with bytes in near SRAM of cluster 0, by offset. -/
def withNear (bs : List (Nat × List Byte)) : State :=
  { running with sram := memory (bs.map (fun b => (nearBase 0 + b.1, b.2))) }

/-! ### Commands that no sender can send -/

/-- A packet without payload of a type. -/
def control (typ : BitVec 8) : Pkt :=
  { dest := 0, src := 0, jobTag := 0, cls := 0, typ := typ, flags := 0, epoch := 0, seq := 0, len := 32, status := 0, rsv := 0
    addr := 0, pcrc := 0, hcrc := 0, body := List.replicate 32 0 }

/-- A packet that carries data, with `LEN` 64. -/
def data (typ : BitVec 8) : Pkt := { control typ with cls := 1, len := 64, body := List.replicate 64 0 }

/-- A token packet of a type that carries four bytes. -/
def tok (typ : BitVec 8) : Tok :=
  { typ := typ, xd := 0, expert := 0, slot := 0, src := 0, seg := 0, token := 0, rank := 0, pfmt := 0, len := 4, hidx := 0
    tick := 0, rsv := 0, pcrc := 0, hcrc := 0, payload := [1, 2, 3, 4] }

/-- R369, R370, R242: a packet or a token packet of another type than its row's, and a body of the wrong length. -/
theorem test_ill_formed_packets : ∀ c ∈
    [Instr.arm 0 (control 0x01), .go 0 (control 0x03) 0, .beacon 0 (control 0x02) 0, .beaconReply 0 (control 0x01),
     .snapData (data 0x80), .snapTag (data 0x80), .snapInvalidate (data 0x80), .pullRequest (data 0x80), .pullData (data 0x80),
     .ack (control 0x08), .store (data 0x81), .loadReq (control 0x21), .loadData (data 0x80), .atomicReq (control 0x22),
     .atomicReply (control 0x21), .token (data 0x83), .collPartial (data 0x82), .collResult (data 0x82), .collNote (data 0x82),
     .pruneReport (data 0x82), .blaze (control 0x09)] ++
    [.packetForward 0 { control 0x08 with body := [] }, .store { data 0x80 with body := [] }, .store { data 0x80 with len := 31 },
     .store { data 0x80 with cls := 0 }, .ack { control 0x09 with rsv := 1 }, .ack { control 0x09 with flags := 32 },
     .dispatchRowArrival 0 (tok 2), .returnRowArrival 0 (tok 1), .countArrival 0 (tok 4), .cmdlistRowArrival 0 (tok 3),
     .dispatchRowArrival 0 { tok 1 with len := 5 }, .dispatchRowArrival 0 { tok 1 with rsv := 1 }], Instr.wf c = false := by decide

/-- Operands of a length or a width that their rules do not allow. -/
theorem test_ill_formed_operands : ∀ c ∈
    [Instr.copyBeforeWrite 0 [], .cxlMemRead 60 5, .cxlMemRead 0 0, .cxlMemWrite 63 [0, 0], .thermalRead [] [],
     .registerWrite 0 2 0, .mgmtRead .host {} 0 1, .mgmtWrite .host {} 0 16 0, .setOwnerRoot .bmc {} [0],
     .recoveryPiece 0 2 [0], .challenge .doe 0 [], .getMeasurements .doe 1 true [], .finish .doe 0 true true [],
     .vendorDefinedRequest .doe none (List.replicate 4097 0), .poll [], .reply [], .timeServerReply false [],
     .hostXferCompletion false [1]], Instr.wf c = false := by decide +kernel

/-- And the same kinds in their forms. -/
theorem test_well_formed : ∀ c ∈
    [Instr.arm 0 (control 0x03), .store (data 0x80), .dispatchRowArrival 0 (tok 1), .copyBeforeWrite 0 [0], .cxlMemRead 60 4,
     .registerWrite 0 8 0, .poll (List.replicate 64 0), .hostXferCompletion true [1], .commit], Instr.wf c = true := by decide

/-! ### Cluster operations -/

/-- A cluster slot whose descriptor is at byte 64 of near SRAM, with vector units. -/
def slotArg (units : Nat) : BitVec 40 := BitVec.ofNat 40 (2 + units * 2 ^ 20)

/-- A vector descriptor (R135): one row of one FP32 element. -/
def vecDescriptor : List Byte :=
  block 32 [(0, 4, 4096), (4, 4, 4128), (8, 4, 4160), (12, 4, 4192), (16, 4, 1), (20, 2, 1), (22, 1, 0xCC)]

/-- Records (R150): a DENSE tile and a CSR tile of one INT8 element, without and with a map plane; the CRCs are those of their
first 28 bytes. -/
def denseRecord : List Byte :=
  block 32 [(0, 8, 0xF00000001000), (8, 1, 6), (10, 1, 1), (11, 1, 1), (12, 2, 1), (24, 4, 32), (28, 4, 0x3490FFDD)]
def csrRecord : List Byte :=
  block 32 [(0, 8, 0xF00000002000), (8, 1, 6), (9, 1, 1), (10, 1, 1), (11, 1, 1), (12, 2, 1), (14, 2, 1), (16, 2, 8), (24, 4, 96),
    (28, 4, 0xEB599144)]
def mappedRecord : List Byte :=
  block 32 [(0, 8, 0xF00000002000), (8, 1, 6), (9, 1, 0x11), (10, 1, 1), (11, 1, 1), (12, 2, 1), (14, 2, 1), (16, 2, 8),
    (24, 4, 128), (28, 4, 0x7799F1FC)]

/-- A running device whose near SRAM holds a descriptor at 64, the three records from 1024 on, and the row pointers of the CSR
tiles; its table of collectives has one, of 4 bytes of FP32 (R427). -/
def withDescriptor (d : List Byte) : State :=
  { withNear [(64, d), (1024, denseRecord), (1056, csrRecord), (1088, mappedRecord), (0x2000, [0, 0, 1, 0])] with
    job := { state := .running, sections := [{ typ := 7, die := 255, load := 0, bytes := block 64 [(3, 1, 12), (5, 1, 1), (8, 4, 4)] }] } }

/-- Descriptors of the operations that are no plain vector operation. -/
def mmulDescriptor : List (Nat × Nat × Nat) := [(0, 4, 4096), (12, 4, 8192), (24, 2, 1), (26, 1, 1), (27, 1, 1), (29, 1, 0x66)]
def tmulDescriptor (a b : Nat) : List (Nat × Nat × Nat) := [(0, 4, a), (8, 4, b), (12, 2, 1), (14, 1, 1), (15, 1, 1)]
def moveDescriptor : List (Nat × Nat × Nat) := [(0, 8, 0xF00100000000), (8, 4, 4096), (12, 4, 32), (16, 2, 1)]
def gatherDescriptor (fmt bag : Nat) : List (Nat × Nat × Nat) :=
  [(0, 8, 0xF00100000000), (8, 4, 4096), (12, 4, 8192), (16, 4, 1), (20, 2, 32), (23, 1, fmt), (24, 2, bag), (28, 4, 1)]

/-- A descriptor for each cluster operation, with the units of its slot. -/
def descriptors : List (Nat × Nat × List Byte) :=
  [0x40, 0x41, 0x42, 0x43, 0x44, 0x45, 0x48, 0x50, 0x51, 0x52, 0x53, 0x58, 0x59, 0x60, 0x61, 0x68, 0x69, 0x6A, 0x6B, 0x6C, 0x6D,
    0x6E, 0x6F].map (fun op => (op, 1, vecDescriptor)) ++
  [(0x10, 0, block 32 mmulDescriptor), (0x11, 0, block 32 mmulDescriptor), (0x14, 0, block 32 [(0, 4, 0x80000001)]),
   (0x15, 0, block 32 [(0, 4, 7), (12, 4, 4096), (29, 1, 2)]), (0x70, 0, block 32 (tmulDescriptor 1024 1056)),
   (0x72, 0, block 32 (tmulDescriptor 1056 1056)), (0x74, 0, block 32 [(0, 4, 1024), (4, 4, 1024), (8, 4, 1056), (12, 4, 0x3000)]),
   (0x75, 0, block 32 [(0, 4, 1088), (4, 4, 4096), (8, 4, 0x3000)]),
   (0x76, 0, block 32 [(0, 4, 0x4000), (4, 4, 0x3000), (16, 2, 1), (18, 1, 1), (20, 2, 1)]),
   (0x77, 0, block 32 (tmulDescriptor 1024 1024 ++ [(18, 2, 1), (20, 4, 0x3000)])),
   (0x90, 0, block 32 [(0, 4, 0x4000), (4, 4, 64), (8, 8, 0xF00000006000), (16, 1, 1), (17, 1, 1), (18, 1, 1), (19, 1, 0xCC)]),
   (0xA0, 0, block 32 moveDescriptor), (0xA1, 0, block 32 moveDescriptor), (0x80, 0, block 32 (gatherDescriptor 0 0)),
   (0x81, 0, block 32 (gatherDescriptor 12 1)), (0x82, 0, block 32 (gatherDescriptor 0 0)),
   (0x83, 0, block 32 (gatherDescriptor 12 0))] ++
  [(0xB0, 0, block 64 (mmulDescriptor ++ [(40, 4, 4096)])), (0xB1, 0, block 64 (mmulDescriptor ++ [(40, 4, 4096)])),
   (0xB2, 0, block 64 (tmulDescriptor 1024 1056 ++ [(40, 4, 4096)])),
   (0xB4, 0, block 64 (mmulDescriptor ++ [(36, 4, 0x5000), (40, 4, 4096)])),
   (0xB5, 0, block 64 (tmulDescriptor 1024 1056 ++ [(36, 4, 0x5000), (40, 4, 4096)])),
   (0xB8, 0, block 64 [(36, 4, 0x5000), (40, 4, 4096)]), (0xB9, 0, block 64 [(36, 4, 0x5000), (40, 4, 4096)])]

/-- The state in which a bundle's slots are read, unless the bundle waits for what wakes up. -/
def awake : Waking → Option State
  | .hold _ => none
  | .from1 u _ => some u

/-- What reading a cluster slot finds, and whether its claims are free; none where it waits for what wakes up. -/
def slotFinds (s : State) (n op : Nat) (arg : BitVec 40) : Option Attempt :=
  match clusterPlan op with
  | some plan => (awake (s.clusterWaking n op arg plan)).map (fun u => u.attempt n op arg plan)
  | none => none

/-- An operation's reading finds no fault and its claims are free, on an unfenced cluster of a job that is not held. -/
def issuesOn (s : State) (n op : Nat) (arg : BitVec 40) : Bool :=
  match clusterPlan op with
  | none => false
  | some plan =>
    match awake (s.clusterWaking n op arg plan) with
    | none => false
    | some u =>
      match plan u n arg with
      | .ok units slots _ _ _ _ => s.job.state ≠ .held && !u.clusterFenced n && (u.cluster n).accepts units slots
      | _ => false

/-- Witnesses of `ClusterSlotsIssue` and `ClustersWriteAtEnd`: every cluster operation issues from some descriptor, where no part is in a
power state, and `VADD` while its vector unit wakes up. -/
theorem witness_cluster_slots :
    (∀ p ∈ clusterOps, ∃ d ∈ descriptors, d.1 = p.1 ∧ issuesOn (withDescriptor d.2.2) 0 p.1 (slotArg d.2.1) = true) ∧
    running.power.states = [] ∧ running.power.waking = [] ∧
    issuesOn { withDescriptor vecDescriptor with power := { waking := [(stateKey 0 1, 5)] } } 0 0x40 (slotArg 1) = true ∧
    (Eff.acc 0 0 []).atIssue 0 = true := by
  decide +kernel

/-- Witnesses of `SlotsStop` for cluster slots: every operation stops on a descriptor of ones; a product of tiles on a record of
zeros; a move on an address that does not exist; and every operation waits on a cluster whose units and slots are claimed. -/
theorem witness_cluster_stops :
    (∀ p ∈ clusterOps, slotFinds (withDescriptor (List.replicate 64 0xFF)) 0 p.1 (slotArg 0) = some .bad) ∧
    slotFinds (withDescriptor (block 32 (tmulDescriptor 0x800 0x800))) 0 0x70 (slotArg 0) = some (.badMeta 1 (nearBase 0 + 0x800)) ∧
    slotFinds (withDescriptor (block 32 ((0, 8, 0xF05000000000) :: moveDescriptor.drop 1))) 0 0xA0 (slotArg 0) =
      some (.refuse 0xF05000000000 1) ∧
    (∀ d ∈ descriptors, d.1 ≠ 0xB8 → d.1 ≠ 0xB9 → slotFinds ((withDescriptor d.2.2).setCluster 0
      { ops := [{ op := 0x70, units := 0xFFF, slots := 0xFFFFFFFF }] }) 0 d.1 (slotArg d.2.1) = some .wait) ∧
    slotFinds { withDescriptor vecDescriptor with power := { states := [(stateKey 1 0, (2, 0))] } } 0 0x40 (slotArg 1) = none ∧
    ({ running with fence := { fenced := BitVec.twoPow 116 0 } }).clusterFenced 0 = true ∧ running.job.state ≠ .held := by
  decide +kernel

/-! ### The machine as a whole -/

/-- Witnesses of `StepRunsFront` and `IdleStep`. -/
theorem witness_step_runs_front : ({ running with pending := [.commit, .jobEnd 0] }).pending = [.commit, .jobEnd 0] := rfl
theorem witness_idle_step : running.pending = [] := rfl

/-- A running job that uses Understory, with die 0's Sillage fenced and vector 36 masked and pending. -/
def settled : State :=
  { running with fence := { fenced := BitVec.twoPow 116 0x50, used := BitVec.twoPow 116 0x68 }, host := { pba := BitVec.twoPow 64 36 }
                 pending := [.commit] }

/-- Witnesses of `FencedJobsAreHeld`, `NoVectorStaysDue` and `SettleFrame`: a state with a fence, a job and a pending vector that
meets the invariants, and its step answers. -/
theorem witness_invariants :
    settled.heldIfFenced ∧ settled.noVectorDue ∧ settled.job.state.holdable = true ∧ ∃ t, step settled = .next t := by
  refine ⟨show settled.mustHold = false by decide +kernel, ?_, by decide, _, rfl⟩
  have : ∀ v : Fin 38, settled.host.pba.getLsbD v = true → settled.maySend v = false := by decide +kernel
  intro v hv
  exact this ⟨v, hv⟩

/-- Witness of `HoldStopsTheJob`, with something in progress. -/
theorem witness_hold : settled.job.state.holdable = true := rfl

/-! ### Numbers and choices -/

/-- Witnesses of `MxBlocksAreWritten`: blocks whose elements are zeros of either sign, and that round to zero beside none. -/
theorem witness_numbers :
    (encodeBlock .mx4 true [.num true 0 0, .num false 0 0] []).scale = 127 ∧ Fmt.mx4.isMx = true ∧
    (encodeBlock .mx4 false [.num false 1 (-140)] []).codes = List.replicate 32 0 ∧ (Fmt.mx4.decode 8).isZero = true := by
  decide +kernel

/-- Witnesses of `BestChoicesAreKept`: numbers of unlike and of equal value, and a choice that is left out. -/
theorem witness_choices :
    (Val.num false 1 1).isNan = false ∧ (Val.inf true).isNan = false ∧
    topK 0 1 [⟨.num false 2 0, 1⟩, ⟨.nan, 2⟩, ⟨.num false 1 1, 3⟩, ⟨.num false 3 0, 4⟩] = [⟨.num false 3 0, 4⟩] := by decide +kernel

/-! ### Clusters and cores -/

/-- A cluster with an operation that ends, beside another. -/
def withOps : State :=
  running.setCluster 0 { ops := [{ op := 0x40, units := 2, slots := 0, due := 20, effects := [.sram (nearBase 0) [1, 2]] },
                                 { op := 0x14, units := 0, slots := 1, due := 3 }] }

/-- Witness of `OperationsEnd`, and what the end of the first operation leaves (R50). -/
theorem witness_operation_end : (∃ o, (withOps.cluster (0 : Fin 64)).ops[0]? = some o ∧ o.waitColl = none) ∧ running.landedNow = [] ∧
    (0 : Nat) < 1 := ⟨⟨_, rfl, rfl⟩, rfl, by decide⟩

/-- Witnesses of `LandedBytes`, `AccZeroClears` and `StoredBytes`: memory with a byte listed, entries listed, and a store of 8 bytes
that ends at the end of a page. -/
theorem witness_memory :
    Memory.wf (withNear [(64, [1, 0, 2])]).sram = true ∧ Memory.wf (withNear [(64, [1, 0, 2])]).hbm = true ∧
    Cells.wf 0 ({ acc := [(5, 7), (16384, 1)] } : Cluster).acc = true ∧ 0xF00000000FF8 % pageSize + 8 ≤ pageSize ∧
    running.place 0xF00000000FF8 = .sram 0xF00000000FF8 := by decide +kernel

/-- A running device in whose cluster 0 core 1 of an item is at the first word of a kernel, with register values. -/
def atWord (word : Nat) (r1 r2 : Word) : State :=
  { running with
    job := { state := .running, sections := [{ typ := 5, die := 255, load := 0, bytes := block 32 [(0, 4, 1), (4, 4, 1), (24, 8, word)] }] }
    clusters := [(0, { item := some ⟨0, 0, 0, []⟩
                       cores := (Vector.replicate 4 {}).set 1
                         { running := true, flags := 5, regs := ((Vector.replicate 32 0).set 1 r1).set 2 r2 } })] }

/-- A word (R146) from opcode, function, rd, rs1, rs2 and immediate. -/
def word (op fn rd rs1 rs2 imm : Nat) : Nat :=
  op * 2 ^ 56 + fn * 2 ^ 48 + rd * 2 ^ 43 + rs1 * 2 ^ 38 + rs2 * 2 ^ 33 + imm

/-- Witnesses of the statements on words: a defined word of each opcode, functions at the ends of their ranges. -/
theorem witness_words : ∀ p ∈ [(0x10, 0x8C), (0x30, 5), (0x31, 0), (0x03, 0), (0x04, 0), (0x02, 0), (0x05, 0), (0x20, 3), (0x21, 0),
    (0x01, 0)], (atWord (word p.1 p.2 1 2 3 5) 0 0).atWord 0 1 p.1 (word p.1 p.2 1 2 3 5) := by
  simp only [State.atWord]
  decide +kernel

/-- Witnesses of `SignalWords`: a `WAITSIG` whose flags are there; a `WAITU` beside an operation of another unit; an `END` with no
outstanding store, with another core running and with none. -/
theorem witness_signal_words :
    ((atWord (word 4 0 0 0 0 5) 0 0).coreOf 0 1).flags &&& bitsOf (word 4 0 0 0 0 5) 0 4 = bitsOf (word 4 0 0 0 0 5) 0 4 ∧
    (∀ o ∈ [({ op := 0x40, units := 2, slots := 0 } : ClusterOp)], o.units &&& bitsOf (word 2 0 0 0 0 1) 0 12 = 0 ∧
      (bitAt (word 2 0 0 0 0 1) 0 = true → o.accOnly = false)) ∧
    ((atWord (word 5 0 0 0 0 0) 0 0).coreOf 0 1).outstanding = 0 ∧
    (∀ j : Fin 4, j ≠ 1 → ((atWord (word 5 0 0 0 0 0) 0 0).coreOf 0 j).running = false) ∧
    (∃ j : Fin 4, j ≠ 1 ∧ (((atWord (word 5 0 0 0 0 0) 0 0).setCluster 0
      { item := some ⟨0, 0, 0, []⟩, cores := Vector.replicate 4 { running := true } }).coreOf 0 j).running = true) := by
  refine ⟨by decide +kernel, by decide +kernel, by decide +kernel, by decide +kernel, 0, by decide, by decide +kernel⟩

/-- A device with a route to coordinate 1 by port 0, whose link is up. -/
def onFabric (s : State) : State := s.setFab { s.fab with up := 1, escActive := { written := [(1, 1)] } }

/-- Witnesses of `LocalMemoryWords` and `RemoteMemoryWords`: the last eight bytes of near SRAM, and an address of another device that
has a route. -/
theorem witness_memory_words :
    (atWord (word 0x20 3 1 1 0 0) 0xF00001FFFFF8 0).localOf
      (((atWord (word 0x20 3 1 1 0 0) 0xF00001FFFFF8 0).coreOf 0 1).address (word 0x20 3 1 1 0 0)) = some 0xF00001FFFFF8 ∧
    ((atWord (word 0x20 3 1 1 0 0) 0xF00001FFFFF8 0).atCore 0 1).rangeFault 0 0xF00001FFFFF8 8 = none ∧
    (atWord (word 0x20 3 1 1 0 0) 0x0001F00001FFFFF8 0).localOf
      (((atWord (word 0x20 3 1 1 0 0) 0x0001F00001FFFFF8 0).coreOf 0 1).address (word 0x20 3 1 1 0 0)) = none ∧
    (onFabric (atWord (word 0x20 3 1 1 0 0) 0 0)).noRoute 1 = false ∧ (atWord (word 0x20 3 1 1 0 0) 0 0).noRoute 1 = true := by
  decide +kernel

/-- Core 1 of cluster 0 at an `ISSUE` of `VADD`, with its descriptor. -/
def atIssue : State :=
  { atWord (0x01 * 2 ^ 56 + 0x40 * 2 ^ 40 + 2 ^ 20 + 2) 0 0 with sram := memory [(nearBase 0 + 64, vecDescriptor)] }

/-- Witnesses of `IssueAndUndefinedWords`: an `ISSUE` that is accepted; words of no form; an `ISSUE` of a collective's opcode and of none. -/
theorem witness_issue_word :
    atIssue.atWord 0 1 0x01 (0x01 * 2 ^ 56 + 0x40 * 2 ^ 40 + 2 ^ 20 + 2) ∧
    isCollOp (bitsOf (0x01 * 2 ^ 56 + 0x40 * 2 ^ 40 + 2 ^ 20 + 2) 40 8) = false ∧
    issuesOn (atIssue.atCore 0 1) 0 0x40 (BitVec.ofNat 40 (bitsOf (0x01 * 2 ^ 56 + 0x40 * 2 ^ 40 + 2 ^ 20 + 2) 0 40)) = true ∧
    wordDefined (kernelWord ((atWord (word 0x99 0 0 0 0 0) 0 0).kernels 0) ((atWord (word 0x99 0 0 0 0 0) 0 0).coreOf 0 1).pc) = false ∧
    wordDefined (word 0x10 13 0 0 0 0) = false ∧ wordDefined (word 0x30 6 0 0 0 0) = false ∧
    (∀ op ∈ [0xB8, 0x01], (atWord (0x01 * 2 ^ 56 + op * 2 ^ 40) 0 0).atWord 0 1 0x01 (0x01 * 2 ^ 56 + op * 2 ^ 40)) ∧
    isCollOp 0xB8 = true ∧ clusterPlan 0x01 = none := by
  simp only [State.atWord]
  decide +kernel

/-! ### Streams -/

/-- A device that streams on die 0: a body of two bundles at a place in on-chip memory; a Clearing descriptor that opens cluster 0
on a list of its region, a kernel, and a collective. -/
def streaming (base : Nat) (bundle : List Byte) : State :=
  { running with
    tick := { started := true }
    sram := memory [(0xF00000000000 + 0x100000, block 64 [(0, 4, 1), (32, 8, 11), (40, 8, 22)]), (0xF00100000000, bundle)]
    job := { state := .running, bodyCount := 1
             sections := [{ typ := 1, die := 0, load := base, bytes := [] },
                          { typ := 2, die := 255, load := 0, bytes := block 16 [(4, 4, 2)] },
                          { typ := 4, die := 255, load := 0, bytes := block 64 [(0, 4, 64), (4, 2, 1), (8, 8, 0x100000), (40, 2, 1)] },
                          { typ := 5, die := 255, load := 0, bytes := block 32 [(0, 4, 1), (4, 4, 1), (24, 8, word 5 0 0 0 0 0)] },
                          { typ := 7, die := 255, load := 0, bytes := block 64 [(3, 1, 12), (5, 1, 1), (8, 4, 4)] }] } }

/-- The device of `streaming` with an empty bundle. -/
def atBundle : State := streaming 0xF00100000000 []

/-- Witnesses of `BundlesIssue`: a body at an address that does not exist, an empty bundle, and one with a reserved bit set. -/
theorem witness_bundles :
    atBundle.streams 0 = true ∧ (atBundle.seq 0).bundle < (atBundle.bodyOf 0).2 ∧
    ((streaming 0xF05000000000 []).rangeFault 0 ((streaming 0xF05000000000 []).bundleAddr 0) 128).isSome = true ∧
    atBundle.rangeFault 0 (atBundle.bundleAddr 0) 128 = none ∧
    (streaming 0xF00100000000 (block 128 [(126, 2, 1)])).bundleBad 0
      (bundleOf ((streaming 0xF00100000000 (block 128 [(126, 2, 1)])).readLocal 0xF00100000000 128)) = true ∧
    bundleOf (atBundle.readLocal (atBundle.bundleAddr 0) 128) = { clusters := List.replicate 16 (0, 0) } ∧
    atBundle.bundleBad 0 { clusters := List.replicate 16 (0, 0) } = false ∧
    atBundle.placeBad 0 { clusters := List.replicate 16 (0, 0) } = false ∧ atBundle.firstIssue 0 2 ∧
    (awake (atBundle.wakeNeeded 2 (atBundle.bundleNeeds 0 { clusters := List.replicate 16 (0, 0) }))).isSome = true ∧
    waitLevel (atBundle.slotPlans 0 { clusters := List.replicate 16 (0, 0) })
      (atBundle.attempts 0 { clusters := List.replicate 16 (0, 0) }) = none ∧
    (atBundle.slotFault 0 { clusters := List.replicate 16 (0, 0) } (atBundle.slotPlans 0 { clusters := List.replicate 16 (0, 0) })
      (atBundle.attempts 0 { clusters := List.replicate 16 (0, 0) })).isNone = true := by
  simp only [State.firstIssue]
  decide +kernel

/-- A bundle with `VADD` on cluster 0. -/
def vectorBundle : Bundle := { clusters := (0x40, (slotArg 1).toNat) :: List.replicate 15 (0, 0) }

/-- The device at that bundle, with its descriptor. -/
def atVector : State := { atBundle with sram := memory [(nearBase 0 + 64, vecDescriptor)] }

/-- Witnesses of the rest of `BundlesIssue`: freeze duty that leaves no cycle free; a cluster in S2; a vector unit that is claimed; and a
descriptor of zeros. -/
theorem witness_bundles_wait :
    ({ atBundle with power := { thermalDuty := 64 } }).thawed 0 = none ∧
    (let s : State := { atVector with power := { states := [(stateKey 1 0, (2, 0))] } }
     (awake (s.wakeNeeded 0 (s.bundleNeeds 0 vectorBundle))).isNone = true) ∧
    (let s : State := atVector.setCluster 0 { ops := [{ op := 0x40, units := 2, slots := 0 }] }
     waitLevel (s.slotPlans 0 vectorBundle) (s.attempts 0 vectorBundle) = some 0) ∧
    waitLevel (atVector.slotPlans 0 vectorBundle) (atVector.attempts 0 vectorBundle) = none ∧
    (atBundle.slotFault 0 vectorBundle (atBundle.slotPlans 0 vectorBundle) (atBundle.attempts 0 vectorBundle)).isSome = true := by
  decide +kernel

/-- A window in which every item is done, and one whose list of region 0 has an entry. -/
def doneWindow : Window := { openAt := 0, length := 64, clusters := 1, lists := [(0, 0)], next := [0], lastEnd := 7 }
def openWindow : Window := { openAt := 0, length := 64, clusters := 1, lists := [(0x100000, 1), (0, 0)], next := [0, 0, 0, 0], lastEnd := 0 }

/-- Witnesses of `ControlsIssue`. -/
theorem witness_controls :
    atBundle.mayControl 0 ∧ atBundle.firstIssue 0 2 ∧ atBundle.ctlBad 0 1 0 = false ∧
    atBundle.ctlBad 0 3 0 = false ∧
    (awake (atBundle.wakeNeeded 2 (atBundle.bundleNeeds 0 { ctl := 3, operand := 0 }))).any (fun u => u.clearPlan 0 0 == .ok) = true ∧
    (awake (atBundle.slotWaking 0 [] (·.planCollIssue 0 0))).any (fun u => u.planCollIssue 0 0 == .ok) = true ∧
    (∀ w ∈ [doneWindow, openWindow], let s := atBundle.setSeq 0 { window := some w }
      ∃ v, ((s.grantTakes 0 (s.issueCycle 0)).seq 0).window = some v ∧ (s.grantTakes 0 (s.issueCycle 0)).firstIssue 0 2 ∧
        (s.grantTakes 0 (s.issueCycle 0)).windowDone 0 v = decide (w = doneWindow)) := by
  simp only [State.mayControl, State.firstIssue, List.forall_mem_cons]
  refine ⟨by decide +kernel, by decide +kernel, by decide +kernel, by decide +kernel, by decide +kernel, by decide +kernel,
    ⟨_, rfl, by decide +kernel, by decide +kernel⟩, ⟨_, rfl, by decide +kernel, by decide +kernel⟩, nofun⟩

/-- Witness of `SyncReleasesTogether`: die 0 arrives at cycle 2 where die 1 has waited since then with identifier 7. -/
theorem witness_sync : ∃ (s : State) (v : BitVec 24) (at4 : Nat → Nat), s.mayControl 0 ∧ s.firstIssue 0 2 ∧
    s.ctlBad 0 2 v.toNat = false ∧ (s.seq 0).sync = none ∧ (s.seq 0).syncAt = none ∧ at4 0 = 2 ∧ v.toNat.testBit 1 = true ∧
    ∀ e : Fin 4, e ≠ 0 → v.toNat.testBit e = true → (s.seq e).syncAt = none ∧ ∃ m, (s.seq e).sync = some (m, bitsOf v.toNat 8 8, at4 e) := by
  refine ⟨atBundle.setSeq 1 { sync := some (3, 7, 2) }, 0x703, fun _ => 2, ?_⟩
  simp only [State.firstIssue]
  refine ⟨⟨by decide +kernel, by decide +kernel⟩, by decide +kernel, by decide +kernel, by decide +kernel, by decide +kernel,
    trivial, by decide, fun e h t => ⟨?_, 3, ?_⟩⟩ <;> revert e <;> decide +kernel

/-- Witness of `ClustersTakeEntries`: cluster 0 takes entry 0 of its own list. -/
theorem witness_takes_entry : ∃ s : State, s.seq 0 = { window := some openWindow } ∧ openWindow.clusters.testBit 0 = true ∧
    (s.cluster 0).item.isNone = true ∧ openWindow.listFor 0 = some 0 ∧
    field (getBlock zeroByte (windowBase 0 + 0x100020) 32 s.sram) 28 2 < kernelCount (s.kernels 0) ∧
    field (getBlock zeroByte (windowBase 0 + 0x100020) 32 s.sram) 30 2 < 2 :=
  ⟨atBundle.setSeq 0 { window := some openWindow }, by decide +kernel⟩

/-! ### Slots of a die -/

/-- An exchange descriptor (R237) of one die and one expert, and the descriptors of a copy, a transfer and a list of one atomic
request (R297, R397, R411), in near SRAM of cluster 0; pools that hold buffers; context 0 scores and context 1 hashes. -/
def withSlots : State :=
  { atBundle with
    clk := { cc := 10 }
    sram := memory [(nearBase 0 + 64, block 64 [(0, 8, 0xF00000001000), (8, 8, 0xF00000002000), (16, 4, 32), (20, 2, 1)]),
      (nearBase 0 + 128, block 64 [(0, 8, 0xF00000001000), (8, 6, 0), (14, 2, 1), (16, 4, 32), (20, 2, 1)]),
      (nearBase 0 + 192, block 64 [(0, 8, 0xF00000001000), (8, 8, 0xF00000002000), (16, 2, 1)]),
      (nearBase 0 + 4096, block 32 [(6, 2, 1), (8, 1, 1)]),
      (xdescAt 0 0, block 64 [(0, 1, 1), (1, 1, 1), (3, 1, 10), (4, 2, 32), (6, 2, 64), (12, 4, 0x8000), (20, 2, 1), (22, 1, 10), (23, 1, 10),
        (36, 1, 10), (40, 4, 0x9000)])]
    sill := [(0, { contexts := blockCells zeroByte 0 (block 128 [(0, 1, 5), (1, 1, 1), (4, 4, 1), (20, 2, 1), (64, 1, 2), (65, 1, 1)])
                   pools := (List.range 8).map (fun i => (i, { count := 8, free := 8 })) })] }


/-- A slot of a die is read, with nothing to wait for that wakes up, and issues. -/
def slotIssues (s : State) (d : Nat) (p : DieSlot) (arg : BitVec 56) : Bool :=
  (awake (s.slotWaking d (p.units d) (fun t => p.plan t d arg))).any (fun u => p.plan u d arg == .ok)

/-- Witnesses of `DieSlotsIssue`: every slot of a die issues with some operand. -/
theorem witness_die_slots : (∀ p ∈ dieSlots, ∃ arg, slotIssues withSlots 0 p arg = true) ∧
    (awake ((withSlots.fenceTried 0 0).slotWaking 0 [] (·.planCfence 0 0))).any (fun u => u.planCfence 0 0 == .ok) = true := by
  simp only [dieSlots, List.map_cons, List.map_nil, List.cons_append, List.nil_append, List.forall_mem_cons]
  refine ⟨⟨⟨0, ?_⟩, ⟨0, ?_⟩, ⟨0x1000000000000, ?_⟩, ⟨0, ?_⟩, ⟨0, ?_⟩, ⟨0, ?_⟩, ⟨0, ?_⟩, ⟨0, ?_⟩, ⟨2, ?_⟩, ⟨2, ?_⟩, ⟨2, ?_⟩, ⟨4, ?_⟩,
    ⟨4, ?_⟩, ⟨6, ?_⟩, ⟨0, ?_⟩, ⟨0, ?_⟩, ⟨0, ?_⟩, ⟨0, ?_⟩, nofun⟩, ?_⟩ <;> decide +kernel

/-- What reading a slot of die 0 finds; none where it waits for what wakes up. -/
def slotReads (s : State) (units : List Nat) (plan : State → SlotPlan) : Option SlotPlan := (awake (s.slotWaking 0 units plan)).map plan

/-- Witnesses of `SlotsStop` for the slots of a die: a reserved bit, a fenced Sillage, a full copy queue, an entry of an atomic list
that is no request, a `CFENCE` that waits for an operation, and a choice pipeline in S1. -/
theorem witness_die_stops :
    slotReads withSlots (sillageUnits 0) (·.planSillage 0 1 2) = some .bad ∧
    slotReads { withSlots with fence := { fenced := BitVec.twoPow 116 0x50 } } (sillageUnits 0) (·.planSillage 0 1 0) =
      some (.refuse (xdescAt 0 0) 2 0x50) ∧
    slotReads (withSlots.setCopyQueue 0 0 (List.replicate 8 { op := 1, desc := [] })) [] (·.planCopy 0 1 2) = some (.wait 2) ∧
    slotReads { withSlots with sram := memory [(nearBase 0 + 192, block 64 [(0, 8, 0xF00000001000), (8, 8, 0xF00000002000), (16, 2, 1)])] }
      [] (·.planFab 0 0x3F 6) = some (.badMeta 2 0xF00000001000) ∧
    slotReads (withSlots.fenceTried 0 1) [] (·.planCfence 0 1) = some .bad ∧
    (let s := (withSlots.setFabQueue 0 0 [{ op := 1, desc := [] }]).setRouter 0 { opNo := 1 }
     slotReads (s.fenceTried 0 (2 ^ 32)) [] (·.planCfence 0 (2 ^ 32)) = some (.wait 3)) ∧
    slotReads { withSlots with power := { states := [(stateKey 5 0, (1, 0))] } } (sillageUnits 0) (·.planSillage 0 1 0) = none := by
  decide +kernel

/-- Witnesses of `CopyOperationsQueueAndEnd`: a descriptor in range, an empty queue, and a queue whose head has started. -/
theorem witness_copies :
    (∃ b c, withSlots.dieDescriptor 0 2 = .ok b ∧ withSlots.copyFields 1 b = some c) ∧ withSlots.copyQueue 0 0 = [] ∧
    (withSlots.setCopyQueue 0 0 [{ op := 2, desc := [], started := true }]).copyQueue 0 0 = [{ op := 2, desc := [], started := true }] :=
  ⟨⟨_, _, rfl, rfl⟩, rfl, rfl⟩

/-- Operations of the two pipelines that have started. -/
def sillOp (op : Nat) : SillOp := { op := op, ctx := 0, n := 1, first := 0, context := [], xdesc := [], tick := 0, order := 0, started := true }

/-- Witnesses of `SillageOperationsQueueAndEnd`: a started head of each pipeline; an `XDISPATCH` with nothing left to acknowledge. -/
theorem witness_sillage_ends : ∃ s : State, (s.sillage 0).choice = [sillOp 1] ∧ (s.sillage 0).exch = [sillOp 0x10] ∧
    (s.sillage 0).sending = false :=
  ⟨running.setSillage 0 { choice := [sillOp 1], exch := [sillOp 0x10] }, rfl, rfl, rfl⟩

/-! ### Token packets -/

/-- A sealed token packet of a type for descriptor 0, with a payload of 32 bytes that starts with 1. -/
def row (typ : BitVec 8) (tick : BitVec 48) : Tok :=
  { tok typ with len := 32, tick := tick, payload := 1 :: List.replicate 31 0 }.sealed

/-- Witnesses of `TokensArrive` and `TokensAreWritten`: a packet of each type is accepted, for this tick and rows also for the next;
its sender is here. -/
theorem witness_tokens :
    (∀ t ∈ [row 1 0, row 1 1, row 2 0, row 3 0, row 4 0], (withSlots.receiveTok 0 t).2 = .accept) ∧
    withSlots.senderOf 0 (row 1 0) = some 0 ∧ withSlots.job.state ≠ .held ∧ withSlots.fenced 0x50 = false := by decide +kernel

/-- Witnesses of the rest of `TokensArrive`: a packet without its CRC is refused by check 1, one of the last tick is stale; a held job
and a fenced Sillage; and a sender on another device. -/
theorem witness_tokens_refused :
    withSlots.receiveTok 0 (tok 1) = (withSlots, .fault 1) ∧
    (withSlots.setTick { withSlots.tick with count := 1 }).receiveTok 0 (row 1 0) =
      (withSlots.setTick { withSlots.tick with count := 1 }, .stale) ∧
    ({ running with job := { state := .held } }).job.state = .held ∧
    ({ running with fence := { fenced := BitVec.twoPow 116 0x50 } }).fenced 0x50 = true ∧
    ({ running with sram := memory [(xdescAt 0 0, block 64 [(0, 1, 4), (1, 1, 2)])] }).senderOf 0 { row 3 0 with src := 4 } = none := by
  have h1 : withSlots.checkTok 0 (xdescOf 0 (withSlots.xdescBytes 0 0)) (tok 1) = some 1 := by decide +kernel
  have h2 : (withSlots.setTick { withSlots.tick with count := 1 }).checkTok 0
    (xdescOf 0 ((withSlots.setTick { withSlots.tick with count := 1 }).xdescBytes 0 0)) (row 1 0) = none := by decide +kernel
  refine ⟨?_, ?_, by decide +kernel⟩
  · exact (by simp only [State.receiveTok, show (tok 1).xd.toNat = 0 from rfl, h1])
  · simp only [State.receiveTok, show (row 1 0).xd.toNat = 0 from rfl, h2]
    rfl

/-! ### Packets -/

/-- A running device with a route to coordinate 1, whose job has tag 7. -/
def tagged : State := onFabric { running with fab := { jobTag := 7 } }

/-- A sealed packet of a type from coordinate 1 with the job's tag, to an address, with a body that starts with some bytes. -/
def packet (typ : BitVec 8) (addr : BitVec 64) (body : List Byte) : Pkt :=
  { (if typ.toNat < 0x80 then control typ else data typ) with
    src := 1, jobTag := 7, addr := addr, body := byteField body 0 (if typ.toNat < 0x80 then 32 else 64) }.sealed

/-- Witnesses of `PacketsArrive`: a packet of each kind is delivered. -/
theorem witness_deliveries : (∀ m ∈ deliveries, ∃ p, tagged.delivers p m.typ (m.die tagged p) (m.tagOk tagged p)) ∧
    tagged.delivers { packet 0x82 3 [] with via := some 0 } tToken 3 (tagged.tagMatches (packet 0x82 3 [])) := by
  simp only [deliveries, State.delivers, State.arrives, List.map_cons, List.map_nil, List.cons_append, List.nil_append, List.forall_mem_cons]
  refine ⟨⟨⟨packet 0x80 0 [], ?_⟩, ⟨packet 0x20 0 [], ?_⟩, ⟨packet 0x21 0 [], ?_⟩, ⟨packet 0x09 0 [], ?_⟩, ⟨packet 0x81 0 [], ?_⟩,
    ⟨packet 0x22 0 [], ?_⟩, ⟨packet 0x08 0 [], ?_⟩, ⟨packet 0x83 0 [], ?_⟩, ⟨packet 0x83 0 [], ?_⟩, ⟨packet 0x83 0 [], ?_⟩,
    ⟨packet 0x83 0 [], ?_⟩, nofun⟩, ?_⟩ <;> decide +kernel

/-- Witnesses of the rest of `PacketsArrive`: a link that is down, another coordinate, a bad header CRC, a bad payload CRC, another tag, a
fenced router, an epoch floor, and a device in transit mode. -/
theorem witness_packets_refused :
    tagged.fab.up.getLsbD (1 : Fin 8) = false ∧ tagged.addressed { packet 0x80 0 [] with dest := 1 } = false ∧
    tagged.addressed (packet 0x80 0 []) = true ∧
    tagged.checkPkt (control 0x09) 0x09 true = .hdr ∧
    tagged.checkPkt { packet 0x80 0 [] with body := [] } 0x80 true = .pay ∧
    tagged.checkPkt (packet 0x80 0 []) 0x80 false = .tag ∧ tagged.checkPkt (packet 0x80 0 []) 0x80 true = .pass ∧
    ({ tagged with fence := { fenced := BitVec.twoPow 116 0x71 } }).routerFenced 3 = true ∧
    (tagged.setRouter 0 { floors := [(sourceKey (packet 0x80 0 []), 1, 0)] }).belowFloor (packet 0x80 0 []) = true ∧
    ({ tagged with power := { transit := true } }).power.transit = true := by decide +kernel

/-- That device where coordinate 1 owns the granule at the end of near SRAM of cluster 0. -/
def owned : State :=
  { tagged with sram := memory [(0xF0000010003C, [1, 0, 1])], job := { tagged.job with ownTable := 0xF00000100000 } }

/-- Witnesses of `StoresArePerformed` and `LoadsAreAnswered`: the last 64 bytes of near SRAM of cluster 0, where this device's owner
table lets coordinate 1 write or not. -/
theorem witness_memory_packets :
    tagged.delivers (packet 0x80 0xF00001FFFFC0 [1]) tStore (tagged.deliveryDie (pktAddr (packet 0x80 0xF00001FFFFC0 [1])))
      (tagged.tagMatches (packet 0x80 0xF00001FFFFC0 [1])) ∧
    tagged.delivers (packet 0x20 0xF00001FFFFC0 [64]) tLoadReq (tagged.deliveryDie (pktAddr (packet 0x20 0xF00001FFFFC0 [64])))
      (tagged.tagMatches (packet 0x20 0xF00001FFFFC0 [64])) ∧
    loadReqOk (packet 0x20 0xF00001FFFFC0 [64]) = true ∧ aligned32 0xF00001FFFFC0 64 = true ∧
    owned.accessStatus (.store 1) 0xF00001FFFFC0 64 = 0 ∧ tagged.accessStatus (.store 1) 0xF00001FFFFC0 64 = 3 ∧
    tagged.queueFull 0 = false := by
  simp only [State.delivers, State.arrives]
  decide +kernel

/-- A die whose request queue is full, and a replay cache without room (R377, R414). -/
theorem witness_full :
    (tagged.setRouter 0 { requests := List.replicate 4096 5 }).queueFull 0 = true ∧
    replayRoom 0 (List.replicate 8192 (0, 0, 0, 0)) = none := by
  decide +kernel

/-- Witnesses of `AtomicsApplyOnce`: a request that the replay cache knows, and one that it does not with room for it. -/
theorem witness_atomics :
    tagged.delivers (packet 0x21 0xF00001FFFFC0 [1]) tAtomicReq (tagged.deliveryDie (pktAddr (packet 0x21 0xF00001FFFFC0 [1])))
      (tagged.tagMatches (packet 0x21 0xF00001FFFFC0 [1])) ∧
    tagged.replayed (packet 0x21 0xF00001FFFFC0 [1]) = none ∧ replayRoom tagged.cc (tagged.router 0).replay = some [] ∧
    tagged.queueFull 0 = false ∧
    (tagged.setRouter 0 { replay := [(65536, 0, 5, 0)] }).replayed (packet 0x21 0xF00001FFFFC0 [1]) = some (0, 65536, 0, 5, 0) := by
  simp only [State.delivers, State.arrives]
  decide +kernel

/-- A device with a descriptor of a list of one request, which is no operation. -/
def atomList : State :=
  { withSlots with sram := memory [(nearBase 0 + 192, block 64 [(0, 8, 0xF00000001000), (8, 8, 0xF00000002000), (16, 2, 1)])] }

/-- Witnesses of `AtomicResults`: that list, on a queue with room; and an add of 1 to the greatest INT32 on a unit that its owner
allows. -/
theorem witness_atomic_results :
    (awake (atomList.slotWaking 0 [] (·.planFab 0 0x3F 6))).isSome = true ∧ atomList.power.states = [] ∧
    (∃ b, atomList.dieDescriptor 0 (slotField 6 0 32) = .ok b ∧
      atomList.atomicFields b = some (0xF00000001000, 0xF00000002000, 1)) ∧ atomList.job.state ≠ .held ∧
    atomList.rangesFault 0 [(0xF00000001000, 32 * 1), (0xF00000002000, 16 * 1)] = none ∧
    atomListed (field (atomList.readLocal 0xF00000001000 32) 8 1 % 16) (field (atomList.readLocal 0xF00000001000 32) 8 1 / 16) = false ∧
    (atomList.fabQueue 0 (slotField 6 52 3)).length < 8 ∧
    atomReqOk (packet 0x21 0xF00001FFFFC0 (1 :: List.replicate 7 0 ++ [1])) = true ∧
    owned.accessStatus (.atomic 1) 0xF00001FFFFC0 32 = 0 ∧ (atomNew 1 0 0x7FFFFFFF 1 0).2 = true := by
  refine ⟨?_, rfl, ⟨_, rfl, ?_⟩, ?_⟩ <;> decide +kernel

/-- A packet that die 0 keeps, of a load or a store. -/
def kept (typ : BitVec 8) (resends : Nat) : Kept :=
  { die := 0, pkt := { packet typ 0 [32] with dest := 1 }, origin := .put 0 0, first := 0, last := 0, resends := resends }

/-- Witnesses of `PacketsGoOn`: a packet for another device, one for this device, and one whose way on lies over fenced bridges; a bad
header and an unknown type; a kept packet to
send again, before its request's limit, and one to give up; a request; one that waits after a busy answer; an answered one; and a
packet that waits for its escape port. -/
theorem witness_packets_go_on :
    tagged.fab.up.getLsbD (0 : Fin 8) = true ∧ tagged.fab.up.getLsbD (1 : Fin 8) = false ∧
    tagged.addressed { packet 0x80 0 [] with dest := 1, via := some 0 } = false ∧ tagged.addressed { packet 0x80 0 [] with via := some 0 } = true ∧
    (let p := { packet 0x80 0 [] with dest := 1, via := some 0 }; tagged.nextPort p < 8 ∧
      tagged.crosses (portDie 0) (portDie (tagged.nextPort p)) = true) ∧
    (let p := { packet 0x80 0 [] with dest := 1, via := some 6 }
     let s := ({ tagged with fence := { fenced := 0xF#116 <<< 0x6A } }).setFab { tagged.fab with up := 0x41 }
     s.nextPort p < 8 ∧ s.crosses (portDie 6) (portDie (s.nextPort p)) = false) ∧
    (control 0x09).hcrcOk = false ∧ knownTypes.contains (packet 0x7F 0 []).typ.toNat = false ∧
    (tagged.setFab { tagged.fab with kept := [kept 0x80 3] }).openKept 0 = some (kept 0x80 3) ∧
    (kept 0x20 3).last + usCc 200 < (kept 0x20 3).first + tagged.loadLimit ∧ (kept 0x80 3).busy = none ∧
    (tagged.setFab { tagged.fab with kept := [kept 0x20 4] }).openKept 0 = some (kept 0x20 4) ∧
    isRequest (kept 0x20 4).pkt.typ.toNat = true ∧
    (tagged.setFab { tagged.fab with kept := [{ kept 0x80 0 with busy := some 9 }] }).openKept 0 = some { kept 0x80 0 with busy := some 9 } ∧
    (tagged.setFab { tagged.fab with kept := [{ kept 0x80 0 with answered := true }] }).fab.kept[0]? =
      some { kept 0x80 0 with answered := true } ∧
    (tagged.setFab { tagged.fab with escWaits := [⟨packet 0x80 0 [], 0, 0⟩] }).fab.escWaits[0]? = some ⟨packet 0x80 0 [], 0, 0⟩ := by
  decide +kernel

/-! ### Links -/

/-- A report of link bring-up that succeeds with the longest flight. -/
def bringUp : BringUp :=
  { electricalOk := true, lockOk := true, peerPart := 0x4816, peer := 1, peerPort := 2, samples := List.replicate 64 (23140, 100) }

/-- Witnesses of `LinksChange`: a port that is down and not held, and one that is up; a delay of the longest flight, a longer one, and an
unknown part; a port that waits for no word and one that waits for another; the last and the ninth replay of a word, in the last cycle of
its millisecond. -/
theorem witness_links :
    (running.portHeld (7 : Fin 8) || running.fab.up.getLsbD (7 : Fin 8) || running.power.transit) = false ∧
    (tagged.portHeld (0 : Fin 8) || tagged.fab.up.getLsbD (0 : Fin 8) || tagged.power.transit) = true ∧
    knownPart bringUp.peerPart = true ∧ (linkDelay bringUp.samples).toNat = 11520 ∧ (linkDelay [(23142, 100)]).toNat = 11521 ∧
    knownPart 0x4815 = false ∧ tagged.fab.up.getLsbD (0 : Fin 8) = true ∧ (tagged.port 0).waitReplay = none ∧
    ((tagged.setPort 0 { waitReplay := some 3 }).port 0).waitReplay = some 3 ∧
    Tab.get (0, 0) 4 ((tagged.setPort 0 { replays := [(4, 7, 0)] }).port 0).replays = (7, 0) ∧ tagged.cc ≤ 0 + msCc 1 ∧
    Tab.get (0, 0) 4 ((tagged.setPort 0 { replays := [(4, 8, 0)] }).port 0).replays = (8, 0) := by decide +kernel

/-- Witnesses of `FabricRegistersChange`: with and without transit mode; a teardown value below, at and above the one in force. -/
theorem witness_fabric_registers :
    running.power.transit = false ∧ ({ running with power := { transit := true } }).power.transit = true ∧
    (0 : BitVec 32) < ({ running with fab := { teardown := 1 } }).fab.teardown ∧
    ({ running with fab := { teardown := 1 } }).fab.teardown ≤ 1 := by decide

/-! ### Collectives -/

/-- A device whose die 0 is the one node of a tree of an all-reduce of 32 bytes of FP32 with one cluster, and holds that cluster's
contribution to chunk 0 in pass-through. -/
def passing : State :=
  { running with
    sram := memory [(0xF00100000000, block 8 [(4, 2, 0xFFFF), (6, 2, 1)])]
    job := { state := .running, sections := [{ typ := 7, die := 255, load := 0
                                               bytes := block 64 [(0, 1, 1), (3, 1, 12), (4, 1, 12), (5, 1, 1), (8, 4, 32), (12, 2, 32), (16, 8, 0xF00100000000)] }] }
    coll := { nodes := [{ die := 0, cdesc := 0, tree := 0, inst := 0, passAll := true, held := [(pieceKey 0 0 1, List.replicate 32 0)] }] } }

/-- Witnesses of `PassThroughCompletes`: that chunk; and a node that holds nothing of it. -/
theorem witness_pass_through : ∃ (n : Node) (i : TreeInfo),
    passing.coll.nodes.find? (fun n => n.die = (0 : Fin 4).val && n.cdesc = 0 && n.tree = 0) = some n ∧ passing.treeInfo 0 0 n.tree = some i ∧
    i.isRoot = true ∧ passing.lowestOpen i n = some 0 ∧
    i.rootPasses n 0 = true ∧ (i.rebuild n 0 i.tree.length i.me).isSome = true ∧
    i.rebuild { n with held := [] } 0 i.tree.length i.me = none ∧ i.rootPasses { n with held := [] } 0 = true ∧
    ((passing.collDesc 0 0).map (·.trees)).getD 1 = 1 := by
  refine ⟨{ die := 0, cdesc := 0, tree := 0, inst := 0, passAll := true, held := [(pieceKey 0 0 1, List.replicate 32 0)] },
    ⟨collDescOf (block 64 [(0, 1, 1), (3, 1, 12), (4, 1, 12), (5, 1, 1), (8, 4, 32), (12, 2, 32), (16, 8, 0xF00100000000)]),
      [treeRecOf 0x1FFFF00000000], 0⟩, ?_⟩
  decide +kernel

/-! ### Ticks -/

/-- A running device whose four dies wait with an operand in tick 3; its next edge starts tick 5. -/
def waitingDies (operand : Nat) (ended : Bool) : State :=
  { running with
    tick := { run := true, edges := true, started := true, period := 600, count := 3, nextNo := 5, nextEdge := 100, snapFrom := some 3 }
    seqs := (List.range 4).map (fun d => (d, { waiting := some operand, jobEnd := ended })) }

/-- Witnesses of `TickEdgesFollow` and `TicksCommitAndStart`: an edge; a job whose end waits for its dirty pages; a tick before its edge,
and one with it, whose job ends, stops, cuts with idle queues and with others, and goes on. -/
theorem witness_ticks :
    ({ waitingDies 0 true with tick := { count := 3 }, job := { state := .running, committed := some 3 } }).endPending = true ∧
    (waitingDies 0 false).endPending = false ∧ running.endPending = false ∧
    (waitingDies 0 false).tick.edges = true ∧ (waitingDies 0 false).tick.period ≠ 0 ∧ (waitingDies 0 false).job.multi = false ∧
    running.tickDone = false ∧ (waitingDies 0 false).tickDone = true ∧ 3 + 2 ≤ (waitingDies 0 false).tick.nextNo ∧
    (({ waitingDies 0 true with job := { state := .running } }).commitTick.seq 0).jobEnd = true ∧
    (∀ d : Fin 4, ((waitingDies 0 false).commitTick.seq d).jobEnd = false) ∧ (waitingDies 0 false).isSave = false ∧
    ((waitingDies 0x400000 false).isSave = true ∧ (({ (waitingDies 0 false).tick with stopFrom := some 3 }).stopFrom = some 3)) ∧
    (waitingDies 0 false).commitTick.cutDue = false ∧ (waitingDies 0xC00000 false).commitTick.cutDue = true ∧
    (waitingDies 0xC00000 false).commitTick.queuesIdle = true ∧ (waitingDies 0xC00000 false).tick.stopFrom = none ∧
    ((waitingDies 0xC00000 false).setCopyQueue 0 0 [{ op := 1, desc := [] }]).commitTick.queuesIdle = false ∧
    ((waitingDies 0xC00000 false).setCopyQueue 0 0 [{ op := 1, desc := [] }]).commitTick.cutDue = true ∧
    (waitingDies 0 false).job.cmdlist = false := by decide +kernel

/-- A device that waits for its release. -/
def armed (r : Release) (master : Bool) : State :=
  { running with job := { state := .waitArm, tag := 7 }, fab := { jobTag := 7 }, tick := { period := 12000, release := r, master := master } }

/-- Witnesses of `JobsAreReleased`. -/
theorem witness_release :
    (armed (.goAt 5) false).job.state = .waitArm ∧ (armed (.goAt 5) false).tick.pendingReady = none ∧
    (armed (.goAt 5) false).tick.release = .goAt 5 ∧ (armed (.goAt 5) false).job.cmdlist = false ∧
    (armed .armed true).tick.release = .armed ∧ (armed .armed true).tick.master = true := by decide

/-- An `ARM` from a fabric manager at coordinate 9 (R66) with a job tag and, at byte 29, a reserved bit. -/
def armPacket (rsv : Nat) : Pkt :=
  { control 0x03 with src := 9, jobTag := 7, body := block 32 [(0, 2, 7), (12, 4, 64), (29, 3, rsv)] }.sealed

/-- Witnesses of `BeaconRecordsArrive`: an `ARM` that is taken and one with a reserved bit; a `GO`, a beacon and its stop request; a
child's reply; and a master's silence. -/
theorem witness_beacons :
    (∀ r ∈ [0, 1], (onFabric (armed .idle false)).delivers { armPacket r with via := some 0 } tArm 0
      ((onFabric (armed .idle false)).tagMatches (armPacket r))) ∧
    (armed .idle false).armStatus (armPacket 0).body = 0 ∧ (armed .idle false).armStatus (armPacket 1).body = 4 ∧
    (onFabric (armed .armed false)).delivers { packet 0x01 0 (block 32 [(8, 1, 128)]) with via := some 0 } tBeacon 0
      ((onFabric (armed .armed false)).tagMatches (packet 0x01 0 (block 32 [(8, 1, 128)]))) ∧
    (onFabric (armed .armed false)).delivers { packet 0x02 0 [] with via := some 0 } tBeaconReply 0
      ((onFabric (armed .armed false)).tagMatches (packet 0x02 0 [])) ∧
    beaconGo (packet 0x01 0 (block 32 [(8, 1, 128)])) = true ∧ (armed .armed false).tick.release = .armed ∧
    beaconGo (packet 0x01 0 (block 32 [(0, 6, 4), (8, 1, 32)])) = false ∧
    (waitingDies 0 false).tick.edges = true ∧ ({ state := .running, multi := true : Job }).multi = true ∧
    bitsOf (field (packet 0x01 0 (block 32 [(0, 6, 4), (8, 1, 32)])).body 8 1) 5 2 = 1 ∧
    field (packet 0x01 0 (block 32 [(0, 6, 4), (8, 1, 32)])).body 0 6 + 1 = (waitingDies 0 false).tick.nextNo ∧
    ({ children := 1 : FabricUnit }).children.getLsbD 0 = true ∧
    (waitingDies 0 false).tick.lastBeacon ≠ some ((waitingDies 0 false).tick.nextNo - 1) ∧
    (waitingDies 0 false).tick.missedFor ≠ some ((waitingDies 0 false).tick.nextNo - 1) ∧
    ({ (waitingDies 0 false).tick with missedFor := some 4 }).missedFor = some ((waitingDies 0 false).tick.nextNo - 1) := by
  simp only [State.delivers, State.arrives]
  decide +kernel

/-! ### Snapshots -/

/-- A generation that is being copied, with one unit at address 0xF00000000000 that is not read yet. -/
def copying : Copying := { gen := 1, step := 1, header := [], units := [], unread := [0xF00000000000], homes := [(1, 0)] }

/-- A checkpoint that is being written, with one unit left to read and one in the bounce buffer. -/
def writing : LongCmd :=
  { req := { mb := 0, cmd := 0x42, seq := 1, owner := 0, len := 0, request := [] }, unread := [0xF00000000000], bounce := [0xF00000000200] }

/-- Witnesses of `CutsAreTaken`: a boundary whose cut waits and one that comes first; a write into the unit and one past it. -/
theorem witness_cuts :
    (waitingDies 0xC00000 false).job.state = .running ∧ (waitingDies 0xC00000 false).allWait = true ∧
    (waitingDies 0xC00000 false).queuesIdle = true ∧ (waitingDies 0xC00000 false).cutDue = true ∧
    (waitingDies 0xC00000 false).seed.pending = false ∧ (waitingDies 0xC00000 false).tick.started = true ∧
    ((waitingDies 0xC00000 false).setSeed { pending := true }).cutDue = true ∧
    ((waitingDies 0xC00000 false).setSeed { pending := true }).queuesIdle = true ∧
    (running.setSeed { copying := some copying }).seed.copying = some copying ∧
    (running.setSeed { copying := some copying }).copyUnits = (copying.unread, []) ∧
    (running.setHost { running.host with long := some writing }).copyUnits = ([0xF00000000000], [0xF00000000200]) ∧
    copying.unread.filter (fun a => a < 0xF000000001FF + 1 && 0xF000000001FF < a + unitBytes) ≠ [] ∧
    copying.bounce.length + 1 ≤ bounceUnits ∧ 1 + bounceUnits > bounceUnits ∧
    copying.unread.filter (fun a => a < 0xF00000000000 + unitBytes + 1 && 0xF00000000000 + unitBytes < a + unitBytes) = [] := by
  decide +kernel

/-- A home: `HOST0` is coordinate 1, whose area holds two slots of one granule. -/
def home : State := tagged.setSeed { hosts := 0x100000001, tag := 7, mode := 2, slotBytes := 8192, areas := [(0, [0, 1])] }

/-- A Seedbank packet of a kind: 64 bytes at an offset of slot 0. -/
def snap (kind off : Nat) : Pkt := packet 0x84 (BitVec.ofNat 64 (kind * 2 ^ 41 + off)) []

/-- Witnesses of `SeedbankPacketsAreTaken`: each kind in its slot's last 64 bytes, and one beyond them. -/
theorem witness_seedbank : ∀ m ∈ snapDeliveries, ∀ off ∈ [8128, 8192], ∃ p, home.delivers p tSnap 1 true ∧ snapKind p = m.2.1 ∧
    (home.countRetry p).snapArea p = if off = 8128 then some 0 else none := by
  simp only [snapDeliveries, State.delivers, State.arrives, List.forall_mem_cons]
  refine ⟨⟨⟨snap 0 8128, ?_⟩, ⟨snap 0 8192, ?_⟩, nofun⟩, ⟨⟨snap 1 8128, ?_⟩, ⟨snap 1 8192, ?_⟩, nofun⟩,
    ⟨⟨snap 2 8128, ?_⟩, ⟨snap 2 8192, ?_⟩, nofun⟩, ⟨⟨snap 3 8128, ?_⟩, ⟨snap 3 8192, ?_⟩, nofun⟩, nofun⟩ <;> decide +kernel

/-- A device that pulls a set from coordinate 1: its buddy; the image has a save mark of body 0 without ranges. -/
def puller (h : Option (List Byte)) : State :=
  { tagged with
    job := { state := .restoring, sections := [{ typ := 3, die := 255, load := 0, bytes := block 128 [(0, 4, 1)] }] }
    seed := { buddy := 0x100000001, tag := 7, slotBytes := 8192, pulling := some { want := 0, later := [], home := 1, header := h } } }

/-- The header of a set of step 0 without ranges, and its packet. -/
def setHeader : List Byte := List.replicate 4096 0
def headerPacket : Pkt := { data 0x84 with src := 1, jobTag := 7, len := 4096, addr := 4 * 2 ^ 41, body := setHeader }

/-- Both CRCs of a sealed packet are right. -/
theorem sealed_hcrc (p : Pkt) : p.sealed.hcrcOk = true := beq_self_eq_true p.sealed.headCrc
theorem sealed_pcrc (p : Pkt) : p.sealed.pcrcOk = true := beq_self_eq_true (crc32c p.body)

theorem sealed_data (p : Pkt) : p.sealed.data = p.body.take p.len.toNat := rfl

/-- Witnesses of `RestoresPullTheirSet`: the header of the set. -/
theorem witness_restore_header :
    (puller none).delivers headerPacket.sealed tSnap 1 true ∧ snapKind headerPacket.sealed = 4 ∧
    (puller none).fromBuddy headerPacket.sealed = true ∧ headerPacket.sealed.src.toNat = 1 ∧ snapOff headerPacket.sealed = 0 ∧
    headerPacket.sealed.data.length = setHeaderSize ∧
    (((puller none).countRetry headerPacket.sealed).count cSbPull 4096).headerTaken setHeader = true := by
  refine ⟨⟨nofun, by decide, by decide, ?_, by decide, by decide +kernel⟩, by decide, by decide, by decide, by decide, ?_,
    by decide +kernel⟩
  · simp only [State.checkPkt, sealed_hcrc, sealed_pcrc]
    decide
  · rw [sealed_data, List.length_take, show headerPacket.body.length = 4096 from List.length_replicate]
    decide

/-- Witnesses of `RestoresPullTheirSet`: range data, a header that is refused, a tag that does not fit, and the tag of
the set, which leaves the job restored. -/
theorem witness_restore_data :
    (puller (some [])).delivers (snap 4 4096) tSnap 1 true ∧ snapKind (snap 4 4096) = 4 ∧ snapOff (snap 4 4096) = 4096 ∧
    (puller none).tagPlace = 8128 ∧ snapOff (snap 4 8128) = 8128 ∧ (puller none).longIs 0x42 = none ∧
    ((puller none).setHost { (puller none).host with long := some writing }).longIs 0x42 = some writing ∧
    (puller none).headerTaken (block 64 [(18, 2, 9)]) = false ∧ tagFits (block 64 []) (block 64 []) = false ∧
    tagFits (block 64 [(0, 8, 0x3147415444454553), (8, 8, 1), (32, 4, 0x9D82369F), (60, 4, 0x33C3BDBB)]) (block 64 [(8, 8, 1)]) = true ∧ (puller none).job.state = .restoring := by
  simp only [State.delivers, State.arrives]
  decide +kernel

/-! ### The host -/

/-- A running job with one PINNED granule, which its owner table leaves to the host. -/
def hostPinned : State :=
  { running with job := { state := .running, segments := [⟨0, 0x200000, 1, 0, 1, 0⟩], frames := [(0, 0)] }
                 hbm := memory [(61440, leBytes 4 0x20000)] }

/-- Witnesses of `HostReadsAndWrites`: a link that is and one that is not fenced; the last line and the last byte of that granule, and
accesses that are refused; no held half; a read in the cycle of a count and one after it; a first and a second error. -/
theorem witness_host :
    running.fenced 0x73 = false ∧ ({ running with fence := { fenced := BitVec.twoPow 116 0x73 } }).fenced 0x73 = true ∧
    (running.access .host).held = none ∧ hostPinned.hostStatus .hostRead 0x1FFFC0 64 = 0 ∧
    hostPinned.hostStatus .hostWrite 0x1FFFFF 1 = 0 ∧ running.hostStatus .hostRead 0 64 ≠ 0 ∧ running.hostStatus .hostWrite 0 64 ≠ 0 ∧
    (running.tick.ovrFresh.1 = running.cc ∧ (running.reach 1).tick.ovrFresh.1 ≠ (running.reach 1).cc) ∧
    (running.host.fresh.cc = running.cc ∧ (running.reach 1).host.fresh.cc ≠ (running.reach 1).cc) ∧
    running.host.errValid = false ∧ (running.hostError 0 2 false).host.errValid = true := by decide +kernel

/-! ### Mailboxes -/

/-- A request that has been accepted from mailbox 0, for a command of the table, in a job state. -/
def request (row : Cmd) (q : List Byte) : Accepted := { mb := 0, cmd := row.code, seq := 1, owner := 0, len := q.length, request := q }
def asked (row : Cmd) (job : Job) (q : List Byte) : State :=
  { running with job := job, host := { bootState := 1, accepted := [request row q] } }

/-- The state in which it executes. -/
def executing (row : Cmd) (job : Job) (q : List Byte) : State :=
  let u := (asked row job q).setHost { (asked row job q).host with accepted := [] }
  if row.long = true then u.setLong { req := request row q } else u

/-- It is taken, and executes if its length and the job's state are right. -/
theorem asked_taken (row : Cmd) (job : Job) (q : List Byte) :
    (asked row job q).takesCommand 0 row (request row q) ((asked row job q).setHost { (asked row job q).host with accepted := [] }) :=
  ⟨[], rfl, rfl, rfl, BitVec.getLsbD_zero, rfl, rfl⟩
theorem asked_runs (row : Cmd) (job : Job) (q : List Byte) (h : row.lenOk q.length = true) (k : row.states.contains job.state = true) :
    (asked row job q).runsCommand 0 row (request row q) (executing row job q) :=
  ⟨fun _ => rfl, h, k, _, asked_taken row job q, rfl⟩

/-- Witnesses of `CommandsAreTaken`: a posted request with a sequence number of its own; another long command that runs; lengths and
states that are wrong, where the row has any. -/
theorem witness_taken :
    running.fenced 0x72 = false ∧
    (∃ s : State, (s.requestOf 31).seq ≠ leNat (s.mbBytes 31 16 4) ∧ knownCommands.contains (s.requestOf 31).cmd = true ∧
      (s.requestOf 31).len ≤ 2048) ∧
    (∀ m ∈ mailboxCommands, m.row.lenOk 4095 = false) ∧
    (∀ m ∈ mailboxCommands, m.row.long = true → ({ asked m.row {} [] with host := { (asked m.row {} []).host with
      long := some { req := request m.row [] } } }).host.long.isSome = true) ∧
    cmdTickSet.lenOk 8 = true ∧ cmdTickSet.states.contains .running = false := by
  refine ⟨by decide, ⟨running.putMb 31 0 (block 16 [(4, 4, 1), (8, 2, 0x70), (10, 2, 2048)]), by decide +kernel⟩, by decide, by decide, rfl, rfl⟩

/-- Witness of `CommandsComplete`: a result of the largest length for the last mailbox. -/
theorem witness_complete : (31 : Nat) < 32 ∧ (List.replicate 1984 (1 : Byte)).length ≤ 1984 ∧ Memory.wf running.host.mailbox = true :=
  ⟨by decide, Nat.le_of_eq List.length_replicate, rfl⟩

/-- A loaded job with a period; a job of command lists; and the requests of commands with fields, at ends of their ranges. -/
def loaded : Job := { state := .loaded, segments := [⟨0, 0x200000, 1, 0, 1, 0⟩] }
def loadRequest : List Byte := block 128 [(16, 1, 1), (17, 1, 8), (18, 1, 5), (19, 1, 4), (20, 4, 64), (64, 4, 0x1000000), (68, 1, 64)]

/-- Witnesses of `CommandsHaveTheirEffect` for commands on jobs and ticks. -/
theorem witness_job_commands :
    (asked cmdIdentify {} []).runsCommand 0 cmdIdentify (request cmdIdentify []) (executing cmdIdentify {} []) ∧
    ((asked cmdJobLoad {} loadRequest).runsCommand 0 cmdJobLoad (request cmdJobLoad loadRequest) (executing cmdJobLoad {} loadRequest) ∧
      loadFieldBad loadRequest = none ∧ (asked cmdJobLoad {} loadRequest).host.pcie.busMaster = true) ∧
    (∀ q ∈ [block 16 [(10, 2, 1)], block 16 [(8, 1, 1)]], ∃ s t : State, s.runsCommand 0 cmdJobStart (request cmdJobStart q) t ∧
      field q 9 1 = 0 ∧ field q 12 4 = 0 ∧ t.startRefusal = none) ∧
    (∀ q ∈ [block 8 [], block 8 [(0, 1, 3)]], ∀ st ∈ [JobState.running, .waitArm, .stopped],
      (asked cmdJobStop { state := st } q).runsCommand 0 cmdJobStop (request cmdJobStop q) (executing cmdJobStop { state := st } q) ∧
        zeroField q 1 7 = true ∧ field q 0 1 ≤ 3) ∧
    (∀ q ∈ [block 8 [(0, 4, 24000), (4, 1, 10)], block 8 [(0, 4, 12000000), (4, 1, 125)]],
      (asked cmdTickSet loaded q).runsCommand 0 cmdTickSet (request cmdTickSet q) (executing cmdTickSet loaded q) ∧ zeroField q 5 3 = true ∧
        (executing cmdTickSet loaded q).tickAllowed (field q 0 4) (if field q 4 1 = 0 then 30 else field q 4 1) = true) := by
  refine ⟨asked_runs _ _ _ rfl rfl, ⟨asked_runs _ _ _ (by decide +kernel) rfl, by decide +kernel, rfl⟩, ?_, ?_, ?_⟩
  · intro q h
    refine ⟨{ asked cmdJobStart loaded q with tick := { period := 24000 } }, { executing cmdJobStart loaded q with tick := { period := 24000 } }, ?_⟩
    revert h
    revert q
    simp only [List.forall_mem_cons]
    exact ⟨⟨⟨nofun, by decide, by decide, _, ⟨[], rfl, rfl, rfl, BitVec.getLsbD_zero, rfl, rfl⟩, rfl⟩, by decide +kernel⟩,
      ⟨⟨nofun, by decide, by decide, _, ⟨[], rfl, rfl, rfl, BitVec.getLsbD_zero, rfl, rfl⟩, rfl⟩, by decide +kernel⟩, nofun⟩
  · simp only [List.forall_mem_cons]
    exact ⟨⟨⟨asked_runs _ _ _ rfl rfl, by decide⟩, ⟨asked_runs _ _ _ rfl rfl, by decide⟩, ⟨asked_runs _ _ _ rfl rfl, by decide⟩, nofun⟩,
      ⟨⟨asked_runs _ _ _ rfl rfl, by decide⟩, ⟨asked_runs _ _ _ rfl rfl, by decide⟩, ⟨asked_runs _ _ _ rfl rfl, by decide⟩, nofun⟩, nofun⟩
  · simp only [List.forall_mem_cons]
    exact ⟨⟨asked_runs _ _ _ rfl rfl, by decide +kernel⟩, ⟨asked_runs _ _ _ rfl rfl, by decide +kernel⟩, nofun⟩

/-- Witnesses of `CommandsHaveTheirEffect` for commands on storage and on functions. -/
theorem witness_storage_commands :
    (∀ n ∈ [1, 127], ∃ q, field q 0 2 = n ∧ q.length = 16 + 16 * n ∧ field q 2 14 = 0 ∧
      (asked cmdLookahead loaded q).runsCommand 0 cmdLookahead (request cmdLookahead q) (executing cmdLookahead loaded q)) ∧
    (∃ q, (asked cmdTableRegister loaded q).runsCommand 0 cmdTableRegister (request cmdTableRegister q) (executing cmdTableRegister loaded q) ∧
      field q 0 2 = 1023 ∧ field q 3 1 = 0 ∧ field q 2 1 = 1) ∧
    (∀ n ∈ [32, 4096], ∃ q, (asked cmdTableRegister loaded q).runsCommand 0 cmdTableRegister (request cmdTableRegister q)
        (executing cmdTableRegister loaded q) ∧ field q 0 2 = 1 ∧ field q 3 1 = 0 ∧ field q 2 1 = 0 ∧ field q 4 2 = n ∧ field q 4 2 % 32 = 0 ∧
      field q 6 2 = 0 ∧ field q 20 4 = 0 ∧ ((executing cmdTableRegister loaded q).segmentAt (field q 8 8)).isSome = true ∧
      ((executing cmdTableRegister loaded q).segmentAt (field q 24 8)).any
        (fun g => g.cls = 1 && field q 24 8 + field q 4 2 ≤ g.base + g.size) = true) ∧
    (∃ q, (asked cmdQuotaSet {} q).runsCommand 0 cmdQuotaSet (request cmdQuotaSet q) (executing cmdQuotaSet {} q) ∧
      (∀ r ∈ chunks 32 q, quotaBad r = none) ∧ ∃ u, (executing cmdQuotaSet {} q).applyQuotas none 0 (chunks 32 q) = .ok u) ∧
    (asked cmdFenceQuery {} []).runsCommand 0 cmdFenceQuery (request cmdFenceQuery []) (executing cmdFenceQuery {} []) ∧
    (∃ q, (asked cmdResetFunction {} q).runsCommand 0 cmdResetFunction (request cmdResetFunction q) (executing cmdResetFunction {} q) ∧
      field q 0 1 = 0x71 ∧ field q 1 1 = 2 ∧ field q 2 6 = 0) := by
  simp only [List.forall_mem_cons]
  refine ⟨⟨⟨block 32 [(0, 2, 1)], ?_, ?_, ?_, asked_runs _ _ _ ?_ rfl⟩, ⟨block 2048 [(0, 2, 127)], ?_, ?_, ?_, asked_runs _ _ _ ?_ rfl⟩, nofun⟩,
    ⟨block 32 [(0, 2, 1023), (2, 1, 1)], asked_runs _ _ _ ?_ rfl, ?_, ?_, ?_⟩,
    ⟨⟨block 32 [(0, 2, 1), (4, 2, 32), (16, 4, 1)], asked_runs _ _ _ ?_ rfl, ?_⟩,
     ⟨block 32 [(0, 2, 1), (4, 2, 4096), (24, 8, 0x1FF000)], asked_runs _ _ _ ?_ rfl, ?_⟩, nofun⟩,
    ⟨block 32 [(1, 1, 1)], asked_runs _ _ _ ?_ rfl, ?_, _, rfl⟩, asked_runs _ _ _ rfl rfl,
    ⟨block 8 [(0, 1, 0x71), (1, 1, 2)], asked_runs _ _ _ ?_ rfl, ?_, ?_, ?_⟩⟩ <;> decide +kernel

/-- Witnesses of `CommandsHaveTheirEffect` for snapshots, checkpoints, telemetry, firmware and command lists. -/
theorem witness_state_commands :
    (∃ q, (asked cmdSnapshotNow { state := .running } q).runsCommand 0 cmdSnapshotNow (request cmdSnapshotNow q)
        (executing cmdSnapshotNow { state := .running } q) ∧ zeroField q 0 8 = true) ∧
    (∀ n ∈ [0, 1], ∃ q, (asked cmdRestore { state := .loaded } q).runsCommand 0 cmdRestore (request cmdRestore q)
        (executing cmdRestore { state := .loaded } q) ∧
      field q 0 1 = n ∧ zeroField q 1 15 = true ∧
      (asked cmdRestore { state := .loaded } q).fence.fenced &&& (asked cmdRestore { state := .loaded } q).fence.used = 0 ∧
      (executing cmdRestore { state := .loaded } q).poolsRefusal = none ∧ ∀ m ∈ [0, 1, 2], ∃ u : State,
        u = ((executing cmdRestore { state := .loaded } q).setSeed { mode := m }).setJob { state := .loaded, before := .loaded } ∧
        (u.setJobState .restoring).restoreSteps.2 = true ∧ (u.setJobState .restoring).restoreSteps.1.seed.mode = m) ∧
    (∀ st ∈ [JobState.running, .stopped], ∃ q, (asked cmdCheckpoint { state := st, cmdlist := true } q).runsCommand 0 cmdCheckpoint
        (request cmdCheckpoint q) (executing cmdCheckpoint { state := st, cmdlist := true } q) ∧ zeroField q 0 8 = true ∧
      ((executing cmdCheckpoint { state := st, cmdlist := true } q).rangesAt 0).isSome = true) ∧
    (∃ q, (asked cmdTelemetryRead {} q).runsCommand 0 cmdTelemetryRead (request cmdTelemetryRead q) (executing cmdTelemetryRead {} q) ∧
      (executing cmdTelemetryRead {} q).telemetryObject q = .ok []) ∧
    (∃ q, (asked cmdFwStage {} q).runsCommand 0 cmdFwStage (request cmdFwStage q) (executing cmdFwStage {} q) ∧ field q 0 1 = 1 ∧
      zeroField q 1 7 = true) ∧
    (∃ (s t : State) (q : List Byte), s.runsCommand 0 cmdFwActivate (request cmdFwActivate q) t ∧ field q 0 1 = 1 ∧ zeroField q 1 7 = true ∧
      (t.sec.boot (fwKind 1)).staged = some 1) ∧
    (∀ n ∈ [0, 1, 63], ∃ q, (asked cmdCmdlistSubmit { loaded with cmdlist := true } q).runsCommand 0 cmdCmdlistSubmit
        (request cmdCmdlistSubmit q) (executing cmdCmdlistSubmit { loaded with cmdlist := true } q) ∧ field q 6 2 = n ∧
      q.length = 32 + 32 * n ∧ zeroField q 20 12 = true ∧ (n = 0 → field q 16 4 = 65536) ∧
      (executing cmdCmdlistSubmit { loaded with cmdlist := true } q).tickPassed (field q 0 6) = false) := by
  have kept {m : Nat} (u : State) (h : u.seed.mode = m) : u.restoreSteps.1.seed.mode = m := by
    rw [show u.restoreSteps.1.seed = u.seed from State.restoreSteps_same u .seed (by decide)]; exact h
  simp only [List.forall_mem_cons]
  refine ⟨⟨block 8 [], asked_runs _ _ _ ?_ rfl, ?_⟩, ⟨⟨block 16 [], asked_runs _ _ _ ?_ rfl, ?_, ?_, ?_, ?_, ⟨_, rfl, rfl, kept _ rfl⟩, ⟨_, rfl, rfl, kept _ rfl⟩, ⟨_, rfl, rfl, kept _ rfl⟩, nofun⟩,
     ⟨block 16 [(0, 1, 1)], asked_runs _ _ _ ?_ rfl, ?_, ?_, ?_, ?_, ⟨_, rfl, rfl, kept _ rfl⟩, ⟨_, rfl, rfl, kept _ rfl⟩, ⟨_, rfl, rfl, kept _ rfl⟩, nofun⟩, nofun⟩,
    
    ⟨⟨block 8 [], asked_runs _ _ _ ?_ rfl, ?_⟩, ⟨block 8 [], asked_runs _ _ _ ?_ rfl, ?_⟩, nofun⟩,
    ⟨block 32 [(0, 1, 2)], asked_runs _ _ _ ?_ rfl, rfl⟩, ⟨block 24 [(0, 1, 1)], asked_runs _ _ _ ?_ rfl, ?_⟩,
    ⟨{ asked cmdFwActivate {} (block 8 [(0, 1, 1)]) with sec := { hwdBoot := { staged := some 1 } } }, _, block 8 [(0, 1, 1)],
      ⟨nofun, ?_, rfl, _, ⟨[], rfl, rfl, rfl, BitVec.getLsbD_zero, rfl, rfl⟩, rfl⟩, ?_⟩,
    ⟨block 32 [(16, 4, 65536)], asked_runs _ _ _ ?_ rfl, ?_⟩, ⟨block 64 [(6, 2, 1)], asked_runs _ _ _ ?_ rfl, ?_⟩, ⟨block 2048 [(6, 2, 63)], asked_runs _ _ _ ?_ rfl, ?_⟩, nofun⟩ <;> decide +kernel

/-- Witnesses of `WaitsEnd`: transfers of both directions; the long commands in the phases in which they end; a list of no bundle to
build for the current tick; and a publication. -/
theorem witness_waits :
    (∀ w ∈ [true, false], ∃ s : State, ∃ x rest, s.host.xfers = x :: rest ∧ x.write = w) ∧
    (∀ p ∈ [(0x10, 2), (0x12, 2), (0x41, 1), (0x42, 1), (0x60, 1)], ∃ (s : State) (l : LongCmd), s.host.long = some l ∧
      s.fenced 0x72 = false ∧ l.req.cmd = p.1 ∧ l.phase = p.2 ∧ s.seed.pulling = none) ∧
    (∃ s : State, Tab.find 5 s.job.lists = some [] ∧ s.job.cmdlist = true ∧ s.fenced 0x72 = false ∧ s.buildsNow 5 = true ∧
      (Tab.find (bodyKey 3 5) s.job.built).any (fun b => b.1 = 5) = false ∧ 128 * (s.bodyBundles 3 []).length ≤ 0x400000) ∧
    (∃ s : State, ∃ p rest, s.host.publishing = p :: rest) := by
  simp only [List.forall_mem_cons]
  refine ⟨⟨⟨running.setHost { xfers := [⟨request cmdTelemetryRead [], false, 0, 0, true, 0⟩] }, _, _, rfl, rfl⟩,
      ⟨running.setHost { xfers := [⟨request cmdJobLoad [], true, 0, 0, false, 0⟩] }, _, _, rfl, rfl⟩, nofun⟩,
    ⟨⟨running.setLong { req := request cmdJobLoad [], phase := 2 }, _, rfl, BitVec.getLsbD_zero, rfl, rfl, rfl⟩,
      ⟨running.setLong { req := request cmdJobStop [], phase := 2 }, _, rfl, BitVec.getLsbD_zero, rfl, rfl, rfl⟩,
      ⟨running.setLong { req := request cmdRestore [], phase := 1 }, _, rfl, BitVec.getLsbD_zero, rfl, rfl, rfl⟩,
      ⟨running.setLong { req := request cmdCheckpoint [], phase := 1 }, _, rfl, BitVec.getLsbD_zero, rfl, rfl, rfl⟩,
      ⟨running.setLong { req := request cmdFwStage [], phase := 1 }, _, rfl, BitVec.getLsbD_zero, rfl, rfl, rfl⟩, nofun⟩,
    ⟨{ running with job := { state := .running, cmdlist := true, lists := [(5, [])] }, tick := { edges := true, count := 4 } }, rfl, rfl,
      BitVec.getLsbD_zero, by decide, by decide, by decide +kernel⟩,
    running.setHost { publishing := [⟨0, 0, 0, []⟩] }, _, _, rfl⟩

/-! ### Fences, storage and power -/

/-- A device whose head of the reset queue has begun. -/
def resetting : State := { running with fence := { queue := [{ func := 0x3F, action := 0, req := .host, startNs := 5 }] } }

/-- Witnesses of `FunctionsAreFencedAndReset`: the last function that may be asked for and the first number that names none; an empty
and a full queue; a reset that has begun on the last cluster. -/
theorem witness_functions :
    (0x72 : Nat) < 0x73 ∧ running.power.transit = false ∧ running.fence.queue = [] ∧ running.job.state ≠ .held ∧ running.fence.used = 0 ∧ 0x74 ≤ (0xFF : BitVec 8).toNat ∧
    16 ≤ ({ queue := List.replicate 16 { func := 0, action := 1, req := .host } : FenceUnit }).queue.length ∧
    ∃ c, resetting.fence.queue = [c] ∧ c.action = 0 ∧ c.startNs ≠ 0 ∧ c.func < 0x40 ∧ c.wasClear = true :=
  ⟨by decide, rfl, rfl, by decide, rfl, by decide, by decide, _, rfl, rfl, by decide, by decide, rfl⟩

/-- A job with a TIERED page that is being staged into a frame, on a channel that is present. -/
def staging : State :=
  { running with
    job := { state := .running, segments := [⟨0, 0x200000, 2, 0, 0, 0⟩] }
    und := { pages := [(0, { state := .staging, frame := some 0 })], channels := [(0, { present := true })] } }

/-- Witnesses of `StorageIsKept`. -/
theorem witness_storage :
    (∀ j, MemLoc.near 63 ≠ .hbm j) ∧ (104 : BitVec 8).toNat < 105 ∧ staging.channelWorks (staging.pageChannel 0) = true ∧
    (staging.page 0).state = .staging ∧ (staging.page 0).frame = some 0 ∧ (staging.pageKey 0).isSome = true ∧ (staging.page 0).fill = false ∧
    staging.job.state ≠ .none ∧ staging.job.state ≠ .loading ∧ staging.fenced 0x68 = false ∧ staging.channelWorks 0 = true ∧
    staging.und.journal < 2 ^ 20 ∧ staging.power.transit = false ∧ (∃ key, staging.pageKey 0 = some key ∧ staging.recordFits key = true) ∧
    ((staging.setPage 0 { state := .staging, frame := some 0, fill := true }).page 0).fill = true := by
  refine ⟨nofun, ?_, ?_, ?_, ?_, ?_, ?_, ?_, ?_, ?_, ?_, ?_, ?_, ⟨_, rfl, ?_⟩, ?_⟩ <;> decide +kernel

/-- Witnesses of `PowerAndHeatAct`. -/
theorem witness_power :
    (running.partIdle (.die 3) = true ∧ running.partState (partKeyOf (.die 3)) = 0 ∧ 0 < running.choose (.cluster 63) 1000000 ∧
      withOps.partIdle (.cluster 0) = false) ∧
    Tab.find (stateKey 1 63) ({ running with power := { states := [(stateKey 1 63, (2, 0))] } }).power.states = some (2, 0) ∧
    ({ running with power := { states := [(stateKey 1 63, (2, 0))] } }).partState (stateKey 2 15) < 3 ∧
    ({ running with power := { states := [(stateKey 1 63, (2, 0))] } }).partState (stateKey 1 63) = 2 ∧
    Tab.find (stateKey 1 63) ({ running with power := { states := [(stateKey 1 63, (2, 0))] } }).power.wakeAt = none ∧
    ({ running with power := { transit := true } }).power.transit = true ∧
    running.power.thermTrip = false ∧ running.power.tripping = false ∧
    (∀ j ∈ List.replicate 32 (109 : BitVec 8), j.toNat < running.power.trip.toNat ∧ j.toNat < 125) ∧
    (∀ h ∈ List.replicate 8 (104 : BitVec 8), h.toNat < 105) ∧ 125 ≤ (125 : BitVec 8).toNat ∧ running.power.transit = false ∧
    running.job.state ≠ .none ∧ ({ running with power := { refLost := true } }).power.refLost = true := by
  decide +kernel

/-! ### Boot and management -/

/-- A device in boot stage 8, and one in ROM recovery with a transfer of 4097 bytes of which 4096 have come. -/
def booting (stage : Nat) : State := { State.reset with sec := { bootNow := stage } }
def recovering (got : Nat) : State := { State.reset with sec := { recovering := true, recovery := some { total := 4097, received := got } } }

/-- Witnesses of `BootAndTestPort`. -/
theorem witness_boot :
    1000 ≤ 1000 ∧ 999 < 1000 ∧ (booting 2).host.bootState = 0 ∧ (booting 2).sec.bootNow = 2 ∧ ({ } : BootReport).railsOk = true ∧
    ({ } : BootReport).fusesOk = true ∧ ({ } : BootReport).keyOk = true ∧ (booting 8).sec.bootNow = 8 ∧ (booting 8).rangerRuns = true ∧
    (booting 8).fence.queue = [] ∧ (recovering 0).sec.recovering = true ∧ 4096 ≤ (4096 : BitVec 64).toNat ∧
    (0x800000 : BitVec 64).toNat ≤ 0x800000 ∧
    (recovering 4096).sec.recovery = some { total := 4097, received := 4096 } ∧ 4096 + 1 ≤ 4097 ∧
    ({ total := 4097, received := 4096 } : Recovery).last ≠ some (4096, byteField [7] 0 1) ∧
    (recovering 4097).sec.recovery = some { total := 4097, received := 4097 } := by decide

/-- A device whose firmware runs, with a session of the board management controller from the owner root. -/
def managed : State :=
  { running with
    sec := { bootNow := 9, ownerRoot := some [1], sessions := [(0, { transport := .mctp, established := true, root := [1] })]
             spdm := [(transportCode .mctp, 3)], algorithms := [(transportCode .mctp, 15)] } }

/-- A time request that has left, and a server's reply to it. -/
def timed : State := { running with sec := { bootNow := 9, timeSent := some (0, List.replicate 48 5), timePath := 1, timeRequest := some [] } }
def timePacket : List Byte := 0x24 :: List.replicate 23 0 ++ List.replicate 8 5 ++ List.replicate 16 0

/-- A device with the owner's session of its fabric manager, device 1, and the packet of a message from there. -/
def fabManaged : State :=
  { tagged with
    fab := { tagged.fab with mgr := [1, 0, 0, 0] }
    sec := { bootNow := 9, ownerRoot := some [1], sessions := [(0, { transport := .fabric, established := true, root := [1] })] } }

/-- Witnesses of `ManagementIsAnswered`: a message that its packet brings, one whose packet comes from elsewhere, and one of none. -/
theorem witness_management_packets :
    fabManaged.messageWhole .fabMgr [packet 0x10 0 []] ∧ (fabManaged.messageArrives .fabMgr [packet 0x10 0 []]).rangerRuns = true ∧
    (fabManaged.messageArrives .fabMgr [packet 0x10 0 []]).mgmtStop .fabMgr (some 0) 0x50000 8 = none ∧
    fabManaged.mgmtStop .fabMgr (some 0) 0x50000 16 = some 3 ∧
    [packet 0x10 0 []].all tagged.takesMgmt = false ∧ managed.messageWhole .bmc [] ∧ managed.messageArrives .bmc [] = managed := by
  refine ⟨fun _ => ⟨nofun, ?_⟩, ?_, ?_, ?_, ?_, nofun, rfl⟩ <;> decide +kernel

/-- Witnesses of `ManagementIsAnswered`. -/
theorem witness_management :
    managed.rangerRuns = true ∧ managed.mgmtStop .bmc (some 0) 0x50000 8 = none ∧ managed.defined 0x50000 = true ∧
    managed.defined 0x50028 = true ∧ managed.mayManage .bmc (some 0) = true ∧ managed.sec.ownerRoot ≠ none ∧ managed.mayManage .host none = false ∧
    running.sec.ownerRoot = none ∧ ({ running with fab := { mgr := [9, 0, 0, 0] } }).fab.mgr.contains 9 = true ∧
    ({ running with ranger := { reports := [⟨4, [], 0, 0⟩] } }).ranger.reports.find? (fun (r : Report) => decide (r.rnum = 4)) = some ⟨4, [], 0, 0⟩ ∧
    max running.cc (0 + 120000000) ≤ 0 + 12000000000 ∧ (running.sensor 17).isSome = true ∧
    timed.sec.timeRequest = some [] ∧ managed.sec.timeRequest = none ∧ timeBodyOk 1 (block 64 [(0, 1, 1)]) = true ∧
    timeBodyOk 2 (block 8 [(0, 1, 2)] ++ timePacket ++ block 8 []) = true ∧
    field (byteField (block 8 [(0, 1, 2)] ++ timePacket ++ block 8 []) 8 48) 0 1 % 8 = 4 ∧ timed.replyMatches timePacket = true ∧
    timed.sec.timePath = 1 ∧ field timePacket 0 1 % 8 = 4 ∧ managed.power.transit = false := by decide +kernel

/-- Witnesses of `SpdmIsAnswered`: a connection before and after its algorithms, free and taken session numbers, a message in pieces. -/
theorem witness_spdm :
    managed.rangerRuns = true ∧ managed.sec.signing.any (fun g => g.1 ≠ Transport.mctp && managed.cc < g.2) = false ∧
    3 ≤ managed.connection .mctp ∧ managed.connection .doe < 3 ∧ managed.hasAlgorithms .mctp 15 = true ∧
    managed.hasAlgorithms .mctp 3 = true ∧
    ([0, 1, 2, 3] : List Nat).find? (fun j => (Tab.find j managed.sec.sessions).isNone) = some 1 ∧
    (managed.sessionOf .mctp 0).any (fun (x : Session) => x.established) = true ∧
    (({ managed with sec := { sessions := [(0, { transport := .mctp })] } }).sessionOf .mctp 0).any (fun (x : Session) => !x.established) = true ∧
    ({ largeOut := some ⟨1, 0, []⟩ : Security }).largeOut = some ⟨1, 0, []⟩ := by decide +kernel

/-! ### The specification's worked examples, and single steps whose results its text gives -/

/-- The block of "Worked example: one MXFP4 block": 44.0, 1.3, -0.2, 0.1 and 28 zeros (1.3, 0.2 and 0.1 as FP32 values). -/
def gateBlock : List Val :=
  [fp32.decode 0x42300000, fp32.decode 0x3FA66666, fp32.decode 0xBE4CCCCD, fp32.decode 0x3DCCCCCD] ++
    List.replicate 28 (fp32.decode 0)

/-- That example without Topnote: scale 0x82, elements 6, +0, -0, +0, and a value vanished. -/
theorem test_mxfp4_block :
    encodeBlock .mx4 false gateBlock [] = ⟨[7, 0, 8, 0] ++ List.replicate 28 0, 0x82, [], true⟩ := by decide +kernel

/-- And with Topnote: sidecar 0x30, 0x42, 0x00, scale 0x7D, elements 0, 6, -1, 0.5, and nothing vanished. -/
theorem test_mxfp4_topnote :
    encodeBlock .mx4 true gateBlock [] = ⟨[0, 7, 0xA, 1] ++ List.replicate 28 0, 0x7D, [0x30, 0x42, 0], false⟩ := by
  decide +kernel

/-- "Worked example: one sum, three ways": the Grove order and the other order of arrival. -/
theorem test_sum_orders :
    f32Code (fAdd (fAdd (.ofNat 1) (fAdd (.ofNat 0) (.ofNat 16777216))) (.ofNat 1)) = 0x4B800000 ∧
    f32Code (fAdd (fAdd (.ofNat 1) (.ofNat 1)) (fAdd (.ofNat 0) (.ofNat 16777216))) = 0x4B800001 := by decide +kernel

/-- "Worked example: one global address": die 2's window, near SRAM of cluster 37, and its region. -/
theorem test_global_address :
    globalAddr 0x1612 (nearBase 37 + 0x40) = 0x1612F0200A000040 ∧ regionOf 37 = 9 := by decide +kernel

/-- The choices of "Worked example: admission with drops", before admission. -/
def toyChoices : Tab (List ChoiceRec) :=
  [(3, 5), (3, 1), (3, 5), (5, 3), (5, 6), (5, 3)].zipIdx.map
    (fun (p : (Nat × Nat) × Nat) => (p.2, [⟨p.1.1, 0xFFFF, 0⟩, ⟨p.1.2, 0xFFFF, 0⟩]))

/-- Its context's capacity is 2, and the walk admits and drops as its table says. -/
theorem test_admission :
    ({ ctxOf 0 [] with k := 2, e := 8, capFactor := 0x3F800000, capMin := 1 }).capacity 6 = 2 ∧
    (let a := [(0, 0), (1, 0), (2, 0), (3, 0), (4, 0), (5, 0), (0, 1), (1, 1), (2, 1), (3, 1), (4, 1), (5, 1)].foldl
        (fun (a : Admission) (p : Nat × Nat) => a.choose 2 p.1 p.2) { recs := toyChoices }
     a.used = [(1, 1), (3, 2), (5, 2), (6, 1)] ∧ a.drops = [(3, 3), (5, 3)] ∧
     a.entries.reverse = [(3, 0, 0, 0), (3, 1, 1, 0), (5, 0, 3, 0), (5, 1, 4, 0), (1, 0, 1, 1), (6, 0, 4, 1)]) := by
  decide +kernel

/-- Tokens with two equal scores get the weights 0.5 and 0.5 (the same example). -/
theorem test_equal_weights :
    (choiceWeights 1 [fp32.decode 0x3FC00000, fp32.decode 0x3FC00000]).map f32Code = [0x3F000000, 0x3F000000] := by decide +kernel

/-- A state after a step, where there is one. -/
def after (o : Host.Outcome State Fault Refusal) : State :=
  match o with
  | .next t => t
  | _ => running

/-- A vector operation on one element: issued on vector unit 0, then ended; the four bytes of its destination. -/
def vectorResult (a b c : Nat) (run : State → Host.Outcome State Fault Refusal) : Nat :=
  let s : State := { withNear [(64, vecDescriptor), (4096, leBytes 4 a), (4128, leBytes 4 b), (4160, leBytes 4 c)] with
    job := { state := .running } }
  leNat (getBlock zeroByte (nearBase 0 + 4192) 4 (after (exec (.operationEnd 0 0) (after (run s)))).sram)

/-- R136, R102, R105: sums, products and comparisons of one element. -/
theorem test_vector_results :
    vectorResult 0x3F800000 0x4B800000 0 (exec (.vadd 0 (slotArg 1))) = 0x4B800000 ∧
    vectorResult 0x40000000 0xC0400000 0 (exec (.vmul 0 (slotArg 1))) = 0xC0C00000 ∧
    vectorResult 0x40000000 0x40400000 0x3F800000 (exec (.vfma 0 (slotArg 1))) = 0x40E00000 ∧
    vectorResult 0 0x80000000 0 (exec (.vmin 0 (slotArg 1))) = 0 ∧
    vectorResult 0x7F800001 0 0 (exec (.vmax 0 (slotArg 1))) = 0x7FC00000 := by decide +kernel

end Sys2Proof.Tests
end

/-! PROOFS. Number formats (spec 03): microscaling blocks, R92 to R100. `encodeBlock` is cut into the values that its codes are
derived from, the code of one element and the codes of all; the statements about a written block go through these parts. -/

namespace Sys2Proof.Machine

/-! ### Reading a block (R92 to R94) -/

theorem blockValues_nanScale (f : Fmt) (codes : List Nat) : blockValues f codes 255 none = codes.map (fun _ => Val.nan) := rfl

theorem blockValues_scaled (f : Fmt) (codes : List Nat) {c : Nat} (hc : c < 255) :
    blockValues f codes c none = codes.map (fun x => (f.decode x).scale ((c : Int) - 127)) := by
  have hne : (c == 255) = false := beq_false_of_ne hc.ne
  simp [blockValues, hne]

theorem signExt_toNat {w : Nat} (m : BitVec w) : signExt w m.toNat = m.toInt := by
  simp [signExt, BitVec.toInt_eq_toNat_cond, Nat.mod_eq_of_lt m.isLt]

theorem decode_mxi8 (m : BitVec 8) : Fmt.mxi8.decode m.toNat = .num (m.slt 0) m.toInt.natAbs (-6) := by
  simp [Fmt.decode, Val.ofInt, Val.scale, signExt_toNat, BitVec.slt]

/-! ### The parts of a written block -/

/-- R100: the values that a block's scale and codes are derived from: a sidecar's element counts as +0. -/
def blockRest (topnote : Bool) (vs : List Val) : List Val :=
  if topnote && !vs.isEmpty then vs.set (topIndex vs) (.num false 0 0) else vs

/-- R96: whether a block of these values is written as NaN: only a format without infinities and NaNs of its own. -/
def writesNan (f : Fmt) (rest : List Val) : Bool :=
  (f != .mx8a && f != .mx8b) && (rest.any (fun v => !v.isFinite) || decide (scaleExp f rest > 127))

/-- R96: the code of one element for the scale exponent `e` of an overflow block (`past`) or of another. -/
def elementCode (f : Fmt) (past : Bool) (e : Int) (v : Val) (m : RoundMode) : Nat :=
  match v with
  | .nan => mxNan f
  | .inf neg => if f == .mx8a then mxNan f else f.fp.signed neg (f.fp.maxCode + 1)
  | .num neg mag exp =>
    if past && (mxMagCode f .rne mag (exp - e)).2 then
      (if f == .mx8a then mxNan f else f.fp.signed neg (f.fp.maxCode + 1))
    else mxSigned f neg (mxMagCode f m mag (exp - e)).1

/-- The codes of a block's elements before the fill, and before R97's rule for a block of zeros. -/
def blockCodes (f : Fmt) (topnote : Bool) (vs : List Val) (modes : List RoundMode) : List Nat :=
  let rest := blockRest topnote vs
  let cs := rest.zipWith (elementCode f (decide (scaleExp f rest > 127)) (min (scaleExp f rest) 127))
    (modes ++ List.replicate (rest.length - modes.length) .rne)
  if topnote && !vs.isEmpty then cs.set (topIndex vs) 0 else cs

theorem exists_of_mem_zipWith {α β γ : Type} {g : α → β → γ} {as : List α} {bs : List β} {c : γ} (hc : c ∈ as.zipWith g bs) :
    ∃ a ∈ as, ∃ b, c = g a b := by
  rw [← List.map_uncurry_zip_eq_zipWith] at hc
  obtain ⟨⟨a, b⟩, hab, rfl⟩ := List.mem_map.1 hc
  exact ⟨a, (List.of_mem_zip hab).1, b, rfl⟩

section
variable {f : Fmt} {topnote : Bool} {vs : List Val} {modes : List RoundMode}

theorem mem_blockRest {v : Val} (h : v ∈ blockRest topnote vs) : v ∈ vs ∨ v = .num false 0 0 := by
  unfold blockRest at h
  split at h
  · exact List.mem_or_eq_of_mem_set h
  · exact .inl h

@[simp] theorem length_blockCodes : (blockCodes f topnote vs modes).length = vs.length := by
  have hrest : (blockRest topnote vs).length = vs.length := by unfold blockRest; split <;> simp
  simp only [blockCodes, apply_ite List.length, List.length_set, List.length_zipWith, List.length_append,
    List.length_replicate, hrest, ite_self]
  omega

/-- Each code is a sidecar's 0 or the code of one of the values that the codes are derived from. -/
theorem mem_blockCodes {c : Nat} (h : c ∈ blockCodes f topnote vs modes) :
    c = 0 ∨ ∃ v ∈ blockRest topnote vs, ∃ m, c = elementCode f (decide (scaleExp f (blockRest topnote vs) > 127))
      (min (scaleExp f (blockRest topnote vs)) 127) v m := by
  simp only [blockCodes] at h
  split at h
  · exact (List.mem_or_eq_of_mem_set h).symm.imp_right exists_of_mem_zipWith
  · exact .inr (exists_of_mem_zipWith h)

/-! ### A written block in terms of its parts (R95 to R99) -/

theorem encodeBlock_of_writesNan (h : writesNan f (blockRest topnote vs) = true) :
    (encodeBlock f topnote vs modes).codes = List.replicate 32 0 ∧ (encodeBlock f topnote vs modes).scale = 255 := by
  have key : encodeBlock f topnote vs modes = _ := if_pos h
  rw [key]
  exact ⟨rfl, rfl⟩

/-- R97, R99: the codes and the scale of a block that is not written as NaN. -/
theorem encodeBlock_of_not_writesNan (h : ¬ writesNan f (blockRest topnote vs) = true) :
    (encodeBlock f topnote vs modes).codes =
      (if (blockCodes f topnote vs modes).all (fun c => (f.decode c).isZero) then
        (blockCodes f topnote vs modes).map (fun _ => 0) else blockCodes f topnote vs modes) ++
        List.replicate (32 - (blockCodes f topnote vs modes).length) 0 ∧
    (encodeBlock f topnote vs modes).scale =
      if (blockCodes f topnote vs modes).all (fun c => (f.decode c).isZero) then 127
      else (min (scaleExp f (blockRest topnote vs)) 127 + 127).toNat := by
  have key : encodeBlock f topnote vs modes = _ := if_neg h
  rw [key]
  exact ⟨rfl, rfl⟩

/-- R97: a block whose elements are all written as zero. -/
theorem encodeBlock_of_blockCodes_zero (hlen : vs.length ≤ 32) (h : ¬ writesNan f (blockRest topnote vs) = true)
    (hz : ∀ c ∈ blockCodes f topnote vs modes, (f.decode c).isZero = true) :
    (encodeBlock f topnote vs modes).scale = 127 ∧ (encodeBlock f topnote vs modes).codes = List.replicate 32 0 := by
  obtain ⟨hcodes, hscale⟩ := encodeBlock_of_not_writesNan (modes := modes) h
  rw [hcodes, hscale, if_pos (List.all_eq_true.2 hz), if_pos (List.all_eq_true.2 hz)]
  refine ⟨rfl, ?_⟩
  rw [List.map_const', List.replicate_append_replicate, length_blockCodes, Nat.add_sub_cancel' hlen]

theorem mem_codes_encodeBlock {c : Nat} (h : c ∈ (encodeBlock f topnote vs modes).codes) :
    c = 0 ∨ (¬ writesNan f (blockRest topnote vs) = true ∧ c ∈ blockCodes f topnote vs modes) := by
  by_cases hnan : writesNan f (blockRest topnote vs) = true
  · rw [(encodeBlock_of_writesNan hnan).1] at h
    exact .inl (List.eq_of_mem_replicate h)
  · rw [(encodeBlock_of_not_writesNan hnan).1, List.mem_append] at h
    rcases h with h | h
    · split at h
      · rw [List.map_const'] at h
        exact .inl (List.eq_of_mem_replicate h)
      · exact .inr ⟨hnan, h⟩
    · exact .inl (List.eq_of_mem_replicate h)

/-- A block other than R96's that reads as zeros was written from zero codes alone. -/
theorem blockCodes_zero_of_codes_zero (hnan : ¬ writesNan f (blockRest topnote vs) = true)
    (h : ∀ c ∈ (encodeBlock f topnote vs modes).codes, (f.decode c).isZero = true) :
    ∀ c ∈ blockCodes f topnote vs modes, (f.decode c).isZero = true := by
  by_contra hsome
  rw [(encodeBlock_of_not_writesNan hnan).1, if_neg (fun hall => hsome (List.all_eq_true.1 hall))] at h
  exact hsome (fun c hc => h c (List.mem_append_left _ hc))

end

/-! ### MXINT8 has no code 0x80 (R94) -/

theorem mxSigned_mxi8 (neg : Bool) {mag : Nat} (h : mag ≤ 127) : mxSigned .mxi8 neg mag < 256 ∧ mxSigned .mxi8 neg mag ≠ 0x80 := by
  unfold mxSigned
  dsimp only
  split
  · next hneg =>
    have hpos : mag ≠ 0 := by simpa using (Bool.and_eq_true_iff.1 hneg).2
    omega
  · omega

theorem mxMagCode_mxi8_le (m : RoundMode) (mag : Nat) (exp : Int) : (mxMagCode .mxi8 m mag exp).1 ≤ 127 := min_le_right _ _

/-- R94: outside an overflow block a number's MXINT8 code is not 0x80. -/
theorem elementCode_mxi8 {v : Val} (hv : v.isFinite = true) (e : Int) (m : RoundMode) :
    elementCode .mxi8 false e v m < 256 ∧ elementCode .mxi8 false e v m ≠ 0x80 := by
  cases v with
  | num neg mag exp => exact mxSigned_mxi8 neg (mxMagCode_mxi8_le m mag (exp - e))
  | nan => cases hv
  | inf neg => cases hv

theorem not_writesNan_mxi8 {rest : List Val} (h : ¬ writesNan .mxi8 rest = true) :
    (∀ v ∈ rest, v.isFinite = true) ∧ ¬ scaleExp .mxi8 rest > 127 := by
  simpa [writesNan] using h

theorem codes_mxi8 {topnote : Bool} {vs : List Val} {modes : List RoundMode} {c : Nat}
    (hc : c ∈ (encodeBlock .mxi8 topnote vs modes).codes) : c < 256 ∧ c ≠ 0x80 := by
  rcases mem_codes_encodeBlock hc with rfl | ⟨hnan, hc⟩
  · decide
  · obtain ⟨hfin, hpast⟩ := not_writesNan_mxi8 hnan
    rcases mem_blockCodes hc with rfl | ⟨v, hv, m, rfl⟩
    · decide
    · rw [decide_eq_false hpast]
      exact elementCode_mxi8 (hfin v hv) _ m

/-! ### Blocks of zeros (R97) -/

theorem roundShift_zero (m : RoundMode) (sh : Nat) : roundShift m 0 sh = 0 := by
  simp [roundShift]

theorem mxMagCode_zero (f : Fmt) (m : RoundMode) (exp : Int) : mxMagCode f m 0 exp = (0, false) := by
  cases f <;> simp [mxMagCode, FpFmt.roundCode, roundShift_zero]

/-- R86, R94: the codes of +0 and -0 read as zero. -/
theorem decode_mxSigned_zero {f : Fmt} (hf : f.isMx = true) (neg : Bool) : (f.decode (mxSigned f neg 0)).isZero = true := by
  cases f <;> cases neg <;> revert hf <;> decide

theorem decode_zero {f : Fmt} (hf : f.isMx = true) : (f.decode 0).isZero = true := by
  cases f <;> revert hf <;> decide

@[simp] theorem isZero_scale (v : Val) (k : Int) : (v.scale k).isZero = v.isZero := by
  cases v <;> rfl

theorem eq_num_of_isZero {v : Val} (hv : v.isZero = true) : ∃ neg exp, v = .num neg 0 exp := by
  cases v with
  | num neg mag exp => exact ⟨neg, exp, by rw [eq_of_beq (show (mag == 0) = true from hv)]⟩
  | nan => cases hv
  | inf neg => cases hv

/-- A zero is written as zero, in an overflow block too. -/
theorem decode_elementCode_zero {f : Fmt} (hf : f.isMx = true) (past : Bool) (e : Int) {v : Val} (hv : v.isZero = true)
    (m : RoundMode) : (f.decode (elementCode f past e v m)).isZero = true := by
  obtain ⟨neg, exp, rfl⟩ := eq_num_of_isZero hv
  simpa [elementCode, mxMagCode_zero] using decode_mxSigned_zero hf neg

theorem absLt_zero {a v : Val} (ha : a.isZero = true) (hv : v.isZero = true) : a.absLt v = false := by
  obtain ⟨an, ae, rfl⟩ := eq_num_of_isZero ha
  obtain ⟨vn, ve, rfl⟩ := eq_num_of_isZero hv
  simp [Val.absLt, sumTerm]

/-- R95: a block of zeros has a_max 0. -/
theorem maxMag_zeros {vs : List Val} (h : ∀ v ∈ vs, v.isZero = true) : maxMag vs = .num false 0 0 := by
  refine List.foldlRecOn (motive := (· = Val.num false 0 0)) vs _ rfl ?_
  rintro _ rfl v hv
  simp [absLt_zero (a := .num false 0 0) rfl (h v hv)]

theorem scaleExp_zeros (f : Fmt) {vs : List Val} (h : ∀ v ∈ vs, v.isZero = true) : scaleExp f vs = 0 := by
  simp [scaleExp, maxMag_zeros h]

theorem isFinite_of_isZero {v : Val} (hv : v.isZero = true) : v.isFinite = true := by
  obtain ⟨neg, exp, rfl⟩ := eq_num_of_isZero hv
  rfl

theorem not_writesNan_zeros (f : Fmt) {vs : List Val} (h : ∀ v ∈ vs, v.isZero = true) : ¬ writesNan f vs = true := by
  have hfin : ∀ v ∈ vs, v.isFinite = true := fun v hv => isFinite_of_isZero (h v hv)
  simpa [writesNan, scaleExp_zeros f h] using fun _ _ => hfin

section
variable {f : Fmt} {topnote : Bool} {vs : List Val} {modes : List RoundMode}

theorem blockRest_zeros (h : ∀ v ∈ vs, v.isZero = true) : ∀ v ∈ blockRest topnote vs, v.isZero = true := by
  intro v hv
  rcases mem_blockRest hv with hv | rfl
  · exact h v hv
  · rfl

theorem blockCodes_zeros (hf : f.isMx = true) (h : ∀ v ∈ vs, v.isZero = true) :
    ∀ c ∈ blockCodes f topnote vs modes, (f.decode c).isZero = true := by
  intro c hc
  rcases mem_blockCodes hc with rfl | ⟨v, hv, m, rfl⟩
  · exact decode_zero hf
  · exact decode_elementCode_zero hf _ _ (blockRest_zeros h v hv) m

/-- R97: 32 zeros of either sign give the block of zeros. -/
theorem encodeBlock_zeros (hf : f.isMx = true) (hlen : vs.length ≤ 32) (h : ∀ v ∈ vs, v.isZero = true) :
    (encodeBlock f topnote vs modes).scale = 127 ∧ (encodeBlock f topnote vs modes).codes = List.replicate 32 0 :=
  encodeBlock_of_blockCodes_zero hlen (not_writesNan_zeros f (blockRest_zeros h)) (blockCodes_zeros hf h)

/-- R97: a block that is not R96's NaN block and is written as zeros alone is the block of zeros. -/
theorem encodeBlock_of_codes_zero (hlen : vs.length ≤ 32) (hscale : (encodeBlock f topnote vs modes).scale ≠ 255)
    (h : ∀ c ∈ (encodeBlock f topnote vs modes).codes, (f.decode c).isZero = true) :
    (encodeBlock f topnote vs modes).scale = 127 ∧ (encodeBlock f topnote vs modes).codes = List.replicate 32 0 := by
  have hnan : ¬ writesNan f (blockRest topnote vs) = true := fun hw => hscale (encodeBlock_of_writesNan hw).2
  exact encodeBlock_of_blockCodes_zero hlen hnan (blockCodes_zero_of_codes_zero hnan h)

/-- R97: the block of zeros reads as 32 zeros. -/
theorem blockValues_zeros (hf : f.isMx = true) :
    ∀ v ∈ blockValues f (List.replicate 32 0) 127 none, v.isZero = true := by
  intro v hv
  rw [blockValues_scaled f _ (by decide)] at hv
  obtain ⟨c, hc, rfl⟩ := List.mem_map.1 hv
  rw [List.eq_of_mem_replicate hc, isZero_scale]
  exact decode_zero hf

end

/-- Settles O10: a written block of zeros has scale code 127 and codes 0 (`encodeBlock_of_codes_zero`, `encodeBlock_zeros`), so it
reads as 32 zeros, which are written as that block again. -/
theorem mxBlocksAreWritten : Obligations.MxBlocksAreWritten := by
  refine ⟨fun f codes c => ⟨blockValues_nanScale f codes, blockValues_scaled f codes⟩, decode_mxi8,
    fun topnote vs modes c hc => codes_mxi8 hc, ?_⟩
  rintro f topnote vs modes b hf hlen rfl hscale
  refine ⟨encodeBlock_of_codes_zero hlen hscale, encodeBlock_zeros hf hlen, fun hcodes => ?_⟩
  have hzero : ∀ c ∈ (encodeBlock f topnote vs modes).codes, (f.decode c).isZero = true := by
    intro c hc
    rw [hcodes] at hc
    rw [List.eq_of_mem_replicate hc]
    exact decode_zero hf
  obtain ⟨hs, hc⟩ := encodeBlock_of_codes_zero hlen hscale hzero
  rw [hs, hc]
  exact (encodeBlock_zeros hf (by simp [blockValues]) (blockValues_zeros hf)).symm

end Sys2Proof.Machine

/-! PROOFS. The order of choice (spec 06): R196 to R198. A choice is ranked by its score as an extended real, its tie key and its
expert; `better` is the strict order of these ranks, and `topK` the head of the list sorted by them. -/

namespace Sys2Proof.Machine

/-! ### Tie keys differ (R104, R196) -/

theorem xorShift_injective {w k : Nat} (hk : 0 < k) : Function.Injective (fun z : BitVec w => z ^^^ (z >>> k)) := by
  intro x y hxy
  -- the difference of `x` and `y` is its own right shift, so it is 0
  have hshift : x ^^^ y = (x ^^^ y) >>> k := by
    rw [BitVec.ushiftRight_xor_distrib, ← BitVec.xor_eq_zero_iff]
    calc (x ^^^ y) ^^^ (x >>> k ^^^ y >>> k) = (x ^^^ x >>> k) ^^^ (y ^^^ y >>> k) := by ac_rfl
      _ = 0#w := BitVec.xor_eq_zero_iff.2 hxy
  have hdiv : (x ^^^ y).toNat = (x ^^^ y).toNat / 2 ^ k := by
    simpa [Nat.shiftRight_eq_div_pow] using congrArg BitVec.toNat hshift
  have hzero : (x ^^^ y).toNat = 0 := by
    by_contra hpos
    exact absurd hdiv (Nat.div_lt_self (Nat.pos_of_ne_zero hpos) (Nat.one_lt_two_pow hk.ne')).ne'
  exact BitVec.xor_eq_zero_iff.1 (BitVec.eq_of_toNat_eq (by simpa using hzero))

/-- The multipliers of R104 and R196 have inverses. -/
theorem mulConst_injective {c : Word} (d : Word) (hcd : c * d = 1) : Function.Injective (fun z : Word => z * c) :=
  (IsUnit.of_mul_eq_one d hcd).mul_left_injective

theorem mix64_injective : Function.Injective mix64 :=
  (xorShift_injective (by decide)).comp <|
    (mulConst_injective (c := 0x94D049BB133111EB#64) 0x319642B2D24D8EC3#64 (by decide)).comp <|
    (xorShift_injective (by decide)).comp <|
    (mulConst_injective (c := 0xBF58476D1CE4E5B9#64) 0x96DE1B173F119089#64 (by decide)).comp <|
    xorShift_injective (by decide)

/-- R196: the tie keys of two experts of a token differ. -/
theorem tieKey_ne (key : Word) {x y : Nat} (hx : x < 65536) (hy : y < 65536) (hxy : x ≠ y) : tieKey key x ≠ tieKey key y := by
  intro htie
  have hmul := (BitVec.xor_right_inj key).1 (mix64_injective (BitVec.eq_of_toNat_eq htie))
  have hword : BitVec.ofNat 64 x = BitVec.ofNat 64 y :=
    mulConst_injective (c := 0x9E3779B97F4A7C15#64) 0xF1DE83E19937733D#64 (by decide) hmul
  have := congrArg BitVec.toNat hword
  simp only [BitVec.toNat_ofNat] at this
  omega

/-! ### Scores as extended reals (R109, R197) -/

/-- The real number that a sign, a magnitude and an exponent stand for. -/
noncomputable def numValue (neg : Bool) (mag : Nat) (exp : Int) : ℝ := (if neg then -(mag : ℝ) else mag) * 2 ^ exp

/-- The place of a score among the extended reals; a NaN has none, and 0 stands in. -/
noncomputable def Val.toEReal : Val → EReal
  | .nan => 0
  | .inf neg => if neg then ⊥ else ⊤
  | .num neg mag exp => numValue neg mag exp

theorem sumTerm_mul_zpow {low exp : Int} (h : low ≤ exp) (neg : Bool) (mag : Nat) :
    (sumTerm low neg mag exp : ℝ) * 2 ^ low = numValue neg mag exp := by
  have hpow : (2 : ℝ) ^ (exp - low).toNat * 2 ^ low = 2 ^ exp := by
    rw [← zpow_natCast, ← zpow_add₀ two_ne_zero]
    congr 1
    omega
  cases neg <;> simp [sumTerm, numValue, ← hpow, mul_assoc]

theorem sumTerm_lt_iff {low ae be : Int} (ha : low ≤ ae) (hb : low ≤ be) (an bn : Bool) (am bm : Nat) :
    sumTerm low an am ae < sumTerm low bn bm be ↔ numValue an am ae < numValue bn bm be := by
  have hpos : (0 : ℝ) < 2 ^ low := zpow_pos two_pos low
  rw [← sumTerm_mul_zpow ha, ← sumTerm_mul_zpow hb, mul_lt_mul_iff_left₀ hpos, Int.cast_lt]

/-- R109, R197: the order of scores is that of the extended reals. -/
theorem lt_iff_toEReal_lt {v w : Val} (hv : v.isNan = false) (hw : w.isNan = false) :
    v.lt w = true ↔ v.toEReal < w.toEReal := by
  cases v with
  | nan => cases hv
  | inf a =>
    cases w with
    | nan => cases hw
    | inf b => cases a <;> cases b <;> simp [Val.lt, Val.toEReal]
    | num => cases a <;> simp [Val.lt, Val.toEReal]
  | num an am ae =>
    cases w with
    | nan => cases hw
    | inf b => cases b <;> simp [Val.lt, Val.toEReal]
    | num bn bm be => simp [Val.lt, Val.toEReal, sumTerm_lt_iff]

/-- R109: +0 and -0 are equal. -/
theorem lt_of_isZero {v w : Val} (hv : v.isZero = true) (hw : w.isZero = true) : v.lt w = false := by
  obtain ⟨vn, ve, rfl⟩ := eq_num_of_isZero hv
  obtain ⟨wn, we, rfl⟩ := eq_num_of_isZero hw
  simp [Val.lt, sumTerm]

/-- R197: +∞ is above every finite score and -∞ below. -/
theorem lt_inf_of_isFinite {v : Val} (hv : v.isFinite = true) : v.lt (.inf false) = true ∧ (Val.inf true).lt v = true ∧
    (Val.inf false).lt v = false ∧ v.lt (.inf true) = false := by
  cases v with
  | num => simp [Val.lt]
  | nan => cases hv
  | inf => cases hv

/-! ### The order of choice (R197) -/

theorem better_iff (key : Word) (a b : Scored) :
    better key a b = true ↔ b.score.lt a.score = true ∨ (a.score.lt b.score = false ∧
      (tieKey key a.expert < tieKey key b.expert ∨ (tieKey key a.expert = tieKey key b.expert ∧ a.expert < b.expert))) := by
  unfold better
  split
  · simp [*]
  · split
    · simp [*]
    · split
      · simp [*]
      · simp_all

/-- R197: the rank of a choice: its score, higher before lower, then its tie key, then its expert. -/
noncomputable def choiceRank (key : Word) (a : Scored) : ERealᵒᵈ ×ₗ ℕ ×ₗ ℕ :=
  toLex (OrderDual.toDual a.score.toEReal, toLex (tieKey key a.expert, a.expert))

section
variable {key : Word} {a b : Scored}

theorem expert_eq_of_choiceRank_eq (h : choiceRank key a = choiceRank key b) : a.expert = b.expert :=
  congrArg (fun r => (ofLex (ofLex r).2).2) h

/-- R197: `better` is the strict order of the ranks. -/
theorem better_iff_choiceRank_lt (ha : a.score.isNan = false) (hb : b.score.isNan = false) :
    better key a b = true ↔ choiceRank key a < choiceRank key b := by
  rw [better_iff, ← Bool.not_eq_true, lt_iff_toEReal_lt hb ha, lt_iff_toEReal_lt ha hb]
  simp only [choiceRank, Prod.Lex.toLex_lt_toLex, OrderDual.toDual_lt_toDual, OrderDual.toDual_inj]
  rcases lt_trichotomy b.score.toEReal a.score.toEReal with hlt | heq | hgt
  · simp [hlt]
  · simp [heq]
  · simp [hgt, hgt.ne]

theorem better_eq_false_iff (ha : a.score.isNan = false) (hb : b.score.isNan = false) :
    better key a b = false ↔ choiceRank key b ≤ choiceRank key a := by
  rw [← Bool.not_eq_true, better_iff_choiceRank_lt ha hb, not_lt]

/-- R197: of the choices of two experts just one is better. -/
theorem better_eq_not_better (ha : a.score.isNan = false) (hb : b.score.isNan = false) (hne : a.expert ≠ b.expert) :
    better key a b = !better key b a := by
  have hrank : choiceRank key a ≠ choiceRank key b := fun h => hne (expert_eq_of_choiceRank_eq h)
  rw [Bool.eq_iff_iff, Bool.not_eq_true', better_iff_choiceRank_lt ha hb, better_eq_false_iff hb ha]
  exact hrank.le_iff_lt.symm

end

/-! ### Insertion into a sorted list -/

section
variable {α : Type} {le : α → α → Bool}

theorem insertBy_eq_orderedInsert (a : α) (l : List α) : insertBy le a l = l.orderedInsert (fun x y => le x y = true) a := by
  induction l with
  | nil => rfl
  | cons b l ih => simp [insertBy, ih]

theorem insertBy_perm (a : α) (l : List α) : (insertBy le a l).Perm (a :: l) := by
  rw [insertBy_eq_orderedInsert]
  exact List.perm_orderedInsert _ a l

/-- The first `k` elements after an insertion depend on the first `k` before it alone. -/
theorem take_insertBy_take (a : α) (k : Nat) (l : List α) :
    (insertBy le a (l.take k)).take k = (insertBy le a l).take k := by
  induction l generalizing k with
  | nil => simp
  | cons b l ih =>
    cases k with
    | zero => rfl
    | succ k =>
      by_cases h : le a b = true
      · cases k <;> simp [insertBy, h, List.take_take]
      · simp [insertBy, h, ih]

theorem insertBy_pairwise_le {β : Type} [LinearOrder β] (f : α → β) {a : α} {l : List α}
    (hle : ∀ b ∈ l, le a b = true ↔ f a < f b) (hl : l.Pairwise (fun x y => f x ≤ f y)) :
    (insertBy le a l).Pairwise (fun x y => f x ≤ f y) := by
  induction l with
  | nil => exact List.pairwise_singleton _ a
  | cons b l ih =>
    obtain ⟨hb, htail⟩ := List.pairwise_cons.1 hl
    by_cases h : le a b = true
    · have hab : f a ≤ f b := ((hle b List.mem_cons_self).1 h).le
      rw [insertBy, if_pos h]
      exact List.pairwise_cons.2 ⟨List.forall_mem_cons.2 ⟨hab, fun y hy => hab.trans (hb y hy)⟩, hl⟩
    · have hba : f b ≤ f a := not_lt.1 (fun hlt => h ((hle b List.mem_cons_self).2 hlt))
      rw [insertBy, if_neg h]
      refine List.pairwise_cons.2 ⟨fun y hy => ?_, ih (fun c hc => hle c (List.mem_cons_of_mem b hc)) htail⟩
      rcases List.mem_cons.1 ((insertBy_perm a l).mem_iff.1 hy) with rfl | hy
      · exact hba
      · exact hb y hy

end

/-! ### The choices of a token (R198) -/

/-- The scored experts that are not NaN, best first: those of `l` inserted one by one into `best`. -/
def insertChoices (key : Word) (best l : List Scored) : List Scored :=
  (l.filter (fun x => !x.score.isNan)).foldl (fun best x => insertBy (better key) x best) best

/-- A token's choices in R197's order. -/
def rankedChoices (key : Word) (l : List Scored) : List Scored := insertChoices key [] l

section
variable {key : Word} {k : Nat} {best l : List Scored} {x y : Scored}

theorem insertChoices_cons_nan (hx : x.score.isNan = true) : insertChoices key best (x :: l) = insertChoices key best l := by
  simp [insertChoices, hx]

theorem insertChoices_cons (hx : x.score.isNan = false) :
    insertChoices key best (x :: l) = insertChoices key (insertBy (better key) x best) l := by
  simp [insertChoices, hx]

/-- R200: keeping the best `k` seen so far gives the best `k` of all. -/
theorem foldl_take_eq_take_insertChoices :
    l.foldl (fun best x => if x.score.isNan then best else (insertBy (better key) x best).take k) (best.take k) =
      (insertChoices key best l).take k := by
  induction l generalizing best with
  | nil => rfl
  | cons x l ih =>
    rw [List.foldl_cons]
    cases hx : x.score.isNan with
    | true => rw [if_pos rfl, ih, insertChoices_cons_nan hx]
    | false => rw [if_neg Bool.false_ne_true, take_insertBy_take, ih, insertChoices_cons hx]

theorem topK_eq_take_rankedChoices (key : Word) (k : Nat) (l : List Scored) : topK key k l = (rankedChoices key l).take k := by
  simpa [topK, rankedChoices] using foldl_take_eq_take_insertChoices (best := [])

theorem insertChoices_perm : (insertChoices key best l).Perm (l.filter (fun x => !x.score.isNan) ++ best) := by
  induction l generalizing best with
  | nil => rfl
  | cons x l ih =>
    cases hx : x.score.isNan with
    | true => simpa [insertChoices_cons_nan hx, hx] using ih
    | false =>
      rw [insertChoices_cons hx, List.filter_cons_of_pos (by simp [hx])]
      exact ih.trans (((insertBy_perm x best).append_left _).trans List.perm_middle)

theorem insertChoices_sorted (hnan : ∀ x ∈ best, x.score.isNan = false)
    (hbest : best.Pairwise (fun x y => choiceRank key x ≤ choiceRank key y)) :
    (insertChoices key best l).Pairwise (fun x y => choiceRank key x ≤ choiceRank key y) := by
  induction l generalizing best with
  | nil => exact hbest
  | cons x l ih =>
    cases hx : x.score.isNan with
    | true => simpa [insertChoices_cons_nan hx] using ih hnan hbest
    | false =>
      rw [insertChoices_cons hx]
      refine ih (fun y hy => ?_) ?_
      · rcases List.mem_cons.1 ((insertBy_perm x best).mem_iff.1 hy) with rfl | hy
        · exact hx
        · exact hnan y hy
      · exact insertBy_pairwise_le _ (fun b hb => better_iff_choiceRank_lt hx (hnan b hb)) hbest

theorem rankedChoices_perm : (rankedChoices key l).Perm (l.filter (fun x => !x.score.isNan)) := by
  simpa [rankedChoices] using insertChoices_perm (best := [])

theorem isNan_of_mem_rankedChoices (hx : x ∈ rankedChoices key l) : x.score.isNan = false := by
  simpa using (List.mem_filter.1 (rankedChoices_perm.mem_iff.1 hx)).2

theorem mem_rankedChoices_of_mem_topK (hx : x ∈ topK key k l) : x ∈ rankedChoices key l :=
  List.mem_of_mem_take (topK_eq_take_rankedChoices key k l ▸ hx)

/-- R197, R198: of two ranked choices the later is not better. -/
theorem rankedChoices_pairwise : (rankedChoices key l).Pairwise (fun x y => better key y x = false) :=
  (insertChoices_sorted (by simp) List.Pairwise.nil).imp_of_mem fun hx hy hle =>
    (better_eq_false_iff (isNan_of_mem_rankedChoices hy) (isNan_of_mem_rankedChoices hx)).2 hle

theorem length_topK : (topK key k l).length = min k (l.filter (fun x => !x.score.isNan)).length := by
  rw [topK_eq_take_rankedChoices, List.length_take, rankedChoices_perm.length_eq]

theorem count_rankedChoices (hx : x.score.isNan = false) : (rankedChoices key l).count x = l.count x := by
  rw [rankedChoices_perm.count_eq, List.count_filter (by simp [hx])]

theorem count_topK_le : (topK key k l).count x ≤ l.count x :=
  calc (topK key k l).count x ≤ (rankedChoices key l).count x := by
        rw [topK_eq_take_rankedChoices]
        exact (List.take_sublist k _).count_le x
    _ = (l.filter (fun x => !x.score.isNan)).count x := rankedChoices_perm.count_eq x
    _ ≤ l.count x := List.filter_sublist.count_le x

/-- R198: the choices stand best first. -/
theorem topK_pairwise : (topK key k l).Pairwise (fun x y => better key y x = false) := by
  rw [topK_eq_take_rankedChoices]
  exact rankedChoices_pairwise.sublist (List.take_sublist k _)

/-- R198: a scored expert that is left out is not better than one that is chosen: it stands among the ranked choices after the
first `k`. -/
theorem better_eq_false_of_left_out (hx : x.score.isNan = false) (hcount : (topK key k l).count x < l.count x)
    (hy : y ∈ topK key k l) : better key x y = false := by
  rw [topK_eq_take_rankedChoices] at hcount hy
  have hsplit : ((rankedChoices key l).take k).count x + ((rankedChoices key l).drop k).count x = l.count x := by
    rw [← List.count_append, List.take_append_drop, count_rankedChoices hx]
  have hdrop : x ∈ (rankedChoices key l).drop k := List.count_pos_iff.1 (by omega)
  have hpair := rankedChoices_pairwise (key := key) (l := l)
  rw [← List.take_append_drop k (rankedChoices key l)] at hpair
  exact (List.pairwise_append.1 hpair).2.2 y hy x hdrop

end

/-- Settles O11: `better` is the strict order of the ranks of choices (`better_iff_choiceRank_lt`), and `topK` is the head of the
list sorted by them (`topK_eq_take_rankedChoices`). -/
theorem bestChoicesAreKept : Obligations.BestChoicesAreKept := by
  refine ⟨fun key a b ha hb => ⟨better_iff key a b, better_eq_not_better ha hb⟩, fun key x y => tieKey_ne key,
    fun v w => ⟨lt_of_isZero, lt_inf_of_isFinite⟩, ?_⟩
  rintro key k l best rfl
  exact ⟨length_topK, fun x => count_topK_le, fun x hx => isNan_of_mem_rankedChoices (mem_rankedChoices_of_mem_topK hx),
    topK_pairwise, fun x _ hx hcount y hy => better_eq_false_of_left_out hx hcount hy⟩

end Sys2Proof.Machine

/-! PROOFS. Atomics (spec 12): R411, R412. The new values follow from what the bits of each type stand for. That `ATOM_SAT` counts
saturation alone goes through what an access does on its way: no part of it touches a counter outside `accessFields`, and what it reads
before it writes is the old value. -/

namespace Sys2Proof.Machine

/-! ### The operations, their types and their new values (R412) -/

theorem atomListed_iff (op t : Nat) : atomListed op t = true ↔
    (op, t) ∈ [(1, 0), (1, 1), (1, 2), (2, 0), (2, 1), (3, 0), (3, 1), (3, 2), (3, 3), (3, 4), (4, 0), (4, 1), (4, 2), (4, 3),
      (4, 4), (5, 0), (5, 1)] := by
  unfold atomListed
  split <;> simp_all <;> omega

section
variable {w t : Nat}

theorem atomVal_signed (ht : t ≤ 1) (hw : 8 * atomWidth t = w) (a : BitVec w) : atomVal t a.toNat = a.toInt := by
  subst hw
  rw [atomVal, if_pos ht, signExt_toNat]

theorem atomVal_unsigned (ht : 1 < t) (v : Nat) : atomVal t v = v := if_neg ht.not_ge

/-- R107: a signed integer saturates at the ends of its type. -/
theorem atomInt_signed (ht : t ≤ 1) (hw : 8 * atomWidth t = w) {top : Int} (htop : top = 2 ^ (w - 1)) (v : Int) :
    atomInt t v = ((BitVec.ofInt w (max (-top) (min (top - 1) v))).toNat, decide (v < -top ∨ top ≤ v)) := by
  have hpos : 0 < top := htop ▸ by positivity
  simp only [atomInt, hw, if_pos ht, BitVec.toNat_ofInt, Nat.cast_pow, Nat.cast_ofNat, ← htop, Prod.mk.injEq, true_and,
    decide_eq_decide]
  omega

theorem atomNew_min (ht : t ≠ 2) (old operand compare : Nat) :
    atomNew 3 t old operand compare = (if atomVal t operand < atomVal t old then operand else old, false) := by
  simp [atomNew, ht, apply_ite (Prod.mk · false)]

theorem atomNew_max (ht : t ≠ 2) (old operand compare : Nat) :
    atomNew 4 t old operand compare = (if atomVal t old < atomVal t operand then operand else old, false) := by
  simp [atomNew, ht, apply_ite (Prod.mk · false)]

theorem signedAtomics_of_width (ht : t ≤ 1) (hw : 8 * atomWidth t = w) : signedAtomics w t := by
  have ht2 : t ≠ 2 := by omega
  intro a b c top htop
  refine ⟨?add, ?compareSwap, ?min, ?max, rfl⟩
  case add => simp [atomNew, ht2, atomVal_signed ht hw, atomInt_signed ht hw htop]
  case compareSwap => simp [atomNew, BitVec.toNat_inj]
  case min => simp [atomNew_min ht2, atomVal_signed ht hw, BitVec.slt]
  case max => simp [atomNew_max ht2, atomVal_signed ht hw, BitVec.slt]

theorem unsignedAtomics_of_type (w : Nat) (ht : 2 < t) : unsignedAtomics w t := by
  have ht1 : 1 < t := by omega
  intro a b c
  constructor
  · simp [atomNew_min ht.ne', atomVal_unsigned ht1, BitVec.ult]
  · simp [atomNew_max ht.ne', atomVal_unsigned ht1, BitVec.ult]

end

section
variable {old operand : Nat} (compare : Nat)

/-- R88: FP32 `MIN` and `MAX` of a NaN. -/
theorem atomNew_fp32_of_nan (h : ((fp32.decode old).isNan || (fp32.decode operand).isNan) = true) :
    atomNew 3 2 old operand compare = (0x7FC00000, false) ∧ atomNew 4 2 old operand compare = (0x7FC00000, false) := by
  simp [atomNew, h]

/-- R109: FP32 `MIN` and `MAX` of two numbers or infinities. -/
theorem atomNew_fp32_of_not_nan (h : ((fp32.decode old).isNan || (fp32.decode operand).isNan) = false) :
    atomNew 3 2 old operand compare = (if (fp32.decode operand).lt (fp32.decode old) then operand else old, false) ∧
    atomNew 4 2 old operand compare = (if (fp32.decode old).lt (fp32.decode operand) then operand else old, false) := by
  simp [atomNew, h, apply_ite (Prod.mk · false)]

end

/-! ### `FATOMIC` refuses an entry at its source (R411) -/

theorem bitsOf_eq_zero_iff {v lo w : Nat} : bitsOf v lo w = 0 ↔ ∀ j < w, v.testBit (lo + j) = false := by
  unfold bitsOf
  constructor
  · intro h j hj
    simpa [Nat.testBit_mod_two_pow, Nat.testBit_shiftRight, hj] using congrArg (Nat.testBit · j) h
  · intro h
    refine Nat.zero_of_testBit_eq_false fun j => ?_
    simpa [Nat.testBit_mod_two_pow, Nat.testBit_shiftRight] using h j

theorem slotField_eq_zero_of_within {arg : BitVec 56} {lo w i k : Nat} (h : slotField arg lo w = 0) (hi : lo ≤ i)
    (hk : i + k ≤ lo + w) : slotField arg i k = 0 := by
  rw [slotField, bitsOf_eq_zero_iff] at *
  intro j hj
  simpa [← Nat.add_assoc, Nat.add_sub_cancel' hi] using h (i - lo + j) (by omega)

theorem find?_range_of_zero {n : Nat} {p : Nat → Bool} (hn : 0 < n) (h : p 0 = true) : (List.range n).find? p = some 0 := by
  obtain ⟨m, rfl⟩ := Nat.exists_eq_succ_of_ne_zero hn.ne'
  rw [List.range_succ_eq_map, List.find?_cons_of_pos h]

section
variable {s u : State} {op c n l r : Nat} {arg : BitVec 56} {b : List Byte}

theorem State.atomEntryOk_of_not_listed {e : List Byte} (h : atomListed (field e 8 1 % 16) (field e 8 1 / 16) = false) :
    s.atomEntryOk e = false := by
  simp [State.atomEntryOk, h]

theorem State.atomicFields_count_pos (h : s.atomicFields b = some (l, r, n)) : 0 < n := by
  unfold State.atomicFields at h
  split at h
  · split at h
    · cases h
    · next hbad =>
      cases h
      simp only [Bool.or_eq_true, decide_eq_true_eq] at hbad
      omega
  · cases h

/-- A list that nothing else refuses, with a bad first entry. -/
theorem State.planFab_fatomic_first_bad {d : Nat} (h8 : slotField arg 32 8 = 0) (h12 : slotField arg 40 12 = 0)
    (h1 : slotField arg 55 1 = 0) (hdesc : s.dieDescriptor d (slotField arg 0 32) = .ok b)
    (hroom : (s.fabQueue d (slotField arg 52 3)).length < 8) (hfields : s.atomicFields b = some (l, r, n))
    (hrange : s.rangesFault d [(l, 32 * n), (r, 16 * n)] = none) (hbad : s.atomEntryOk (s.readLocal l 32) = false) :
    s.planFab d 0x3F arg = .badMeta 2 l := by
  have hfind : (List.range n).find? (fun i => !s.atomEntryOk (s.readLocal (l + 32 * i) 32)) = some 0 :=
    find?_range_of_zero (State.atomicFields_count_pos hfields) (by simp [hbad])
  simp [State.planFab, h8, h12, h1, hdesc, Nat.not_le.2 hroom, hfields, hrange, hfind]

theorem State.slotAlone_of_awake {d : Nat} {units : List Nat} {plan : State → SlotPlan} {go : State → State}
    (hjob : s.job.state ≠ .held) (hwake : s.slotWaking d units plan = .from1 u c) :
    s.slotAlone d op units plan go = u.takeSlot d op c (plan u) go := by
  unfold State.slotWaking at hwake
  rw [State.slotAlone, if_neg hjob, hwake]

theorem exec_fatomic_eq (d : Fin 4) (arg : BitVec 56) (s : State) :
    exec (.fatomic d arg) s = .next (s.slotAlone d 0x3F [] (·.planFab d 0x3F arg) (·.joinFab d 0x3F arg)).settle := rfl

/-- R156, R411: `FATOMIC` refuses a list whose first entry is none of R412's pairs, with check code 2. -/
theorem exec_fatomic_first_not_listed {d : Fin 4} {e : List Byte} (hjob : s.job.state ≠ .held)
    (hwake : s.slotWaking d [] (·.planFab d 0x3F arg) = .from1 u c) (h20 : slotField arg 32 20 = 0) (h1 : slotField arg 55 1 = 0)
    (hdesc : u.dieDescriptor d (slotField arg 0 32) = .ok b) (hroom : (u.fabQueue d (slotField arg 52 3)).length < 8)
    (hfields : u.atomicFields b = some (l, r, n)) (hrange : u.rangesFault d [(l, 32 * n), (r, 16 * n)] = none)
    (he : e = u.readLocal l 32) (hlisted : atomListed (field e 8 1 % 16) (field e 8 1 / 16) = false) :
    exec (.fatomic d arg) s =
      .next (u.hold { kind := 3, die := d, check := 2, detail := leBytes 1 0x3F ++ leBytes 8 l }).settle := by
  have hplan : u.planFab d 0x3F arg = .badMeta 2 l :=
    State.planFab_fatomic_first_bad (slotField_eq_zero_of_within h20 (by decide) (by decide))
      (slotField_eq_zero_of_within h20 (by decide) (by decide)) h1 hdesc hroom hfields hrange
      (State.atomEntryOk_of_not_listed (he ▸ hlisted))
  rw [exec_fatomic_eq, State.slotAlone_of_awake hjob hwake, hplan]
  rfl

end

/-! ### What an access counts (R574) -/

/-- What every step of a fold keeps, the fold keeps. -/
theorem foldl_keeps {σ α β : Type} {f : σ → α → σ} (g : σ → β) (h : ∀ u a, g (f u a) = g u) (l : List α) (s : σ) :
    g (l.foldl f s) = g s :=
  List.foldlRecOn (motive := (g · = g s)) l f rfl fun u hu a _ => (h u a).trans hu

theorem ctrKey_field (kind index field : Nat) : ctrKey kind index field % 2 ^ 16 = field % 2 ^ 16 := by
  unfold ctrKey
  omega

theorem State.counter_count_same (s : State) (key : Nat) {k : Nat} (hk : k ≠ 0) :
    (s.count key k).counter key = satAdd 32 (s.counter key) k := by
  simp [State.count, State.counter, hk]

theorem State.counter_count_other (s : State) {i key : Nat} (k : Nat) (h : key ≠ i) : (s.count i k).counter key = s.counter key := by
  unfold State.count State.counter
  split
  · rfl
  · exact Tab.get_put_other _ _ _ _ _ h

theorem State.counter_of_same {s t : State} {fs : List Field} (h : sameBut fs s t) (hctr : Field.ctr ∉ fs) (key : Nat) :
    t.counter key = s.counter key :=
  congrArg (Tab.get 0 key) (h .ctr hctr)

/-- The fields of R574 that an access from another device may count, but for `ATOM_SAT`: flits of its link (R400), hits, misses and
write-backs of the partition (R308), owner refusals and misses (R408), atomics applied (R412), and wake-ups and the time in each power
state (R533, R551). -/
def accessFields : List Nat := [6, 38, 39, 40, 43, 44, 46, 0, 61, 62, 63, 64, 65]

section
variable {key : Nat} (hkey : key % 2 ^ 16 ∉ accessFields)
include hkey

theorem State.count_access_counter (s : State) {kind index field : Nat} (k : Nat) (hf : field % 2 ^ 16 ∈ accessFields) :
    (s.count (ctrKey kind index field) k).counter key = s.counter key := by
  refine s.counter_count_other k fun he => hkey ?_
  rwa [he, ctrKey_field]

theorem State.fillLine_counter (s : State) (d set : Nat) (ls : List PartLine) (l : PartLine) :
    (s.fillLine d set ls l).counter key = s.counter key := by
  unfold State.fillLine
  dsimp only
  split
  · split
    · exact State.count_access_counter hkey _ _ (by decide)
    · rfl
  · rfl

theorem State.touchLine_counter (s : State) (line hint : Nat) (write : Option (Nat × List Byte)) :
    (s.touchLine line hint write).counter key = s.counter key := by
  have hset : ∀ (u : State) set m, (u.setLines set m).counter key = u.counter key := fun _ _ _ => rfl
  have hhit : ∀ (u : State) d, (u.count (cCacheHit d) 1).counter key = u.counter key :=
    fun u d => State.count_access_counter hkey u 1 (by decide)
  have hmiss : ∀ (u : State) d, (u.count (cCacheMiss d) 1).counter key = u.counter key :=
    fun u d => State.count_access_counter hkey u 1 (by decide)
  have hwb : ∀ (u : State) d, (u.count (cCacheWb d) 1).counter key = u.counter key :=
    fun u d => State.count_access_counter hkey u 1 (by decide)
  -- every branch counts in fields of the partition and sets the lines of one set
  unfold State.touchLine
  dsimp only
  split <;> split <;> simp only [hset, apply_ite (State.counter · key), hwb, hhit, hmiss, State.fillLine_counter hkey, ite_self]

theorem State.touchRead_counter (s : State) (h len hint : Nat) : (s.touchRead h len hint).counter key = s.counter key := by
  unfold State.touchRead
  split
  · rfl
  · exact foldl_keeps (State.counter · key) (fun u _ => State.touchLine_counter hkey u _ _ _) _ s

theorem State.noteRead_counter (s : State) (a len hint : Nat) : (s.noteRead a len hint).counter key = s.counter key := by
  refine foldl_keeps (State.counter · key) (fun u p => ?_) _ s
  dsimp only
  split
  · split
    · exact State.touchRead_counter hkey u _ _ _
    · exact State.touchRead_counter hkey u _ _ _
  · rfl

theorem State.lookOwners_counter (s : State) (d : Nat) (w : Access4) (a len : Nat) :
    (s.lookOwners d w a len).counter key = s.counter key := by
  unfold State.lookOwners
  split
  · rfl
  · rfl
  · refine foldl_keeps (State.counter · key) (fun u line => ?_) _ s
    dsimp only
    split
    · rfl
    · exact (State.noteRead_counter hkey _ _ _ _).trans (State.count_access_counter hkey _ _ (by decide))

theorem State.writeHbm_counter (s : State) (h hint : Nat) (bs : List Byte) : (s.writeHbm h hint bs).counter key = s.counter key := by
  change (s.touchWrite h hint bs).counter key = s.counter key
  unfold State.touchWrite
  split
  · rfl
  · exact foldl_keeps (fun p : State × List Byte => p.1.counter key) (fun p _ => State.touchLine_counter hkey p.1 _ _ _) _ (s, bs)

theorem State.writePiece_counter (s : State) (a hint : Nat) (bs : List Byte) :
    (s.writePiece a hint bs).counter key = s.counter key := by
  refine Eq.trans ?_ (State.counter_of_same (State.dropOwnerLines_same s a bs.length) (by decide) key)
  unfold State.writePiece
  dsimp only
  split
  · rfl
  · split
    · exact State.writeHbm_counter hkey _ _ _ _
    · exact State.writeHbm_counter hkey _ _ _ _
  · rfl

theorem State.writeLocal_counter (s : State) (a hint : Nat) (bs : List Byte) :
    (s.writeLocal a hint bs).counter key = s.counter key :=
  foldl_keeps (fun p : State × List Byte => p.1.counter key) (fun p _ => State.writePiece_counter hkey p.1 _ _ _) _ (s, bs)

theorem State.wakeKey_counter (s : State) (k : Nat) : (s.wakeKey k).counter key = s.counter key := by
  unfold State.wakeKey
  split
  · rfl
  · next t since _ =>
    have hf : (61 + min t 4) % 2 ^ 16 ∈ accessFields := by
      simp only [accessFields, List.mem_cons]
      omega
    exact State.count_access_counter hkey s _ hf

theorem State.wakeDie_counter (s : State) (d : Nat) : (s.wakeDie d).counter key = s.counter key := by
  unfold State.wakeDie
  split
  · exact (State.counter_of_same (State.refreshAlone_same _ d false) (by decide) key).trans (State.wakeKey_counter hkey s _)
  · rfl

theorem State.wakeRegion_counter (s : State) (r : Nat) : (s.wakeRegion r).counter key = s.counter key :=
  (State.wakeKey_counter hkey _ _).trans (State.wakeDie_counter hkey s _)

theorem State.wakeCluster_counter (s : State) (n : Nat) : (s.wakeCluster n).counter key = s.counter key := by
  refine (State.wakeKey_counter hkey _ _).trans ?_
  unfold State.wakeAround
  split
  · exact State.wakeRegion_counter hkey s _
  · rfl

theorem State.wakeUp_counter (s : State) (k : Nat) : (s.wakeUp k).counter key = s.counter key := by
  unfold State.wakeUp
  dsimp only
  split
  · exact (State.wakeKey_counter hkey _ _).trans (State.wakeCluster_counter hkey s _)
  · exact State.wakeCluster_counter hkey s _
  · exact State.wakeRegion_counter hkey s _
  · exact State.wakeDie_counter hkey s _
  · exact (State.wakeKey_counter hkey _ _).trans (State.wakeCluster_counter hkey s _)
  · exact (State.wakeKey_counter hkey _ _).trans (State.wakeDie_counter hkey s _)

theorem State.count_wakeCounter_counter (s : State) (k : Nat) : (s.count (wakeCounter k) 1).counter key = s.counter key := by
  unfold wakeCounter
  split <;> exact State.count_access_counter hkey s 1 (by decide)

theorem State.accessKey_counter (s : State) (k : Nat) : (s.accessKey k).counter key = s.counter key := by
  unfold State.accessKey
  dsimp only
  split
  · split
    · exact (State.count_wakeCounter_counter hkey _ _).trans (State.wakeUp_counter hkey s k)
    · exact State.wakeUp_counter hkey s k
  · rfl

theorem State.wakeRanges_counter (s : State) (rs : List (Nat × Nat)) : (s.wakeRanges rs).counter key = s.counter key := by
  unfold State.wakeRanges
  split
  · rfl
  · exact foldl_keeps (State.counter · key) (State.accessKey_counter hkey) _ s

theorem State.linked_counter (s : State) (p : Pkt) : (s.linked p).counter key = s.counter key := by
  unfold State.linked
  split
  · rfl
  · exact State.count_access_counter hkey _ _ (by decide)

end

/-! ### What an access leaves to be read -/

theorem State.place_congr {s t : State} (hjob : t.job = s.job) (hfence : t.fence = s.fence)
    (hpage : ∀ p, t.serves (t.page p) = s.serves (s.page p) ∧ (t.page p).frame = (s.page p).frame) (a : Nat) :
    t.place a = s.place a := by
  have hfenced : ∀ f, t.fenced f = s.fenced f := fun f => by rw [State.fenced, hfence, State.fenced]
  have hcluster : ∀ n, t.clusterFenced n = s.clusterFenced n := fun n => by simp only [State.clusterFenced, hfenced]
  have hcanopy : ∀ a, t.canopyPlace a = s.canopyPlace a := fun a => by
    simp only [State.canopyPlace, State.segmentAt, hjob, hfenced, (hpage _).1, (hpage _).2]
  have hwindow : ∀ d w, t.windowPlace d w = s.windowPlace d w := fun d w => by
    simp only [State.windowPlace, hcluster, hfenced, hjob]
  simp only [State.place, hcanopy, hwindow]

theorem State.readLocal_congr {s t : State} (hplace : ∀ a, t.place a = s.place a) (hsram : t.sram = s.sram) (hhbm : t.hbm = s.hbm)
    (a len : Nat) : t.readLocal a len = s.readLocal a len := by
  have hbytes : t.bytesAt = s.bytesAt := by
    funext p n
    simp only [State.bytesAt, hsram, hhbm]
  simp only [State.readLocal, hplace, hbytes]

/-- The members that the place and the bytes of a local address rest on. -/
def readFields : List Field := [.clk, .sram, .hbm, .job, .fence, .und]

theorem State.readLocal_of_same {s t : State} {fs : List Field} (h : sameBut fs s t) (hfs : ∀ f ∈ readFields, f ∉ fs) (a len : Nat) :
    t.readLocal a len = s.readLocal a len := by
  have hclk : t.clk = s.clk := h .clk (hfs _ (by decide))
  have hund : t.und = s.und := h .und (hfs _ (by decide))
  have hplace : ∀ b, t.place b = s.place b :=
    State.place_congr (h .job (hfs _ (by decide))) (h .fence (hfs _ (by decide))) fun p => by
      simp only [State.serves, State.page, State.cc, hclk, hund, and_self]
  exact State.readLocal_congr hplace (h .sram (hfs _ (by decide))) (h .hbm (hfs _ (by decide))) a len

/-- R326: a read notes the use of a page, which serves as before. -/
theorem State.page_usePage_read (s : State) (q p : Nat) :
    ((s.usePage q false).page p).state = (s.page p).state ∧ ((s.usePage q false).page p).fresh = (s.page p).fresh ∧
    ((s.usePage q false).page p).frame = (s.page p).frame := by
  by_cases hpq : p = q
  · subst hpq
    simp [State.usePage, State.page, State.setPage]
  · simp [State.usePage, State.page, State.setPage, Tab.get_put_other _ _ _ _ _ hpq]

theorem State.readLocal_usePage_read (s : State) (q a len : Nat) : (s.usePage q false).readLocal a len = s.readLocal a len := by
  have hplace : ∀ b, (s.usePage q false).place b = s.place b := by
    refine State.place_congr rfl rfl fun p => ?_
    obtain ⟨hstate, hfresh, hframe⟩ := s.page_usePage_read q p
    exact ⟨by simp only [State.serves, hstate, hfresh]; rfl, hframe⟩
  exact State.readLocal_congr hplace rfl rfl a len

theorem State.readLocal_noteRead (s : State) (b n hint a len : Nat) : (s.noteRead b n hint).readLocal a len = s.readLocal a len := by
  refine foldl_keeps (State.readLocal · a len) (fun u p => ?_) _ s
  have htouch : ∀ h, (u.touchRead h p.2 hint).readLocal a len = u.readLocal a len :=
    fun h => State.readLocal_of_same (u.touchRead_same h p.2 hint) (by decide) a len
  dsimp only
  split
  · split
    · exact (State.readLocal_usePage_read _ _ _ _).trans (htouch _)
    · exact htouch _
  · rfl

theorem State.readLocal_lookOwners (s : State) (d : Nat) (w : Access4) (b n a len : Nat) :
    (s.lookOwners d w b n).readLocal a len = s.readLocal a len := by
  unfold State.lookOwners
  split
  · rfl
  · rfl
  · refine foldl_keeps (State.readLocal · a len) (fun u line => ?_) _ s
    dsimp only
    split
    · rfl
    · exact (State.readLocal_noteRead _ _ _ _ _ _).trans (State.readLocal_of_same (State.count_same _ _ _) (by decide) a len)

/-! ### Delivery (R385) -/

/-- R361, R400: the arrival on a port changes counters and what the ports hold. -/
theorem State.exists_linked_eq (s : State) (p : Pkt) :
    ∃ c v, s.linked p = { s with ctr := c, fab := { s.fab with ports := v } } := by
  have hcount : ∀ (u : State) key k, ∃ c, u.count key k = { u with ctr := c } := by
    intro u key k
    unfold State.count
    split
    · exact ⟨_, rfl⟩
    · exact ⟨_, rfl⟩
  unfold State.linked
  split
  · exact ⟨_, _, rfl⟩
  · next q _ =>
    obtain ⟨c, hc⟩ := hcount (s.setFab { s.fab with
      ports := Tab.put q.val { (Tab.get {} q.val s.fab.ports) with waitReplay := none } s.fab.ports }) (cFlitRx q) p.flits
    exact ⟨c, _, hc⟩

theorem State.fromLink_of_arrives {s : State} {p : Pkt} (h : s.arrives p) (f : State → State) : s.fromLink p f = f (s.linked p) := by
  cases hvia : p.via with
  | none => simp only [State.fromLink, State.linked, hvia]
  | some q => simp only [State.fromLink, State.linked, hvia, h q hvia, Bool.not_true, Bool.false_eq_true, if_false]

theorem State.deliver_of_delivers {s : State} {p : Pkt} {typ die : Nat} {ok : Bool} (h : s.delivers p typ die ok)
    (f : State → State) : s.deliver p typ die ok f = f (s.linked p) := by
  obtain ⟨harrives, haddressed, htransit, hcheck, hfence, hfloor⟩ := h
  obtain ⟨c, v, hl⟩ := s.exists_linked_eq p
  have haddressed' : (s.linked p).addressed p = true := by rw [hl]; exact haddressed
  have htransit' : (s.linked p).power.transit = false := by rw [hl]; exact htransit
  have hcheck' : (s.linked p).checkPkt p typ ok = .pass := by rw [hl]; exact hcheck
  have hfence' : (s.linked p).routerFenced die = false := by rw [hl]; exact hfence
  have hfloor' : (s.linked p).belowFloor p = false := by rw [hl]; exact hfloor
  rw [State.deliver, State.fromLink_of_arrives harrives]
  simp [haddressed', htransit', hcheck', hfence', hfloor']

/-! ### An atomic that its unit allows (R411 to R414) -/

theorem State.replay_router_enqueue (s : State) (d a e : Nat) : ((s.enqueue d a).router e).replay = (s.router e).replay := by
  by_cases he : e = d
  · subst he
    simp [State.enqueue, State.router]
  · simp [State.enqueue, State.router, Tab.get_put_other _ _ _ _ _ he]

theorem State.replayed_enqueue (s : State) (d a : Nat) (p : Pkt) : (s.enqueue d a).replayed p = s.replayed p := by
  simp only [State.replayed, State.replay_router_enqueue]
  rfl

/-- R33, R377, R408: the state in which an allowed atomic is applied: it stands in the queue of its die, its owner entry is looked up,
and its memory is awake. -/
def State.atomicAccess (s : State) (p : Pkt) : State :=
  ((s.enqueue (s.deliveryDie (pktAddr p)) (pktAddr p)).lookOwners (s.deliveryDie (pktAddr p)) (.atomic p.src.toNat)
    (pktAddr p / 32 * 32) 32).wakeRanges [(pktAddr p / 32 * 32, 32)]

/-- R411: the value before an atomic. -/
def State.atomicOld (s : State) (p : Pkt) : Nat := leNat (s.readLocal (pktAddr p) (atomWidth (field p.body 0 1 / 16)))

/-- R412: the new value that an atomic gives, and whether it saturates. -/
def State.atomicResult (s : State) (p : Pkt) : Nat × Bool :=
  atomNew (field p.body 0 1 % 16) (field p.body 0 1 / 16) (s.atomicOld p) (field p.body 8 (atomWidth (field p.body 0 1 / 16)))
    (field p.body 16 (atomWidth (field p.body 0 1 / 16)))

/-- R412, R414: the new value is written, the atomic and its saturation are counted at the die, and the replay cache, which had room
as `l`, takes the request. -/
def State.atomicApplied (s : State) (p : Pkt) (d : Nat) (l : List (Nat × Nat × Nat × Nat)) : State :=
  let t := (s.writeLocal (pktAddr p) 0 (leBytes (atomWidth (field p.body 0 1 / 16)) (s.atomicResult p).1)).count (cAtomApplied d) 1
  let u := if (s.atomicResult p).2 then t.count (cAtomSat d) 1 else t
  u.setRouter d { u.router d with replay := (replayKey p, 0, s.atomicOld p, u.cc) :: l }

theorem State.atomicOld_atomicAccess (s : State) (p : Pkt) : (s.atomicAccess p).atomicOld p = s.atomicOld p := by
  have hread : ∀ a n, (s.atomicAccess p).readLocal a n = s.readLocal a n := fun a n =>
    (State.readLocal_of_same (State.wakeRanges_same _ _) (by decide) a n).trans ((State.readLocal_lookOwners _ _ _ _ _ a n).trans
      (State.readLocal_of_same (State.setFab_same s _) (by decide) a n))
  rw [State.atomicOld, hread, State.atomicOld]

theorem State.atomicResult_atomicAccess (s : State) (p : Pkt) : (s.atomicAccess p).atomicResult p = s.atomicResult p := by
  rw [State.atomicResult, State.atomicOld_atomicAccess, State.atomicResult]

section
variable {s : State} {p : Pkt} {l : List (Nat × Nat × Nat × Nat)}

/-- A new request that its unit allows is applied, recorded and answered with the old value. -/
theorem State.performAtomic_of_allowed (hqueue : s.queueFull (s.deliveryDie (pktAddr p)) = false) (hnew : s.replayed p = none)
    (hroom : replayRoom s.cc (s.router (s.deliveryDie (pktAddr p))).replay = some l) (hok : atomReqOk p = true)
    (hstatus : s.accessStatus (.atomic p.src.toNat) (pktAddr p / 32 * 32) 32 = 0) :
    s.performAtomic p = ((s.atomicAccess p).atomicApplied p (s.deliveryDie (pktAddr p)) l).sendReply p tAtomicReply 0 32
      (leBytes 8 (s.atomicOld p)) := by
  rw [← State.atomicOld_atomicAccess]
  unfold State.performAtomic
  extract_lets a d r op t w st
  have hnew' : r.replayed p = none := (s.replayed_enqueue d a p).trans hnew
  have hroom' : replayRoom r.cc (r.router d).replay = some l := by
    rw [State.replay_router_enqueue]
    exact hroom
  rw [if_neg (by simp [d, a, hqueue])]
  split
  · next h => cases hnew'.symm.trans h
  · split
    · next h => cases hroom'.symm.trans h
    · next h =>
      cases hroom'.symm.trans h
      have hst : st = 0 := (if_pos hok).trans hstatus
      clear_value st
      subst hst
      rfl

theorem cAtomSat_field_not_mem (d : Nat) : cAtomSat d % 2 ^ 16 ∉ accessFields := by
  rw [cAtomSat, cDie, ctrKey_field]
  decide

/-- R412: `ATOM_SAT` counts an atomic that saturates, and no other. -/
theorem State.atomicApplied_counter_sat (s : State) (p : Pkt) (d : Nat) (l : List (Nat × Nat × Nat × Nat)) :
    (s.atomicApplied p d l).counter (cAtomSat d) =
      if (s.atomicResult p).2 = true then satAdd 32 (s.counter (cAtomSat d)) 1 else s.counter (cAtomSat d) := by
  have hkey := cAtomSat_field_not_mem d
  have hwritten : ∀ a bs, ((s.writeLocal a 0 bs).count (cAtomApplied d) 1).counter (cAtomSat d) = s.counter (cAtomSat d) :=
    fun a bs => (State.count_access_counter hkey _ _ (by decide)).trans (State.writeLocal_counter hkey s a 0 bs)
  have hrouter : ∀ (u : State) (x : Router), (u.setRouter d x).counter (cAtomSat d) = u.counter (cAtomSat d) := fun _ _ => rfl
  rw [State.atomicApplied, hrouter]
  split
  · rw [State.counter_count_same _ _ one_ne_zero, hwritten]
  · exact hwritten _ _

theorem State.atomicAccess_counter_sat (s : State) (p : Pkt) (d : Nat) :
    (s.atomicAccess p).counter (cAtomSat d) = s.counter (cAtomSat d) :=
  (State.wakeRanges_counter (cAtomSat_field_not_mem d) _ _).trans (State.lookOwners_counter (cAtomSat_field_not_mem d) _ _ _ _ _)

theorem exec_atomicReq_eq (p : Pkt) (s : State) : exec (.atomicReq p) s =
    .next (s.deliver p tAtomicReq (s.deliveryDie (pktAddr p)) (s.tagMatches p) (fun s => s.performAtomic p)).settle := rfl

/-- R411 to R414: a delivered request that is new and allowed is answered with the old value, and `ATOM_SAT` of its die counts its
saturation. -/
theorem exec_atomicReq_of_allowed (hdelivers : s.delivers p tAtomicReq (s.deliveryDie (pktAddr p)) (s.tagMatches p))
    (hqueue : s.queueFull (s.deliveryDie (pktAddr p)) = false) (hnew : s.replayed p = none)
    (hroom : replayRoom s.cc (s.router (s.deliveryDie (pktAddr p))).replay = some l) (hok : atomReqOk p = true)
    (hstatus : s.accessStatus (.atomic p.src.toNat) (pktAddr p / 32 * 32) 32 = 0) :
    ∃ t : State, exec (.atomicReq p) s = .next (t.sendReply p tAtomicReply 0 32 (leBytes 8 (s.atomicOld p))).settle ∧
      t.counter (cAtomSat (s.deliveryDie (pktAddr p))) =
        if (s.atomicResult p).2 = true then satAdd 32 (s.counter (cAtomSat (s.deliveryDie (pktAddr p)))) 1
        else s.counter (cAtomSat (s.deliveryDie (pktAddr p))) := by
  obtain ⟨c, v, hl⟩ := s.exists_linked_eq p
  have hdie : (s.linked p).deliveryDie (pktAddr p) = s.deliveryDie (pktAddr p) := by rw [hl]; rfl
  have hold : (s.linked p).atomicOld p = s.atomicOld p := by rw [hl]; rfl
  have hresult : (s.linked p).atomicResult p = s.atomicResult p := by rw [hl]; rfl
  have hperform := State.performAtomic_of_allowed (s := s.linked p) (p := p) (l := l) (by rw [hl]; exact hqueue)
    (by rw [hl]; exact hnew) (by rw [hl]; exact hroom) hok (by rw [hl]; exact hstatus)
  rw [hdie, hold] at hperform
  refine ⟨_, by rw [exec_atomicReq_eq, State.deliver_of_delivers hdelivers, hperform], ?_⟩
  rw [State.atomicApplied_counter_sat, State.atomicResult_atomicAccess, hresult, State.atomicAccess_counter_sat,
    State.linked_counter (cAtomSat_field_not_mem _)]

end

/-- Settles O38: the new values of integers are those of `atomVal` (`signedAtomics_of_width`, `unsignedAtomics_of_type`), `FATOMIC`
refuses by its plan (`exec_fatomic_first_not_listed`), and no other counter of an access is `ATOM_SAT` (`exec_atomicReq_of_allowed`). -/
theorem atomicResults : Obligations.AtomicResults := by
  refine ⟨atomListed_iff, ?refused, signedAtomics_of_width (by decide) rfl, signedAtomics_of_width (by decide) rfl,
    unsignedAtomics_of_type 32 (by decide), unsignedAtomics_of_type 64 (by decide), ?fp32, ?saturation⟩
  case refused =>
    intro s u d arg b e l r n c
    exact exec_fatomic_first_not_listed
  case fp32 =>
    rintro a b c x y rfl rfl
    exact ⟨rfl, atomNew_fp32_of_nan c.toNat, atomNew_fp32_of_not_nan c.toNat⟩
  case saturation =>
    rintro s p a d op ty old l rfl rfl rfl rfl hdelivers hqueue hnew hroom hok hstatus rfl
    exact exec_atomicReq_of_allowed hdelivers hqueue hnew hroom hok hstatus

end Sys2Proof.Machine

/-! PROOFS. The machine as a whole: what a step runs, what settling leaves (R461, R478, R571), and what a hold of the job stops
(R480, R488). -/

namespace Sys2Proof.Machine

/-! ### Steps -/

/-- Settles O3: each arm of `exec` is `done` of its meaning. -/
theorem everyCommandAnswers : Obligations.EveryCommandAnswers := by
  intro c s
  cases c <;> exact ⟨_, rfl⟩

theorem step_of_pending {s : State} {c : Instr} {rest : List Instr} (h : s.pending = c :: rest) :
    step s = exec c { s with pending := rest } := by
  unfold step
  split
  · next e => cases e.symm.trans h
  · next e =>
    cases e.symm.trans h
    rfl

theorem step_of_idle {s : State} (h : s.pending = []) : step s = .next (s.reach (s.cc + 1)) := by
  unfold step
  split
  · rfl
  · next e => cases e.symm.trans h

/-- Settles O1. -/
theorem stepRunsFront : Obligations.StepRunsFront := fun _ _ _ h => step_of_pending h

/-- Settles O2. -/
theorem idleStep : Obligations.IdleStep := fun _ h => step_of_idle h

/-- A step lets one cycle pass, or ends in the settling of some state. -/
theorem step_cases {s t : State} (h : step s = .next t) : t = s.reach (s.cc + 1) ∨ ∃ u : State, t = u.settle := by
  match hp : s.pending with
  | [] =>
    rw [step_of_idle hp] at h
    exact .inl (Host.Outcome.next.inj h).symm
  | c :: rest =>
    obtain ⟨u, hu⟩ := everyCommandAnswers c { s with pending := rest }
    rw [step_of_pending hp, hu] at h
    exact .inr ⟨u, (Host.Outcome.next.inj h).symm⟩

/-! ### Settling: vectors that leave (R461) -/

/-- The host unit of the second state is that of the first, less some pending vectors. -/
structure State.vectorsLeft (s t : State) : Prop where
  host : { t.host with pba := s.host.pba } = s.host
  pending : ∀ v, t.host.pba.getLsbD v = true → s.host.pba.getLsbD v = true

theorem State.vectorsLeft.of_host_eq {s t : State} (h : t.host = s.host) : s.vectorsLeft t :=
  ⟨by rw [h], fun v => by rw [h]; exact id⟩

theorem State.vectorsLeft.trans {s t u : State} (h : s.vectorsLeft t) (k : t.vectorsLeft u) : s.vectorsLeft u :=
  ⟨(congrArg (fun x : HostUnit => { x with pba := s.host.pba }) k.host).trans h.host, fun v hv => h.pending v (k.pending v hv)⟩

theorem State.vectorsLeft.maySend {s t : State} (h : s.vectorsLeft t) (v : Nat) : t.maySend v = s.maySend v := by
  have hmask := congrArg HostUnit.irqMask h.host
  have hpcie := congrArg HostUnit.pcie h.host
  have htable := congrArg HostUnit.msixTable h.host
  exact State.maySend_congr hmask hpcie htable v

theorem State.flushVector_left (s : State) (v : Nat) : s.vectorsLeft (s.flushVector v) := by
  refine ⟨?_, fun w hw => ((State.flushVector_due s v w).2 hw).1⟩
  unfold State.flushVector State.sendVector
  split
  · split <;> rfl
  · rfl

/-- After the turns of some vectors none of them is pending that may leave. -/
theorem State.foldl_flushVector (l : List Nat) (s : State) :
    s.vectorsLeft (l.foldl State.flushVector s) ∧
      ∀ v ∈ l, (l.foldl State.flushVector s).host.pba.getLsbD v = true → s.maySend v = false := by
  induction l generalizing s with
  | nil => exact ⟨.of_host_eq rfl, by simp⟩
  | cons a l ih =>
    obtain ⟨hleft, hdue⟩ := ih (s.flushVector a)
    refine ⟨(s.flushVector_left a).trans hleft, fun v hv hp => ?_⟩
    rcases List.mem_cons.1 hv with rfl | hv
    · exact ((State.flushVector_due s v v).2 (hleft.pending v hp)).2 rfl
    · rw [← (s.flushVector_left a).maySend v]
      exact hdue v hv hp

theorem State.flushVectors_noVectorDue (s : State) : s.flushVectors.noVectorDue := fun v hv hp => by
  obtain ⟨hleft, hdue⟩ := State.foldl_flushVector (List.range 38) s
  rw [State.flushVectors, hleft.maySend]
  exact hdue v (List.mem_range.2 hv) hp

theorem State.settle_noVectorDue (s : State) : s.settle.noVectorDue := State.flushVectors_noVectorDue _

/-- Settles O5: settling gives every pending vector its turn (`foldl_flushVector`), and idle time changes no vector. -/
theorem noVectorStaysDue : Obligations.NoVectorStaysDue := by
  intro s t hs hstep
  rcases step_cases hstep with rfl | ⟨u, rfl⟩
  · exact hs
  · exact u.settle_noVectorDue

/-! ### Settling: holds (R478) -/

/-- The state that settling tells the sensors of: the job is held if a function of its used set is fenced. -/
def State.heldForFences (s : State) : State :=
  if s.mustHold then
    s.hold { kind := 12, check := 1
             func := ((List.range 116).find? (fun f => (s.fence.fenced &&& s.fence.used).getLsbD f)).getD 0xFF }
  else s

theorem State.settle_eq (s : State) : s.settle = s.heldForFences.tellSensors.flushVectors := rfl

theorem State.heldForFences_of_not_mustHold {s : State} (h : s.mustHold = false) : s.heldForFences = s := by
  simp [State.heldForFences, h]

theorem State.mustHold_of_held {s : State} (h : s.job.state = .held) : s.mustHold = false := by
  rw [State.mustHold, h]
  rfl

theorem State.heldForFences_heldIfFenced (s : State) : s.heldForFences.heldIfFenced := by
  unfold State.heldForFences
  split
  · next h => exact State.mustHold_of_held (State.hold_state _ _ (Bool.and_eq_true_iff.1 h).1)
  · next h => exact eq_false_of_ne_true h

theorem State.settle_heldIfFenced (s : State) : s.settle.heldIfFenced := by
  have htold := (State.tellSensors_same s.heldForFences).weaken (gs := [.ranger, .tx, .host]) (by simp)
  have hflushed := (State.flushVectors_same s.heldForFences.tellSensors).weaken (gs := [.ranger, .tx, .host]) (by simp)
  have hsame := htold.trans hflushed
  exact (State.mustHold_congr (hsame .job (by simp)) (hsame .fence (by simp))).trans s.heldForFences_heldIfFenced

/-- Settles O4: settling holds a job whose used set has a fenced function, and idle time changes neither the job nor a fence. -/
theorem fencedJobsAreHeld : Obligations.FencedJobsAreHeld := by
  intro s t hs hstep
  rcases step_cases hstep with rfl | ⟨u, rfl⟩
  · exact hs
  · exact u.settle_heldIfFenced

/-- Settles O8: without a hold, settling tells the sensors, which leaves the host unit, and lets vectors leave. -/
theorem settleFrame : Obligations.SettleFrame := by
  intro s hs
  have htold : s.vectorsLeft s.tellSensors := .of_host_eq (State.tellSensors_same s .host (by simp))
  have hleft : s.vectorsLeft s.settle := by
    rw [State.settle_eq, State.heldForFences_of_not_mustHold hs]
    exact htold.trans (State.foldl_flushVector _ _).1
  exact ⟨State.settle_same s hs, hleft.host, hleft.pending⟩

/-! ### Reset -/

/-- Settles O6. -/
theorem resetMeetsInvariants : Obligations.ResetMeetsInvariants := by
  refine ⟨rfl, fun v _ hv => ?_, rfl, rfl⟩
  have hpba : State.reset.host.pba = 0 := rfl
  rw [hpba] at hv
  simp at hv

/-- Settles O7: the reset state is closed, so each reading evaluates. -/
theorem readSpan_resetRegisters : Obligations.ResetRegisters := by
  unfold Obligations.ResetRegisters
  decide +kernel

/-! ### What a hold stops (R480, R488) -/

/-- A cluster on which nothing is in progress. -/
def State.clusterStopped (s : State) (n : Nat) : Prop := (s.cluster n).ops = [] ∧ (s.cluster n).item = none

theorem State.dropClusterOps_clusterStopped_same (s : State) (n : Nat) : (s.dropClusterOps n).clusterStopped n := by
  simp [State.clusterStopped, State.dropClusterOps]

theorem State.dropClusterOps_keeps_clusterStopped {s : State} {m : Nat} (h : s.clusterStopped m) (n : Nat) : (s.dropClusterOps n).clusterStopped m := by
  by_cases hmn : m = n
  · exact hmn ▸ s.dropClusterOps_clusterStopped_same n
  · have hland := State.landFold_cluster ClusterOp.effects (s.cluster n).ops s m
    unfold State.clusterStopped State.dropClusterOps
    rw [State.cluster_setCluster_other _ _ _ _ hmn]
    exact ⟨hland.1.trans h.1, hland.2.trans h.2⟩

theorem State.foldl_dropClusterOps_clusterStopped {l : List Nat} {s : State} {n : Nat} (h : n ∈ l ∨ s.clusterStopped n) :
    (l.foldl State.dropClusterOps s).clusterStopped n := by
  induction l generalizing s with
  | nil => exact h.resolve_left (by simp)
  | cons a l ih =>
    apply ih
    rcases h with h | h
    · rcases List.mem_cons.1 h with rfl | h
      · exact .inr (s.dropClusterOps_clusterStopped_same n)
      · exact .inl h
    · exact .inr (State.dropClusterOps_keeps_clusterStopped h a)

theorem Tab.find_eq_none {V : Type} {k : Nat} {m : Tab V} (h : k ∉ m.map (·.1)) : Tab.find k m = none := by
  induction m with
  | nil => rfl
  | cons p m ih =>
    obtain ⟨j, v⟩ := p
    rw [List.map_cons, List.mem_cons, not_or] at h
    rw [Tab.find, if_neg (Ne.symm h.1), ih h.2]

theorem Tab.find_map {V W : Type} (f : V → W) (k : Nat) (m : Tab V) :
    Tab.find k (m.map (fun p => (p.1, f p.2)) : Tab W) = (Tab.find k m).map f := by
  induction m with
  | nil => rfl
  | cons p m ih =>
    obtain ⟨j, v⟩ := p
    rw [List.map_cons, Tab.find, Tab.find, ih]
    split <;> rfl

theorem State.clusterStopped_of_unlisted {s : State} {n : Nat} (h : n ∉ s.clusters.map (·.1)) : s.clusterStopped n := by
  unfold State.clusterStopped State.cluster Tab.get
  rw [Tab.find_eq_none h]
  exact ⟨rfl, rfl⟩

theorem State.dropSillageOps_cluster (s : State) (d n : Nat) :
    ((s.dropSillageOps d).cluster n).ops = (s.cluster n).ops ∧ ((s.dropSillageOps d).cluster n).item = (s.cluster n).item :=
  State.landFold_cluster SillOp.effects _ s n

theorem State.foldl_dropSillageOps_clusterStopped {s : State} {n : Nat} (h : s.clusterStopped n) (l : List Nat) :
    (l.foldl State.dropSillageOps s).clusterStopped n := by
  induction l generalizing s with
  | nil => exact h
  | cons d l ih =>
    obtain ⟨hops, hitem⟩ := s.dropSillageOps_cluster d n
    exact ih ⟨hops.trans h.1, hitem.trans h.2⟩

theorem State.abandon_clusterStopped (s : State) (n : Nat) : s.abandon.clusterStopped n := by
  have hdropped : ((s.clusters.map (·.1)).foldl State.dropClusterOps s).clusterStopped n := by
    apply State.foldl_dropClusterOps_clusterStopped
    by_cases h : n ∈ s.clusters.map (·.1)
    · exact .inl h
    · exact .inr (State.clusterStopped_of_unlisted h)
  have hsill := State.foldl_dropSillageOps_clusterStopped hdropped
    ((((s.clusters.map (·.1)).foldl State.dropClusterOps s)).sill.map (·.1))
  obtain ⟨hops, hitem⟩ := State.landFold_cluster CopyOp.effects _ _ n
  exact ⟨hops.trans hsill.1, hitem.trans hsill.2⟩

/-- A sequencer on which no window is open and no `SYNC` waits. -/
def State.seqStopped (s : State) (d : Nat) : Prop := (s.seq d).window = none ∧ (s.seq d).sync = none

/-- A sequencer, as a hold leaves it. -/
def Seq.stop (q : Seq) : Seq := { q with window := none, sync := none }

theorem State.abandon_seqStopped (s : State) (d : Nat) : s.abandon.seqStopped d := by
  have hstop : ∃ m : Tab Seq, s.abandon.seqs = m.map (fun p : Nat × Seq => (p.1, p.2.stop)) := ⟨_, rfl⟩
  obtain ⟨m, hm⟩ := hstop
  unfold State.seqStopped State.seq Tab.get
  rw [hm, Tab.find_map Seq.stop]
  cases Tab.find d m <;> exact ⟨rfl, rfl⟩

theorem State.record_head? (s : State) (r : FaultRec) :
    (s.record r).fence.ring.head? = some { r with fseq := s.fence.fseq, tick := s.tick.count.toNat, time := s.time } := rfl

/-- Settles O9: `hold` abandons what is in progress, then records the event with the action bit, then changes the job. -/
theorem holdStopsTheJob : Obligations.HoldStopsTheJob := by
  intro s r h
  have hafter := State.hold_after s r h
  have hrecord := State.record_same s.abandon { r with action := r.action ||| 1 }
  have habandon := s.abandon_same
  have hcopies : (s.hold r).copies = [] := hafter .copies (by simp)
  have hfab : (s.hold r).fab = s.abandon.fab := hafter .fab (by simp)
  have hclusters : (s.hold r).clusters = s.abandon.clusters := hafter .clusters (by simp)
  have hseqs : (s.hold r).seqs = s.abandon.seqs := hafter .seqs (by simp)
  have hring := congrArg (fun f : FenceUnit => f.ring.head?) (hafter .fence (by simp))
  have hfence : s.abandon.fence = s.fence := habandon .fence (by decide)
  have htick : s.abandon.tick = s.tick := habandon .tick (by decide)
  have hclk : s.abandon.clk = s.clk := habandon .clk (by decide)
  refine ⟨State.hold_state s r h, hcopies, by rw [hfab]; rfl, fun n => ?_, fun d => ?_,
    _, hring.trans (State.record_head? _ _), rfl, rfl, rfl, rfl, rfl, rfl, rfl, by rw [hfence], by rw [htick], ?_⟩
  · rw [State.cluster, hclusters]
    exact s.abandon_clusterStopped n
  · rw [State.seq, hseqs]
    exact s.abandon_seqStopped d
  · rw [State.time, hclk, State.time]

end Sys2Proof.Machine

/-! PROOFS. What writes leave in memory, in the accumulator and in a core's registers (R50, R123, R142, R143, R596). -/

namespace Sys2Proof.Machine

/-! ### Writes that land (R50, R596) -/

theorem State.setSram_memoryWf {s : State} (hs : s.memoryWf) {m : List Host.Cell} (hm : Memory.wf m = true) : (s.setSram m).memoryWf :=
  ⟨hm, hs.2⟩

theorem State.setSram_putBlock_memoryWf {s : State} (hs : s.memoryWf) (a : Nat) (bs : List Byte) :
    (s.setSram (putBlock zeroByte a bs s.sram)).memoryWf := State.setSram_memoryWf hs (Memory.wf_putBlock _ _ _ hs.1)

theorem State.sramByte_setSram_putBlock {s : State} (hs : s.memoryWf) (a : Nat) (bs : List Byte) (x : Nat) :
    (s.setSram (putBlock zeroByte a bs s.sram)).sramByte x =
      if a ≤ x ∧ x < a + bs.length then bs.getD (x - a) zeroByte else s.sramByte x :=
  cellAt_putBlock zeroByte a x bs s.sram hs.1

theorem State.apply_memoryWf {s : State} (hs : s.memoryWf) (e : Eff) : (s.apply e).memoryWf := by
  cases e with
  | sram a bs => exact State.setSram_putBlock_memoryWf hs a bs
  | mem a hint bs => exact State.writeLocal_wf s a hint bs hs
  | touch a len hint => exact State.memoryWf_of_same (State.noteRead_same s a len hint) (by simp) (by simp) hs
  | acc n idx vals => exact State.memoryWf_of_same (State.setCluster_same _ _ _) (by simp) (by simp) hs
  | accMark n slot int => exact State.memoryWf_of_same (State.setCluster_same _ _ _) (by simp) (by simp) hs
  | count key k => exact State.memoryWf_of_same (State.count_same s key k) (by simp) (by simp) hs
  | addCounter a admits drops => exact State.setSram_putBlock_memoryWf hs a _
  | collDst n cdesc dst => exact State.memoryWf_of_same (State.bindDst_same s n cdesc dst) (by simp) (by simp) hs
  | post n cdesc bs => exact State.memoryWf_of_same (State.contribute_same s n cdesc bs) (by simp) (by simp) hs
  | postAcc n cdesc mask len dfmt =>
    exact State.memoryWf_of_same (State.contribute_same _ _ _ _) (by simp) (by simp)
      (State.memoryWf_of_same ((State.count_same _ _ _).trans (State.count_same _ _ _)) (by simp) (by simp) hs)

theorem State.applyAll_memoryWf {s : State} (hs : s.memoryWf) (es : List Eff) : (s.applyAll es).memoryWf := by
  unfold State.applyAll
  induction es generalizing s with
  | nil => exact hs
  | cons e es ih => exact ih (State.apply_memoryWf hs e)

/-- Settles O16. -/
theorem landedBytes : Obligations.LandedBytes := by
  refine ⟨fun s a bs hs => ⟨State.apply_memoryWf hs _, fun x => ?_, fun x => rfl⟩, fun s es hs => State.applyAll_memoryWf hs es⟩
  exact State.sramByte_setSram_putBlock hs a bs x

/-! ### Stores within a page (R146) -/

/-- A range within one page is one piece. -/
theorem pieces_of_within_page {a len : Nat} (hlen : 0 < len) (h : a % pageSize + len ≤ pageSize) : pieces a len = [(a, len)] := by
  have hmin : min len (pageSize - a % pageSize) = len := by omega
  rw [pieces, piecesAux, if_neg (by omega)]
  simp only [hmin, Nat.sub_self, List.cons.injEq, true_and]
  rw [piecesAux, if_pos rfl]

theorem State.writeLocal_of_within_page (s : State) {a : Nat} (hint : Nat) {bs : List Byte} (hlen : 0 < bs.length)
    (h : a % pageSize + bs.length ≤ pageSize) : s.writeLocal a hint bs = s.writePiece a hint bs := by
  rw [State.writeLocal, pieces_of_within_page hlen h]
  simp

theorem State.place_of_same {s t : State} {fs : List Field} (h : sameBut fs s t) (hfs : ∀ f ∈ [Field.clk, .job, .fence, .und], f ∉ fs)
    (a : Nat) : t.place a = s.place a := by
  have hclk : t.clk = s.clk := h .clk (hfs _ (by decide))
  have hund : t.und = s.und := h .und (hfs _ (by decide))
  exact State.place_congr (h .job (hfs _ (by decide))) (h .fence (hfs _ (by decide)))
    (fun p => by simp only [State.serves, State.page, State.cc, hclk, hund, and_self]) a

/-- A piece that leads to on-chip memory is written there, after the owner lines that it drops. -/
theorem State.writePiece_of_sram {s : State} {a b : Nat} (hint : Nat) (bs : List Byte) (h : s.place a = .sram b) :
    s.writePiece a hint bs = (s.dropOwnerLines a bs.length).setSram (putBlock zeroByte b bs (s.dropOwnerLines a bs.length).sram) := by
  have hplace := (State.place_of_same (State.dropOwnerLines_same s a bs.length) (by decide) a).trans h
  unfold State.writePiece
  dsimp only
  rw [hplace]

/-- Settles O22: such a store is one piece (`writeLocal_of_within_page`), and the owner lines that it drops are no memory. -/
theorem storedBytes : Obligations.StoredBytes := by
  intro s a b hint bs hs hlen hpage hplace
  have hdrop := State.dropOwnerLines_same s a bs.length
  have hwf := State.memoryWf_of_same hdrop (by simp) (by simp) hs
  rw [State.writeLocal_of_within_page s hint hlen hpage, State.writePiece_of_sram hint bs hplace]
  refine ⟨fun x => ?_, fun x => congrArg (cellAt zeroByte x) (hdrop .hbm (by simp))⟩
  rw [State.sramByte_setSram_putBlock hwf]
  exact congrArg (fun m => if b ≤ x ∧ x < b + bs.length then bs.getD (x - b) zeroByte else cellAt zeroByte x m) (hdrop .sram (by simp))

/-! ### The end of an operation (R50, R142, R598) -/

theorem State.setLanded_same (s : State) (x : Landed) : sameBut [.landed] s { s with landed := x } := by
  intro f hf
  cases f <;> simp [Field.same] at hf ⊢

theorem State.landRanked_same (s : State) (agents rank : Nat) (es : List Eff) :
    sameBut [.sram, .hbm, .clusters, .coll, .ctr, .parts, .und, .fab, .landed] s (s.landRanked agents rank es) := by
  unfold State.landRanked
  exact sameBut.after (State.setLanded_same _ _) (by simp) ((State.applyAll_same s _).weaken (by simp))

theorem State.landRanked_cluster (s : State) (agents rank : Nat) (es : List Eff) (m : Nat) :
    ((s.landRanked agents rank es).cluster m).ops = (s.cluster m).ops ∧
      ((s.landRanked agents rank es).cluster m).cores = (s.cluster m).cores ∧
      ((s.landRanked agents rank es).cluster m).item = (s.cluster m).item := State.applyAll_cluster s _ m

theorem State.hideFrom_same (s : State) (n : Nat) (es : List Eff) : sameBut [.sill] s (s.hideFrom n es) := by
  unfold State.hideFrom
  dsimp only
  split
  · exact sameBut.refl _ _
  · intro f hf
    cases f <;> simp [Field.same] at hf ⊢

/-- The members that the landing of an operation's writes may change. -/
def landOpFields : List Field := [.sram, .hbm, .clusters, .coll, .ctr, .parts, .und, .fab, .sill, .landed]

theorem State.landOp_same (s : State) (n : Nat) (o : ClusterOp) : sameBut landOpFields s (s.landOp n o) := by
  have hhide := (s.hideFrom_same n o.effects).weaken (gs := landOpFields) (by decide)
  unfold State.landOp
  dsimp only
  split
  · exact hhide.trans ((State.landRanked_same _ _ _ _).weaken (by decide))
  · exact hhide.trans ((State.applyAll_same _ _).weaken (by decide))

theorem State.landOp_cluster (s : State) (n : Nat) (o : ClusterOp) (m : Nat) :
    ((s.landOp n o).cluster m).ops = (s.cluster m).ops ∧ ((s.landOp n o).cluster m).cores = (s.cluster m).cores ∧
      ((s.landOp n o).cluster m).item = (s.cluster m).item := by
  have hhide := State.cluster_of_same (s.hideFrom_same n o.effects) (by simp) m
  unfold State.landOp
  dsimp only
  split
  · rw [← hhide]
    exact State.landRanked_cluster _ _ _ _ m
  · rw [← hhide]
    exact State.applyAll_cluster _ _ m

theorem State.endOp_of_no_coll {s : State} {n k : Nat} {o : ClusterOp} (hop : (s.cluster n).ops[k]? = some o)
    (hcoll : o.waitColl = none) : s.endOp n k = ((s.reach o.due).landOp n o).setOp n k none := by
  unfold State.endOp
  simp only [hop, hcoll]

/-! ### Two vector operations that end in one cycle (R142) -/

theorem length_overlay {a : Nat} {bs : List Byte} {w : LandedWrite} : (overlay a bs w).length = bs.length := by
  unfold overlay
  dsimp only
  split
  · rfl
  · simp only [List.length_append, List.length_take, List.length_drop]
    omega

/-- Where two writes meet the overlay has the other's bytes. -/
theorem getD_overlay {a : Nat} {bs : List Byte} {w : LandedWrite} {x : Nat} (h1 : a ≤ x) (h2 : x < a + bs.length) (h3 : w.addr ≤ x)
    (h4 : x < w.addr + w.bytes.length) : (overlay a bs w).getD (x - a) zeroByte = w.bytes.getD (x - w.addr) zeroByte := by
  have htaken : (bs.take (max a w.addr - a)).length = max a w.addr - a := by
    rw [List.length_take]
    omega
  unfold overlay
  dsimp only
  rw [if_neg (by omega)]
  simp only [List.getD_eq_getElem?_getD]
  rw [List.getElem?_append_right (by omega), htaken, List.getElem?_append_left (by rw [List.length_take, List.length_drop]; omega),
    List.getElem?_take_of_lt (by omega), List.getElem?_drop]
  congr 2
  omega

theorem State.landRanked_alone {s : State} (h : s.landedNow = []) (agents rank a : Nat) (bs : List Byte) :
    s.landRanked agents rank [.sram a bs] =
      { s.setSram (putBlock zeroByte a bs s.sram) with landed := { cc := s.cc, writes := [⟨agents, rank, a, bs⟩] } } := by
  unfold State.landRanked
  rw [h]
  rfl

/-- R142: after a write of a higher rank, a write of a lower one is laid under it. -/
theorem State.landRanked_under {s : State} {agents rank k a b : Nat} {bs cs : List Byte}
    (h : s.landedNow = [⟨agents, rank, a, bs⟩]) (hk : k < rank) :
    (s.landRanked agents k [.sram b cs]).sram = putBlock zeroByte b (overlay b cs ⟨agents, rank, a, bs⟩) s.sram := by
  unfold State.landRanked
  rw [h]
  simp [hk, sortBy, insertBy, Eff.under, State.applyAll, State.apply]

theorem State.sramByte_landRanked_twice {s : State} {a b k rank x : Nat} {bs cs : List Byte} (hs : s.memoryWf)
    (hnow : s.landedNow = []) (hk : k < rank) (h1 : a ≤ x) (h2 : x < a + bs.length) :
    ((s.landRanked 1 rank [.sram a bs]).landRanked 1 k [.sram b cs]).sramByte x = bs.getD (x - a) zeroByte := by
  have hmem : Memory.wf (putBlock zeroByte a bs s.sram) = true := Memory.wf_putBlock _ _ _ hs.1
  have hfirst := State.landRanked_alone hnow 1 rank a bs
  have hunder := State.landRanked_under (s := s.landRanked 1 rank [.sram a bs]) (cs := cs) (b := b)
    (by rw [hfirst]; exact if_pos rfl) hk
  rw [hfirst] at hunder ⊢
  rw [State.sramByte, hunder]
  refine (cellAt_putBlock _ _ _ _ _ hmem).trans ?_
  rw [length_overlay]
  split
  · next hin => exact getD_overlay hin.1 hin.2 h1 h2
  · exact (cellAt_putBlock _ _ _ _ _ hs.1).trans (if_pos ⟨h1, h2⟩)

/-- Settles O15: the end of an operation that waits for no collective is its landing and its removal (`endOp_of_no_coll`). -/
theorem operationsEnd : Obligations.OperationsEnd := by
  refine ⟨fun s n k o hop hcoll => ?_, fun s k rank a b bs cs x hs hnow hk h1 h2 => State.sramByte_landRanked_twice hs hnow hk h1 h2⟩
  have hlanded := State.landOp_same (s.reach o.due) n o
  obtain ⟨hops, hcores, hitem⟩ := State.landOp_cluster (s.reach o.due) n o n
  have hexec : exec (.operationEnd n k) s = .next (s.endOp n k).wakeColl.settle := rfl
  rw [State.endOp_of_no_coll hop hcoll] at hexec
  refine ⟨_, _, rfl, hexec, ?_, ?_, ?_, rfl, rfl, ?_, ?_⟩
  · rw [State.setOp, State.cluster_setCluster, hops]
    rfl
  · rw [State.setOp, State.cluster_setCluster]
    exact hcores
  · rw [State.setOp, State.cluster_setCluster]
    exact hitem
  · exact congrArg Clock.cc (hlanded .clk (by decide))
  · exact sameBut.after (State.setCluster_same _ _ _) (by simp)
      (((State.reach_same s o.due).weaken (by simp)).trans (hlanded.weaken (by decide)))

/-! ### `ACC_ZERO` (R123, R131) -/

/-- A cluster with one accumulator slot cleared. -/
def Cluster.zeroSlot (c : Cluster) (k : Nat) : Cluster := (c.writeAcc (accIndex k 0) (List.replicate slotEntries 0)).mark k false

/-- The zeroing of the slots of a list is that of each in turn. -/
theorem State.applyAll_zeroing (s : State) (n : Nat) (l : List Nat) :
    let t := s.applyAll (l.flatMap (fun k => [.acc n (accIndex k 0) (List.replicate slotEntries 0), .accMark n k false]))
    t.cluster n = l.foldl Cluster.zeroSlot (s.cluster n) ∧ sameOtherClusters n s t ∧ sameBut [.clusters] s t := by
  induction l generalizing s with
  | nil => exact ⟨rfl, fun _ _ => rfl, sameBut.refl _ _⟩
  | cons k l ih =>
    have hone : (s.apply (.acc n (accIndex k 0) (List.replicate slotEntries 0))).apply (.accMark n k false) =
        s.setCluster n ((s.cluster n).zeroSlot k) := by
      simp only [State.apply, State.cluster_setCluster, State.setCluster_setCluster]
      rfl
    obtain ⟨hthis, hothers, hsame⟩ := ih (s.setCluster n ((s.cluster n).zeroSlot k))
    simp only [List.flatMap_cons, State.applyAll, List.cons_append, List.foldl_cons, List.nil_append, hone]
    refine ⟨hthis.trans (by rw [State.cluster_setCluster]), fun m hm => ?_, (State.setCluster_same _ _ _).trans hsame⟩
    exact (hothers m hm).trans (State.cluster_setCluster_other _ _ _ _ hm)

theorem Cluster.zeroSlot_wf {c : Cluster} (h : Cells.wf 0 c.acc = true) (k : Nat) : Cells.wf 0 (c.zeroSlot k).acc = true :=
  Cells.wf_putBlock 0 _ _ _ h

theorem Cluster.cellAt_zeroSlot {c : Cluster} (h : Cells.wf 0 c.acc = true) (j : Nat) {k e : Nat} (he : e < slotEntries) :
    cellAt 0 (accIndex k e) (c.zeroSlot j).acc = if k = j then 0 else cellAt 0 (accIndex k e) c.acc := by
  have hcell := cellAt_putBlock 0 (accIndex j 0) (accIndex k e) (List.replicate slotEntries 0) c.acc h
  unfold accIndex slotEntries at *
  refine hcell.trans ?_
  by_cases hkj : k = j
  · subst hkj
    rw [if_pos rfl, if_pos ⟨by omega, by rw [List.length_replicate]; omega⟩]
    exact List.getD_replicate _ (by omega)
  · rw [if_neg hkj, if_neg (by rw [List.length_replicate]; omega)]

theorem Cluster.isInt_zeroSlot (c : Cluster) (j : Nat) {k : Nat} (hk : k < 32) :
    (c.zeroSlot j).isInt k = (!decide (k = j) && c.isInt k) := by
  by_cases hkj : k = j
  · simp [Cluster.isInt, Cluster.zeroSlot, Cluster.mark, Cluster.writeAcc, hkj]
  · simp [Cluster.isInt, Cluster.zeroSlot, Cluster.mark, Cluster.writeAcc, hkj, hk]

theorem Cluster.foldl_zeroSlot {c : Cluster} (h : Cells.wf 0 c.acc = true) (l : List Nat) {k : Nat} (hk : k < 32) :
    (∀ e, e < slotEntries →
      cellAt 0 (accIndex k e) (l.foldl Cluster.zeroSlot c).acc = if k ∈ l then 0 else cellAt 0 (accIndex k e) c.acc) ∧
    (l.foldl Cluster.zeroSlot c).isInt k = (!decide (k ∈ l) && c.isInt k) := by
  induction l generalizing c with
  | nil => simp
  | cons j l ih =>
    obtain ⟨hcells, hint⟩ := ih (Cluster.zeroSlot_wf h j)
    refine ⟨fun e he => ?_, ?_⟩
    · rw [List.foldl_cons, hcells e he, Cluster.cellAt_zeroSlot h j he]
      by_cases hkl : k ∈ l <;> by_cases hkj : k = j <;> simp [hkl, hkj]
    · rw [List.foldl_cons, hint, Cluster.isInt_zeroSlot c j hk]
      by_cases hkj : k = j <;> simp [hkj]

theorem mem_maskBits {n mask k : Nat} : k ∈ maskBits n mask ↔ k < n ∧ mask.testBit k = true := by simp [maskBits]

/-- Settles O17: the effects clear the slots of the mask one by one (`applyAll_zeroing`, `foldl_zeroSlot`). -/
theorem accZeroClears : Obligations.AccZeroClears := by
  intro s n mask h
  obtain ⟨hthis, hothers, hsame⟩ := State.applyAll_zeroing s n (maskBits 32 mask)
  have hmem : ∀ k, k < 32 → (k ∈ maskBits 32 mask ↔ mask.testBit k = true) := fun k hk => by simp [mem_maskBits, hk]
  refine ⟨fun k e hk he => ?_, fun k hk => ?_, hothers, hsame⟩
  · refine (congrArg (fun c : Cluster => cellAt 0 (accIndex k e) c.acc) hthis).trans ?_
    rw [(Cluster.foldl_zeroSlot h _ hk).1 e he, if_congr (hmem k hk) rfl rfl]
  · refine (congrArg (Cluster.isInt · k) hthis).trans ?_
    have hdecide : decide (k ∈ maskBits 32 mask) = mask.testBit k := Bool.eq_iff_iff.2 (by simp [hmem k hk])
    rw [(Cluster.foldl_zeroSlot h _ hk).2, hdecide]

/-! ### Registers of a core (R143) -/

theorem Core.setReg_of_ne_zero (c : Core) {r : Nat} (v : Word) (h : r ≠ 0) : c.setReg r v = { c with regs := c.regs.set! r v } := if_neg h

theorem Core.reg_setReg (c : Core) {r q : Nat} (v : Word) (hr : r < 32) :
    (c.setReg r v).reg q = if q = 0 then 0 else if q = r then v else c.reg q := by
  by_cases hq : q = 0
  · rw [if_pos hq, Core.reg, if_pos hq]
  · rw [if_neg hq]
    by_cases hr0 : r = 0
    · rw [if_neg (by omega), Core.setReg, if_pos hr0]
    · rw [Core.setReg_of_ne_zero c v hr0, Core.reg, if_neg hq, Core.reg, if_neg hq]
      by_cases hqr : q = r
      · simp [Vector.getD, Array.getD_eq_getD_getElem?, hqr, hr]
      · simp [Vector.getD, Array.getD_eq_getD_getElem?, hqr, Ne.symm hqr]

theorem Core.setReg_frame (c : Core) (r : Nat) (v : Word) : (c.setReg r v).pc = c.pc ∧ (c.setReg r v).flags = c.flags ∧
    (c.setReg r v).outstanding = c.outstanding := by
  unfold Core.setReg
  split <;> exact ⟨rfl, rfl, rfl⟩

/-- Settles O18. -/
theorem registerZeroIgnoresWrites : Obligations.RegisterZeroIgnoresWrites := by
  intro c r q v hr _
  exact ⟨c.reg_setReg v hr, c.setReg_frame r v⟩

end Sys2Proof.Machine

/-! PROOFS. What a cluster operation's reading does at issue (R50, R160): each plan's effects at issue only count, note reads, bind a
destination and zero slots of its own accumulator. -/

namespace Sys2Proof.Machine

/-- A plan with no effect at issue. -/
theorem Plan.only_later {n : Nat} (u sl du : Nat) (eff : List Eff) (a : Bool) : (Plan.ok u sl du [] eff a).IssuesOnly n :=
  Plan.only_ok _ _ _ _ _ _ (nil_atIssue n)

theorem Plan.only_ite {n : Nat} {c : Prop} [Decidable c] {p q : Plan} (hp : p.IssuesOnly n) (hq : q.IssuesOnly n) :
    (if c then p else q).IssuesOnly n := by
  split
  · exact hp
  · exact hq

theorem Plan.only_bindsDst {n : Nat} (u sl du c d : Nat) (eff : List Eff) (a : Bool) :
    (Plan.ok u sl du [.collDst n c d] eff a).IssuesOnly n :=
  Plan.only_ok _ _ _ _ _ _ (List.forall_mem_singleton.2 rfl)

theorem append_atIssue {n : Nat} {es fs : List Eff} (h : ∀ e ∈ es, e.atIssue n = true) (k : ∀ e ∈ fs, e.atIssue n = true) :
    ∀ e ∈ es ++ fs, e.atIssue n = true := List.forall_mem_append.2 ⟨h, k⟩

theorem touches_atIssue {α : Type} (n : Nat) (a len hint : α → Nat) (l : List α) :
    ∀ e ∈ l.map (fun r => Eff.touch (a r) (len r) (hint r)), e.atIssue n = true := by
  intro e he
  obtain ⟨r, -, rfl⟩ := List.mem_map.1 he
  rfl

section
variable (s : State) (n : Nat) (arg : BitVec 40)

/-! ### Products, tiles and the accumulator -/

theorem State.planProduct_only (zero : Bool) : (s.planProduct n arg zero).IssuesOnly n := by
  unfold State.planProduct
  split
  · exact Plan.only_bad
  · split
    · exact Plan.only_bad
    · split
      · exact Plan.only_bad
      · exact Plan.only_later _ _ _ _ _

theorem planAccZero_only : (planAccZero s n arg).IssuesOnly n := by
  unfold planAccZero
  split
  · exact Plan.only_bad
  · dsimp only
    split
    · exact Plan.only_bad
    · exact Plan.only_later _ _ _ _ _

theorem planAccRead_only : (planAccRead s n arg).IssuesOnly n := by
  unfold planAccRead
  split
  · exact Plan.only_bad
  · dsimp only
    split
    · exact Plan.only_bad
    · split
      · split
        · exact Plan.only_bad
        · exact Plan.only_later _ _ _ _ _
      · split
        · exact Plan.only_bad
        · exact Plan.only_ite Plan.only_bad (Plan.only_later _ _ _ _ _)

theorem planTmul_only : (planTmul s n arg).IssuesOnly n := by
  unfold planTmul
  split
  · exact Plan.only_bad
  · split
    · exact Plan.only_bad
    · split
      · exact Plan.only_bad
      · exact Plan.only_orFault (Plan.checked_map _ _ fun q => Plan.only_ok _ _ _ _ _ _ (ifZero_atIssue n _ _))

theorem planSsmul_only : (planSsmul s n arg).IssuesOnly n := by
  unfold planSsmul
  split
  · exact Plan.only_bad
  · split
    · exact Plan.only_bad
    · split
      · exact Plan.only_bad
      · refine Plan.only_orFault (Plan.checked_bind _ _ fun as => Plan.checked_bind _ _ fun bs => ?_)
        split
        · exact Plan.checked_error _
        · exact Plan.checked_ok (Plan.only_ok _ _ _ _ _ _ (ifZero_atIssue n _ _))

theorem planSddmm_only : (planSddmm s n arg).IssuesOnly n := by
  unfold planSddmm
  split
  · exact Plan.only_bad
  · dsimp only
    split
    · exact Plan.only_bad
    · refine Plan.only_orFault (Plan.checked_bind _ _ fun y => Plan.checked_bind _ _ fun x => Plan.checked_bind _ _ fun k => ?_)
      split
      · exact Plan.checked_error _
      · split
        · exact Plan.checked_ok Plan.only_bad
        · exact Plan.checked_ok (Plan.only_later _ _ _ _ _)

theorem planValmap_only : (planValmap s n arg).IssuesOnly n := by
  unfold planValmap
  split
  · exact Plan.only_bad
  · dsimp only
    split
    · exact Plan.only_bad
    · refine Plan.only_orFault (Plan.checked_bind _ _ fun t => ?_)
      split
      · exact Plan.checked_ok Plan.only_bad
      · exact Plan.checked_ok (Plan.only_later _ _ _ _ _)

theorem planPselect_only : (planPselect s n arg).IssuesOnly n := by
  unfold planPselect
  split
  · exact Plan.only_bad
  · dsimp only
    split
    · exact Plan.only_bad
    · split
      · exact Plan.only_bad
      · exact Plan.only_later _ _ _ _ _

theorem planPmul_only : (planPmul s n arg).IssuesOnly n := by
  unfold planPmul
  split
  · exact Plan.only_bad
  · refine Plan.only_ite Plan.only_bad (Plan.only_orFault (Plan.checked_bind _ _ fun as => Plan.checked_bind _ _ fun bs => ?_))
    split
    · exact Plan.checked_error _
    · extract_lets cnt
      split
      · exact Plan.checked_error _
      · split
        · exact Plan.checked_ok Plan.only_bad
        · exact Plan.checked_ok (Plan.only_ok _ _ _ _ _ _ (ifZero_atIssue n _ _))

theorem planCompress_only : (planCompress s n arg).IssuesOnly n := by
  unfold planCompress
  split
  · exact Plan.only_bad
  · split
    · exact Plan.only_bad
    · extract_lets wb dense last total isAcc addr
      clear_value addr
      split
      · exact Plan.only_bad
      · refine Plan.only_ite Plan.only_bad ?_
        rename_i fault _ _ _
        clear_value fault
        cases fault with
        | some f => exact Plan.only_refuse _ _
        | none => exact Plan.only_later _ _ _ _ _

/-! ### Compute and communicate -/

theorem State.planProductPost_only (zero : Bool) : (s.planProductPost n arg zero).IssuesOnly n := by
  unfold State.planProductPost
  split
  · exact Plan.only_bad
  · split
    · split
      · exact Plan.only_bad
      · exact Plan.only_bindsDst _ _ _ _ _ _ _
    · exact Plan.only_bad

theorem planTmulPost_only : (planTmulPost s n arg).IssuesOnly n := by
  unfold planTmulPost
  split
  · exact Plan.only_bad
  · split
    · split
      · exact Plan.only_bad
      · split
        · exact Plan.only_meta _ _
        · exact Plan.only_ok _ _ _ _ _ _ (append_atIssue (ifZero_atIssue n _ _) (List.forall_mem_singleton.2 rfl))
    · exact Plan.only_bad

theorem State.planPosting_only : (s.planPosting n arg).IssuesOnly n := by
  unfold State.planPosting
  split
  · exact Plan.only_bad
  · split
    · exact Plan.only_bad
    · split
      · exact Plan.only_bad
      · split
        · exact Plan.only_bad
        · exact Plan.only_bindsDst _ _ _ _ _ _ _

theorem planGetMmul_only : (planGetMmul s n arg).IssuesOnly n := by
  unfold planGetMmul
  split
  · exact Plan.only_bad
  · split
    · split
      · exact Plan.only_bad
      · exact Plan.only_bindsDst _ _ _ _ _ _ _
    · exact Plan.only_bad

theorem planGetTmul_only : (planGetTmul s n arg).IssuesOnly n := by
  unfold planGetTmul
  split
  · exact Plan.only_bad
  · split
    · split
      · exact Plan.only_bad
      · exact Plan.only_bindsDst _ _ _ _ _ _ _
    · exact Plan.only_bad

/-! ### Moves and gathers -/

theorem planNload_only : (planNload s n arg).IssuesOnly n := by
  unfold planNload
  split
  · exact Plan.only_bad
  · dsimp only
    split
    · exact Plan.only_refuse _ _
    · exact Plan.only_ok _ _ _ _ _ _ (List.forall_mem_cons.2 ⟨rfl, touches_atIssue n _ _ _ _⟩)

theorem planNstore_only : (planNstore s n arg).IssuesOnly n := by
  unfold planNstore
  split
  · exact Plan.only_bad
  · dsimp only
    split
    · exact Plan.only_refuse _ _
    · exact Plan.only_ok _ _ _ _ _ _ (List.forall_mem_singleton.2 rfl)

theorem planGather_only : (planGather s n arg).IssuesOnly n := by
  unfold planGather
  split
  · exact Plan.only_bad
  · dsimp only
    split
    · exact Plan.only_refuse _ _
    · exact Plan.only_ok _ _ _ _ _ _ (gatherNow_atIssue s n _ _)

theorem planGatherSum_only : (planGatherSum s n arg).IssuesOnly n := by
  unfold planGatherSum
  split
  · exact Plan.only_bad
  · dsimp only
    split
    · exact Plan.only_refuse _ _
    · exact Plan.only_ok _ _ _ _ _ _ (gatherNow_atIssue s n _ _)

theorem planScatter_only : (planScatter s n arg).IssuesOnly n := by
  unfold planScatter
  split
  · exact Plan.only_bad
  · dsimp only
    split
    · exact Plan.only_refuse _ _
    · exact Plan.only_ok _ _ _ _ _ _ (scatterNow_atIssue s n _ _)

theorem planScatterAdd_only : (planScatterAdd s n arg).IssuesOnly n := by
  unfold planScatterAdd
  split
  · exact Plan.only_bad
  · dsimp only
    split
    · exact Plan.only_refuse _ _
    · exact Plan.only_ok _ _ _ _ _ _ (append_atIssue (scatterNow_atIssue s n _ _) (touches_atIssue n _ _ _ _))

/-! ### Vector operations -/

theorem State.elementwise_only (v : VecDesc) (srcs : List Nat) (lanes latency : Nat) (stoch : Bool) (f : List Val → Val × Bool) :
    (s.elementwise n v srcs lanes latency stoch f).IssuesOnly n := by
  unfold State.elementwise
  split
  · split
    · exact Plan.only_bad
    · exact Plan.only_later _ _ _ _ _
  · exact Plan.only_bad

theorem State.vecArith_only (k : Nat) (f : VecDesc → List Val → Val × Bool) : (s.vecArith n arg k f).IssuesOnly n := by
  unfold State.vecArith
  split
  · exact Plan.only_bad
  · split
    · exact Plan.only_bad
    · exact s.elementwise_only n _ _ _ _ _ _

theorem State.splitPieces_only (v : VecDesc) : (s.splitPieces n v).IssuesOnly n := by
  unfold State.splitPieces
  extract_lets int fmts plane
  split
  · split
    · exact Plan.only_bad
    · exact Plan.only_later _ _ _ _ _
  · exact Plan.only_bad

theorem planVcvt_only : (planVcvt s n arg).IssuesOnly n := by
  unfold planVcvt
  split
  · exact Plan.only_bad
  · split
    · exact s.splitPieces_only n _
    · exact s.elementwise_only n _ _ _ _ _ _

theorem State.vecSpecial_only (f : Val → Val) (inv : Val → Bool) : (s.vecSpecial n arg f inv).IssuesOnly n := by
  unfold State.vecSpecial
  split
  · exact Plan.only_bad
  · split
    · exact Plan.only_bad
    · exact s.elementwise_only n _ _ _ _ _ _

theorem State.vecRows_only (f : VecDesc → List Val → Val × Nat × Nat) : (s.vecRows n arg f).IssuesOnly n := by
  unfold State.vecRows
  split
  · exact Plan.only_bad
  · dsimp only
    split
    · exact Plan.only_bad
    · split
      · split
        · exact Plan.only_bad
        · exact Plan.only_later _ _ _ _ _
      · exact Plan.only_bad

theorem planVsort_only : (planVsort s n arg).IssuesOnly n := by
  unfold planVsort
  split
  · exact Plan.only_bad
  · split
    · exact Plan.only_bad
    · split
      · split
        · exact Plan.only_bad
        · exact Plan.only_later _ _ _ _ _
      · exact Plan.only_bad

theorem planVmerge_only : (planVmerge s n arg).IssuesOnly n := by
  unfold planVmerge
  split
  · exact Plan.only_bad
  · split
    · exact Plan.only_bad
    · split
      · split
        · exact Plan.only_bad
        · exact Plan.only_later _ _ _ _ _
      · exact Plan.only_bad

theorem State.withVec_only {f : VecDesc → Plan} (h : ∀ v, (f v).IssuesOnly n) : (s.withVec n arg f).IssuesOnly n := by
  unfold State.withVec
  split
  · exact Plan.only_bad
  · exact h _

theorem State.fusedRows_only (v : VecDesc) (srcs : List (Nat × Bool)) (time : Nat → Nat) (f : List (List Val) → List Val × Nat) :
    (s.fusedRows n v srcs time f).IssuesOnly n := by
  unfold State.fusedRows
  dsimp only
  split
  · split
    · exact Plan.only_bad
    · exact Plan.only_later _ _ _ _ _
  · exact Plan.only_bad

theorem State.fusedNormB_only (time : Nat → Nat)
    (f : Val → List Val → List Val → List Val → List Val → List Val × List Val × Nat) : (s.fusedNormB n arg time f).IssuesOnly n := by
  refine s.withVec_only n arg fun v => ?_
  split
  · dsimp only
    split
    · exact Plan.only_bad
    · exact Plan.only_later _ _ _ _ _
  · exact Plan.only_bad

theorem planVdual_only : (planVdual s n arg).IssuesOnly n := by
  refine s.withVec_only n arg fun v => ?_
  dsimp only
  split
  · split
    · exact Plan.only_bad
    · exact Plan.only_later _ _ _ _ _
  · exact Plan.only_bad

end

/-- The plan of every cluster opcode has only effects at issue that an operation may have then. -/
theorem clusterPlan_only {op : Nat} {plan : State → Nat → BitVec 40 → Plan} (h : clusterPlan op = some plan) (s : State) (n : Nat)
    (arg : BitVec 40) : (plan s n arg).IssuesOnly n := by
  unfold clusterPlan at h
  split at h <;> cases h
  exacts [s.planProduct_only n arg _, s.planProduct_only n arg _, planAccZero_only s n arg, planAccRead_only s n arg,
    s.vecArith_only n arg _ _, s.vecArith_only n arg _ _, s.vecArith_only n arg _ _, s.vecArith_only n arg _ _,
    s.vecArith_only n arg _ _, s.vecArith_only n arg _ _, planVcvt_only s n arg,
    s.vecSpecial_only n arg _ _, s.vecSpecial_only n arg _ _, s.vecSpecial_only n arg _ _, s.vecSpecial_only n arg _ _,
    s.vecRows_only n arg _, s.vecRows_only n arg _, planVsort_only s n arg, planVmerge_only s n arg,
    s.withVec_only n arg fun v => s.fusedRows_only n v _ _ _, s.withVec_only n arg fun v => s.fusedRows_only n v _ _ _,
    s.withVec_only n arg fun v => s.fusedRows_only n v _ _ _, s.withVec_only n arg fun v => s.fusedRows_only n v _ _ _,
    s.withVec_only n arg fun v => s.fusedRows_only n v _ _ _, s.fusedNormB_only n arg _ _, s.fusedNormB_only n arg _ _,
    planVdual_only s n arg, planTmul_only s n arg, planSsmul_only s n arg, planSddmm_only s n arg, planValmap_only s n arg,
    planPselect_only s n arg, planPmul_only s n arg, planGather_only s n arg, planGatherSum_only s n arg, planScatter_only s n arg,
    planScatterAdd_only s n arg, planCompress_only s n arg, planNload_only s n arg, planNstore_only s n arg,
    s.planProductPost_only n arg _, s.planProductPost_only n arg _, planTmulPost_only s n arg, planGetMmul_only s n arg,
    planGetTmul_only s n arg, s.planPosting_only n arg, s.planPosting_only n arg]

/-! ### What an operation's issue leaves unchanged -/

theorem sameOtherClusters.refl (n : Nat) (s : State) : sameOtherClusters n s s := fun _ _ => rfl

theorem sameOtherClusters.trans {n : Nat} {s t u : State} (h : sameOtherClusters n s t) (k : sameOtherClusters n t u) :
    sameOtherClusters n s u := fun m hm => (k m hm).trans (h m hm)

theorem sameBut.otherClusters {fs : List Field} {s t : State} (h : sameBut fs s t) (hf : Field.clusters ∉ fs) (n : Nat) :
    sameOtherClusters n s t := fun m _ => State.cluster_of_same h hf m

theorem sameBut.otherSeqs {fs : List Field} {s t : State} (h : sameBut fs s t) (hf : Field.seqs ∉ fs) (d : Nat) :
    sameOtherSeqs d s t := fun e _ => State.seq_of_same h hf e

/-- The members that the effects at issue may change. -/
def atIssueFields : List Field := [.clusters, .coll, .ctr, .parts, .und]

theorem State.apply_atIssue {n : Nat} {e : Eff} (he : e.atIssue n = true) (s : State) :
    sameBut atIssueFields s (s.apply e) ∧ sameOtherClusters n s (s.apply e) := by
  have setsOwn (c : Cluster) : sameBut atIssueFields s (s.setCluster n c) ∧ sameOtherClusters n s (s.setCluster n c) :=
    ⟨(s.setCluster_same n c).weaken (by decide), fun m hm => s.cluster_setCluster_other n m c hm⟩
  cases e with
  | touch a len hint =>
    exact ⟨(s.noteRead_same a len hint).weaken (by decide), (s.noteRead_same a len hint).otherClusters (by decide) n⟩
  | count key k => exact ⟨(s.count_same key k).weaken (by decide), (s.count_same key k).otherClusters (by decide) n⟩
  | collDst m c d => exact ⟨(s.bindDst_same m c d).weaken (by decide), (s.bindDst_same m c d).otherClusters (by decide) n⟩
  | acc m idx vals =>
    obtain rfl := eq_of_beq he
    exact setsOwn _
  | accMark m slot int =>
    obtain rfl := eq_of_beq he
    exact setsOwn _
  | _ => cases he

theorem State.applyAll_atIssue {n : Nat} {es : List Eff} (hes : ∀ e ∈ es, e.atIssue n = true) (s : State) :
    sameBut atIssueFields s (s.applyAll es) ∧ sameOtherClusters n s (s.applyAll es) := by
  unfold State.applyAll
  induction es generalizing s with
  | nil => exact ⟨sameBut.refl _ _, sameOtherClusters.refl _ _⟩
  | cons e es ih =>
    obtain ⟨he, hes⟩ := List.forall_mem_cons.1 hes
    obtain ⟨hsame, hothers⟩ := s.apply_atIssue he
    obtain ⟨hsame', hothers'⟩ := ih hes (s.apply e)
    exact ⟨hsame.trans hsame', hothers.trans hothers'⟩

/-- The members that an operation's issue may change. -/
def issueFields : List Field := [.clk, .clusters, .seqs, .coll, .ctr, .parts, .und, .power, .hbmStacks]

/-- The state in which the units of an operation have been claimed, before its effects at issue. -/
def State.claimed (s : State) (n t units : Nat) : State :=
  (unitKeys n units).foldl State.wakeUp ((s.unblock (n / 16) t).awaitUnits t)

theorem State.issued_eq (s : State) (n t units : Nat) (now : List Eff) : s.issued n t units now = (s.claimed n t units).applyAll now := rfl

theorem State.claimed_same (s : State) (n t units : Nat) :
    sameBut [.clk, .seqs, .ctr, .power, .hbmStacks] s (s.claimed n t units) ∧ sameOtherSeqs (n / 16) s (s.claimed n t units) := by
  have hblock := s.unblock_same (n / 16) t
  have hwait := (s.unblock (n / 16) t).awaitUnits_same t
  have hwake : sameBut wakeFields _ (s.claimed n t units) :=
    sameBut.fold State.wakeUp_same (unitKeys n units) ((s.unblock (n / 16) t).awaitUnits t)
  exact ⟨((hblock.weaken (by decide)).trans (hwait.weaken (by decide))).trans (hwake.weaken (by decide)),
    ((s.unblock_other (n / 16) t).trans (hwait.otherSeqs (by decide) _)).trans (hwake.otherSeqs (by decide) _)⟩

theorem State.issued_same (s : State) (n t units : Nat) {now : List Eff} (h : ∀ e ∈ now, e.atIssue n = true) :
    sameBut issueFields s (s.issued n t units now) ∧ sameOtherClusters n s (s.issued n t units now) ∧
      sameOtherSeqs (n / 16) s (s.issued n t units now) := by
  obtain ⟨hclaim, hseqs⟩ := s.claimed_same n t units
  obtain ⟨hsame, hothers⟩ := State.applyAll_atIssue h (s.claimed n t units)
  exact ⟨(hclaim.weaken (by decide)).trans (hsame.weaken (by decide)),
    (hclaim.otherClusters (by decide) n).trans hothers, hseqs.trans (hsame.otherSeqs (by decide) _)⟩

theorem State.issued_cluster (s : State) (n t units : Nat) (now : List Eff) (m : Nat) :
    ((s.issued n t units now).cluster m).ops = (s.cluster m).ops ∧
      ((s.issued n t units now).cluster m).cores = (s.cluster m).cores ∧
      ((s.issued n t units now).cluster m).item = (s.cluster m).item := by
  have hclaim := State.cluster_of_same (s.claimed_same n t units).1 (by decide) m
  rw [s.issued_eq, ← hclaim]
  exact State.applyAll_cluster _ now m

/-- Settles O13: every plan's effects at issue are such (`clusterPlan_only`), and those change no memory and no other cluster
(`issued_same`). -/
theorem clustersWriteAtEnd : Obligations.ClustersWriteAtEnd := by
  refine ⟨fun p _ plan hplan s n arg units slots dur now effs acc hok => ?_, fun s n r units now hnow => ?_⟩
  · exact (clusterPlan_only hplan s n arg).ok _ _ _ _ _ _ hok
  · obtain ⟨hsame, hothers, -⟩ := s.issued_same n r units hnow
    exact ⟨hsame, hothers⟩

/-! ### A cluster operation as the only slot of its bundle -/

/-- Every cluster opcode has its plan, and its command runs it alone in a bundle. -/
theorem clusterOps_run : ∀ p ∈ clusterOps, ∃ plan, clusterPlan p.1 = some plan ∧
    ∀ (n : Fin 64) (arg : BitVec 40) (s : State), exec (p.2 n arg) s = .next (s.issueAlone n p.1 arg plan).settle := by
  simp only [clusterOps, List.cons_append, List.nil_append, List.forall_mem_cons, List.not_mem_nil, false_imp_iff, implies_true,
    and_true]
  repeat' apply And.intro
  all_goals exact ⟨_, rfl, fun _ _ _ => rfl⟩

theorem State.attempt_of_ok {s : State} {n op : Nat} {arg : BitVec 40} {plan : State → Nat → BitVec 40 → Plan}
    {units slots dur : Nat} {now effs : List Eff} {acc : Bool} (hfence : s.clusterFenced n = false)
    (hok : plan s n arg = .ok units slots dur now effs acc) :
    s.attempt n op arg plan = if (s.cluster n).accepts units slots then
      .go { op := op, units := units, slots := slots, accOnly := acc, due := dur, effects := effs
            waitColl := (s.getForm n op arg).1, thenOp := (s.getForm n op arg).2 } now else .wait := by
  simp [State.attempt, hfence, hok]

theorem State.issueAlone_of_go {s u : State} {n op r : Nat} {arg : BitVec 40} {plan : State → Nat → BitVec 40 → Plan}
    {o : ClusterOp} {now : List Eff} (hjob : s.job.state ≠ .held) (hwake : s.clusterWaking n op arg plan = .from1 u r)
    (hgo : u.attempt n op arg plan = .go o now) :
    s.issueAlone n op arg plan = ((u.unblock (n / 16) r).awaitUnits r).accept n o now := by
  rw [State.clusterWaking] at hwake
  simp [State.issueAlone, hjob, hwake, hgo]

/-- Accepting an operation adds it to its cluster, due when its units are ready and its length has passed. -/
theorem State.accept_eq (s : State) (n t : Nat) (o : ClusterOp) (now : List Eff) :
    ((s.unblock (n / 16) t).awaitUnits t).accept n o now =
      (s.issued n t o.units now).setCluster n { (s.issued n t o.units now).cluster n with
        ops := (s.cluster n).ops ++ [{ o with due := (s.issued n t o.units now).unitsReady n o.units + o.due }] } := by
  rw [← (s.issued_cluster n t o.units now n).1]
  rfl

theorem State.wakeNeeded_of_awake {s : State} (hstates : s.power.states = []) (hwaking : s.power.waking = []) (t : Nat)
    (needs : Nat → Bool) : s.wakeNeeded t needs = .from1 s t := by
  simp [State.wakeNeeded, State.sleepers, hstates, hwaking]

/-- Settles O12: the reading goes (`attempt_of_ok`), the operation is accepted (`accept_eq`), and its issue's frame is
`issued_same`. -/
theorem clusterSlotsIssue : Obligations.ClusterSlotsIssue := by
  refine ⟨fun p hp => ?_, fun s t needs hs hw => State.wakeNeeded_of_awake hs hw t needs⟩
  obtain ⟨plan, hplan, hrun⟩ := clusterOps_run p hp
  refine ⟨plan, hplan, fun s u n arg r units slots dur now effs acc hjob hwake hfence hok haccepts => ?_⟩
  have hgo := (State.attempt_of_ok (op := p.1) hfence hok).trans (if_pos haccepts)
  have hwoken : sameBut wakeFields s u := (State.wakeNeeded_same _ _ _).2 _ _ hwake
  have hcluster : ∀ m, u.cluster m = s.cluster m := State.cluster_of_same hwoken (by decide)
  obtain ⟨hsame, hothers, hseqs⟩ := u.issued_same n r units ((clusterPlan_only hplan u n arg).ok _ _ _ _ _ _ hok)
  obtain ⟨-, hcores, hitem⟩ := u.issued_cluster n r units now n
  have hset := State.setCluster_same (u.issued n r units now) n
  refine ⟨_, _, rfl, by rw [hrun, State.issueAlone_of_go hjob hwake hgo, State.accept_eq], ?_, ?_, ?_, ?_, ?_, ?_⟩
  · rw [State.cluster_setCluster, hcluster]
  · rw [State.cluster_setCluster, ← hcluster, ← hcores]
  · rw [State.cluster_setCluster, ← hcluster, ← hitem]
  · exact ((hwoken.otherClusters (by decide) n).trans hothers).trans fun m hm => State.cluster_setCluster_other _ _ _ _ hm
  · exact ((hwoken.otherSeqs (by decide) _).trans hseqs).trans ((hset _).otherSeqs (by decide) _)
  · exact ((hwoken.weaken (by decide)).trans (hsame.weaken (by decide))).trans ((hset _).weaken (by decide))

end Sys2Proof.Machine

/-! PROOFS. The words of a scalar core (R143, R146): each is its meaning in the cycle that the core is free for, and its completion
changes that core alone. -/

namespace Sys2Proof.Machine

/-! ### Cores of a cluster -/

/-- A change of one core says only what becomes of that core as it is. -/
theorem mapIdx_core_congr (c : Cluster) (core : Fin 4) {f g : Core → Core} (h : f (c.core core) = g (c.core core)) :
    c.cores.mapIdx (fun j k => if j = core.val then f k else k) = c.cores.mapIdx (fun j k => if j = core.val then g k else k) := by
  refine Vector.ext fun j hj => ?_
  simp only [Vector.getElem_mapIdx]
  split
  · next hcore =>
    have hk : c.core core = c.cores[j] := by simp [Cluster.core, Vector.getD, ← hcore, hj]
    rw [← hk, h]
  · rfl

/-- A change of one core and the completion of its word are what has run in that cycle. -/
theorem State.ran_eq (s : State) (n : Nat) (core : Fin 4) (pc lat : Nat) {f g : Core → Core}
    (h : f (s.coreOf n core) = g (s.coreOf n core)) :
    ((s.atCore n core).setCore n core f).nextWord n core pc lat = s.ran n core pc lat g := by
  rw [State.setCore_nextWord]
  exact congrArg (fun c => (s.atCore n core).setCluster n { (s.atCore n core).cluster n with cores := c })
    (mapIdx_core_congr (s.cluster n) core
      (congrArg (fun k : Core => { k with pc := pc, freeAt := (s.atCore n core).cc + lat }) h))

theorem State.ran_id (s : State) (n core pc lat : Nat) : (s.atCore n core).nextWord n core pc lat = s.ran n core pc lat id := rfl

theorem State.ran_same (s : State) (n core pc lat : Nat) (f : Core → Core) : sameBut [.clk, .clusters] s (s.ran n core pc lat f) :=
  ((s.atCore_same n core).weaken (by decide)).trans ((State.setCluster_same _ _ _).weaken (by decide))

theorem State.ran_other (s : State) (n core pc lat : Nat) (f : Core → Core) : sameOtherClusters n s (s.ran n core pc lat f) :=
  fun m hm => State.cluster_setCluster_other _ n m _ hm

/-- Settles O19: each word's meaning at the core (`word_at`), as what has run (`ran_eq`). -/
theorem aluAndJumpWords : Obligations.AluAndJumpWords := by
  refine fun s n core w => ⟨fun h => ?_, fun h => ?_, fun h => ?_⟩
  · have hrun : exec (.alu n core) s = .next (s.word n core 0x10 (fun s k w => s.wAlu n core k w)).settle := rfl
    rw [hrun, State.word_at h, State.wAlu]
    exact congrArg (fun t : State => Host.Outcome.next t.settle) (s.ran_eq n core _ _ rfl)
  · have hrun : exec (.br n core) s = .next (s.word n core 0x30 (fun s k w => s.wBr n core k w)).settle := rfl
    rw [hrun, State.word_at h]
    rfl
  · have hrun : exec (.jmp n core) s = .next (s.word n core 0x31 (fun s k w => s.wJmp n core k w)).settle := rfl
    rw [hrun, State.word_at h]
    rfl

/-! ### Signals and the end of a kernel -/

/-- A change of several cores of a cluster, one after the other. -/
theorem State.foldl_setCore (n : Nat) (f : Core → Core) {l : List Nat} (hl : l.Nodup) (s : State) :
    (l.foldl (fun (s : State) j => s.setCore n j f) s).cluster n = { s.cluster n with
      cores := (s.cluster n).cores.mapIdx (fun j k => if j ∈ l then f k else k) } ∧
    ∀ c, (l.foldl (fun (s : State) j => s.setCore n j f) s).setCluster n c = s.setCluster n c := by
  induction l generalizing s with
  | nil =>
    have hid : (s.cluster n).cores.mapIdx (fun _ k => k) = (s.cluster n).cores := Vector.ext fun j hj => by simp
    exact ⟨by simp [hid], fun c => rfl⟩
  | cons a l ih =>
    obtain ⟨ha, hl⟩ := List.nodup_cons.1 hl
    obtain ⟨hcluster, hset⟩ := ih hl (s.setCore n a f)
    refine ⟨?_, fun c => by rw [List.foldl_cons, hset, State.setCore, State.setCluster_setCluster]⟩
    rw [List.foldl_cons, hcluster, State.setCore, State.cluster_setCluster]
    simp only [Machine.setCore, Vector.mapIdx_mapIdx]
    congr 2
    funext j k
    by_cases hj : j = a
    · simp [hj, ha]
    · simp [hj]

theorem State.foldl_setCore_same (n : Nat) (f : Core → Core) (l : List Nat) (s : State) :
    sameBut [.clusters] s (l.foldl (fun (s : State) j => s.setCore n j f) s) :=
  sameBut.fold (fun s _ => State.setCluster_same s n _) l s

theorem mem_maskBits_bitsOf {w j : Nat} : j ∈ maskBits 4 (bitsOf w 0 4) ↔ j < 4 ∧ bitAt w j = true := by
  simp only [mem_maskBits, bitsOf, bitAt, Nat.shiftRight_zero, Nat.testBit_mod_two_pow, Bool.and_eq_true, decide_eq_true_eq]
  tauto

/-- The flags of a mask of cores are set, then the word of the core that sets them completes. -/
theorem State.wSignal_eq (s : State) (n : Nat) (core : Fin 4) (k : Core) (w : Nat) (hk : k = s.coreOf n core) :
    s.wSignal n core k w = s.setCluster n { s.cluster n with
      cores := (s.cluster n).cores.mapIdx (fun j k =>
        let g := { k with flags := if bitAt w j then k.flags ||| 2 ^ core.val else k.flags }
        if j = core.val then { g with pc := k.pc + 1, freeAt := s.cc + 1 } else g) } := by
  have hnodup : (maskBits 4 (bitsOf w 0 4)).Nodup := List.Nodup.filter _ List.nodup_range
  obtain ⟨hcluster, hset⟩ := State.foldl_setCore n (fun c => { c with flags := c.flags ||| 2 ^ core.val }) hnodup s
  have hclk := State.foldl_setCore_same n (fun c => { c with flags := c.flags ||| 2 ^ core.val }) (maskBits 4 (bitsOf w 0 4)) s .clk
    (by decide)
  simp only [Field.same] at hclk
  rw [State.wSignal, State.nextWord_eq, hset, hcluster, State.cc, hclk]
  refine congrArg (fun c => s.setCluster n { s.cluster n with cores := c }) (Vector.ext fun j hj => ?_)
  simp only [Vector.getElem_mapIdx, mem_maskBits_bitsOf, hj, true_and]
  by_cases hcore : j = core.val
  · subst hcore
    have hpc : k.pc = (s.cluster n).cores[core.val].pc := by simp [hk, State.coreOf, Cluster.core, Vector.getD]
    by_cases hbit : bitAt w core.val = true <;> simp [hbit, hpc, State.cc]
  · simp only [hcore, if_false]
    split <;> rfl

theorem State.ran_running (s : State) (n : Nat) (core : Fin 4) (pc lat : Nat) :
    ((s.ran n core pc lat (fun k => { k with running := false })).cluster n).cores.all (fun c => !c.running) =
      decide (∀ j : Fin 4, j ≠ core → (s.coreOf n j).running = false) := by
  have hcore (j : Fin 4) : s.coreOf n j = (s.cluster n).cores[j.val] := by simp [State.coreOf, Cluster.core, Vector.getD]
  have hat : (s.atCore n core).cluster n = s.cluster n := rfl
  rw [Bool.eq_iff_iff, decide_eq_true_iff, Vector.all_eq_true]
  simp only [State.ran, State.cluster_setCluster, Vector.getElem_mapIdx, hat, hcore]
  constructor
  · intro h j hj
    have := h j.val j.isLt
    rw [if_neg fun e => hj (Fin.ext e)] at this
    simpa using this
  · intro h j hj
    split
    · rfl
    · next hne =>
      have := h ⟨j, hj⟩ fun e => hne (congrArg Fin.val e)
      simpa using this

theorem State.wEnd_eq (s : State) (n : Nat) (core : Fin 4) (w : Nat) (h : (s.coreOf n core).outstanding = 0) :
    (s.atCore n core).wEnd n core (s.coreOf n core) w =
      if ∀ j : Fin 4, j ≠ core → (s.coreOf n j).running = false then
        (s.ran n core (s.coreOf n core).pc 1 (fun k => { k with running := false })).endItem n
      else s.ran n core (s.coreOf n core).pc 1 (fun k => { k with running := false }) := by
  have hset : (s.atCore n core).setCore n core (fun c => { c with running := false, freeAt := (s.atCore n core).cc + 1 }) =
      s.ran n core (s.coreOf n core).pc 1 (fun k => { k with running := false }) := by
    rw [State.setCore, State.ran, Machine.setCore]
    congr 2
    exact mapIdx_core_congr (s.cluster n) core rfl
  rw [State.wEnd, if_neg (by simp [h])]
  dsimp only
  rw [hset, State.ran_running]
  simp only [decide_eq_true_eq]

/-- Settles O20: each word's meaning at the core; `SIGNAL` by `wSignal_eq`, `END` by `wEnd_eq`. -/
theorem signalWords : Obligations.SignalWords := by
  refine fun s n core w => ⟨fun h => ?_, fun h hflags => ?_, fun h hops => ?_, fun h hout => ?_⟩
  · have hrun : exec (.signal n core) s = .next (s.word n core 0x03 (fun s k w => s.wSignal n core k w)).settle := rfl
    rw [hrun, State.word_at h, State.wSignal_eq (s.atCore n core) n core (s.coreOf n core) w rfl]
    exact ⟨_, rfl, rfl⟩
  · have hrun : exec (.waitsig n core) s = .next (s.word n core 0x04 (fun s k w => s.wWaitsig n core k w)).settle := rfl
    rw [hrun, State.word_at h, State.wWaitsig]
    rw [if_pos hflags]
    exact congrArg (fun t : State => Host.Outcome.next t.settle) (s.ran_eq n core _ _ rfl)
  · have hrun : exec (.waitu n core) s = .next (s.word n core 0x02 (fun s k w => s.wWaitu n core k w)).settle := rfl
    rw [hrun, State.word_at h, State.wWaitu]
    rw [if_pos, State.ran_id]
    refine List.all_eq_true.2 fun o ho => ?_
    obtain ⟨hunits, hacc⟩ := hops o ho
    have hlow : bitAt (bitsOf w 0 12) 0 = bitAt w 0 := by
      simp only [bitAt, bitsOf, Nat.shiftRight_zero, Nat.testBit_mod_two_pow, Nat.zero_lt_succ, decide_true, Bool.true_and]
    cases hbit : bitAt w 0
    · simp [hunits, hlow, hbit]
    · simp [hunits, hacc hbit]
  · have hrun : exec (.endWord n core) s = .next (s.word n core 0x05 (fun s k w => s.wEnd n core k w)).settle := rfl
    refine ⟨_, rfl, fun hother => ?_, fun hlast => ?_⟩
    · obtain ⟨j, hj, hrunning⟩ := hother
      rw [hrun, State.word_at h, State.wEnd_eq s n core w hout, if_neg fun hall => by simp [hall j hj] at hrunning]
    · rw [hrun, State.word_at h, State.wEnd_eq s n core w hout, if_pos hlast]

/-! ### Loads and stores -/

/-- The state in which a core's access to local memory is made: its missing pages are counted and its memories wake. -/
theorem State.access_same (a : State) (key k : Nat) (rs : List (Nat × Nat)) :
    sameBut wakeFields a ((a.count key k).wakeRanges rs) :=
  ((State.count_same a key k).weaken (by decide)).trans (State.wakeRanges_same _ _)

theorem State.nextWord_cluster (s : State) (n core pc lat : Nat) : (s.nextWord n core pc lat).cluster n =
    { s.cluster n with
      cores := (s.cluster n).cores.mapIdx (fun j k => if j = core then { k with pc := pc, freeAt := s.cc + lat } else k) } := by
  rw [State.nextWord_eq, State.cluster_setCluster]

/-- A core's word that changes no core but its own leaves its cluster as `ran` does, wherever the clusters and the clock are as in the
cycle in which it runs. -/
theorem State.word_cluster {s b : State} {fs : List Field} {n : Nat} {core : Fin 4} (h : sameBut fs (s.atCore n core) b)
    (hfs : Field.clk ∉ fs ∧ Field.clusters ∉ fs) (pc lat : Nat) {f g : Core → Core} (hfg : f (s.coreOf n core) = g (s.coreOf n core)) :
    ((b.setCore n core f).nextWord n core pc lat).cluster n = (s.ran n core pc lat g).cluster n := by
  have hcluster := State.cluster_of_same h hfs.2 n
  have hclk : b.clk = (s.atCore n core).clk := h .clk hfs.1
  rw [← s.ran_eq n core pc lat hfg, State.setCore_nextWord, State.setCore_nextWord, State.cluster_setCluster,
    State.cluster_setCluster, hcluster, State.cc, State.cc, hclk]

theorem State.word_cluster_id {s b : State} {fs : List Field} {n core : Nat} (h : sameBut fs (s.atCore n core) b)
    (hfs : Field.clk ∉ fs ∧ Field.clusters ∉ fs) (pc lat : Nat) :
    (b.nextWord n core pc lat).cluster n = (s.ran n core pc lat id).cluster n := by
  have hclk : b.clk = (s.atCore n core).clk := h .clk hfs.1
  rw [← s.ran_id, State.nextWord_cluster, State.nextWord_cluster, State.cluster_of_same h hfs.2 n, State.cc, State.cc, hclk]

theorem State.setCore_same (s : State) (n core : Nat) (f : Core → Core) : sameBut [.clusters] s (s.setCore n core f) :=
  State.setCluster_same _ _ _

theorem State.setCore_other (s : State) (n core : Nat) (f : Core → Core) : sameOtherClusters n s (s.setCore n core f) :=
  fun m hm => State.cluster_setCluster_other s n m _ hm

theorem State.coreOf_address (s : State) (n : Nat) (core : Fin 4) (w : Nat) :
    (((s.coreOf n core).reg (wRs1 w)) + wImm w).toNat = (s.coreOf n core).address w := rfl

theorem State.wLd_of_local {a : State} {n core w l : Nat} {k : Core} (hl : a.localOf (k.address w) = some l)
    (hrange : a.rangeFault (n / 16) l (2 ^ wFn w) = none) :
    ∃ u, u = (a.count cStageMiss (a.missingPages l (2 ^ wFn w)).length).wakeRanges [(l, 2 ^ wFn w)] ∧
      a.wLd n core k w = ((u.noteRead l (2 ^ wFn w) 0).setCore n core
        (fun c => c.setReg (wRd w) (BitVec.ofNat 64 (leNat (u.readLocal l (2 ^ wFn w)))))).nextWord n core (k.pc + 1)
          (u.latency n l + u.wakeWait [(l, 2 ^ wFn w)]) := by
  refine ⟨_, rfl, ?_⟩
  rw [Core.address] at hl
  simp only [State.wLd, hl, hrange]

theorem State.wSt_of_local {a : State} {n core w l : Nat} {k : Core} (hl : a.localOf (k.address w) = some l)
    (hrange : a.rangeFault (n / 16) l (2 ^ wFn w) = none) :
    ∃ v, v = (a.count cStageMissW (a.missingPages l (2 ^ wFn w)).length).wakeRanges [(l, 2 ^ wFn w)] ∧
      a.wSt n core k w = (v.writeLocal l 0 (leBytes (2 ^ wFn w) (k.reg (wRs2 w)).toNat)).nextWord n core (k.pc + 1)
        ((if nearBase n ≤ l ∧ l < nearBase n + nearSize then 1 else v.latency n l) + v.wakeWait [(l, 2 ^ wFn w)]) := by
  refine ⟨_, rfl, ?_⟩
  rw [Core.address] at hl
  simp only [State.wSt, hl, hrange, Bool.and_eq_true, decide_eq_true_eq]

/-- Settles O21: the meaning of each word at a local address (`wLd_of_local`, `wSt_of_local`), its cluster (`word_cluster`) and the
frame of its parts. -/
theorem localMemoryWords : Obligations.LocalMemoryWords := by
  rintro s a n core w l rfl hlocal hrange
  have hat := s.atCore_same n core
  refine ⟨fun h => ?_, fun h => ?_⟩
  · have hrun : exec (.ld n core) s = .next (s.word n core 0x20 (fun s k w => s.wLd n core k w)).settle := rfl
    obtain ⟨u, hu, hld⟩ := State.wLd_of_local (core := core) (k := s.coreOf n core) (a := s.atCore n core) hlocal hrange
    have haccess : sameBut wakeFields (s.atCore n core) u := hu ▸ State.access_same _ _ _ _
    have hread := (haccess.weaken (gs := [.power, .hbmStacks, .ctr, .parts, .und]) (by decide)).trans
      ((u.noteRead_same l (2 ^ wFn w) 0).weaken (by decide))
    refine ⟨_, u, by rw [hrun, State.word_at h, hld], hu, State.word_cluster hread (by decide) _ _ rfl, ?_, ?_⟩
    · exact (((hat.otherClusters (by decide) n).trans (hread.otherClusters (by decide) n)).trans
        (State.setCore_other _ n core _)).trans (State.nextWord_other _ n core _ _)
    · exact (((hat.weaken (by decide)).trans (hread.weaken (by decide))).trans
        ((State.setCore_same _ n core _).weaken (by decide))).trans ((State.nextWord_same _ n core _ _).weaken (by decide))
  · have hrun : exec (.st n core) s = .next (s.word n core 0x21 (fun s k w => s.wSt n core k w)).settle := rfl
    obtain ⟨v, hv, hst⟩ := State.wSt_of_local (core := core) (k := s.coreOf n core) (a := s.atCore n core) hlocal hrange
    have haccess : sameBut wakeFields (s.atCore n core) v := hv ▸ State.access_same _ _ _ _
    have hwrite := (haccess.weaken (gs := [.sram, .hbm, .parts, .und, .fab, .ctr, .power, .hbmStacks]) (by decide)).trans
      ((v.writeLocal_same l 0 (leBytes (2 ^ wFn w) ((s.coreOf n core).reg (wRs2 w)).toNat)).weaken (by decide))
    rw [hrun, State.word_at h, hst]
    refine ⟨_, _, v, rfl, hv, rfl, rfl, rfl, State.word_cluster_id hwrite (by decide) _ _, ?_, ?_⟩
    · exact ((hat.otherClusters (by decide) n).trans (hwrite.otherClusters (by decide) n)).trans (State.nextWord_other _ n core _ _)
    · exact ((hat.weaken (by decide)).trans (hwrite.weaken (by decide))).trans
        ((State.nextWord_same _ n core _ _).weaken (by decide))

theorem State.wLd_of_remote {a : State} {n core w : Nat} {k : Core} (h : a.localOf (k.address w) = none) :
    a.wLd n core k w = if a.noRoute (k.address w / 2 ^ 48) then a.coreNoRoute n core (k.address w) else
      ((a.setCore n core (fun c => { c with waiting := some (k.address w / 2 ^ 48) })).nextWord n core (k.pc + 1) 1).post (n / 16)
        (a.newPkt (k.address w / 2 ^ 48) tLoadReq 0 32 (k.address w % 2 ^ 48 / 32 * 32)
          (leBytes 2 (32 * (scalarUnits (k.address w % 2 ^ 48) (2 ^ wFn w)).length) ++ [0, 1]))
        (.coreLoad n core (wRd w) (k.address w % 2 ^ 48 % 32) (2 ^ wFn w)) := by
  have hoff : k.address w % 2 ^ 48 % 32 = k.address w % 2 ^ 48 - k.address w % 2 ^ 48 / 32 * 32 := by omega
  rw [hoff]
  rw [Core.address] at h ⊢
  simp only [State.wLd, h]
  rfl

theorem State.wSt_of_remote {a : State} {n core w : Nat} {k : Core} (h : a.localOf (k.address w) = none) :
    a.wSt n core k w = if a.noRoute (k.address w / 2 ^ 48) then a.coreNoRoute n core (k.address w) else
      (scalarUnits (k.address w % 2 ^ 48) (2 ^ wFn w)).foldl (fun t u => t.post (n / 16)
          (t.maskedStore (k.address w / 2 ^ 48) (leBytes (2 ^ wFn w) (k.reg (wRs2 w)).toNat) u) (.coreStore n core))
        ((a.setCore n core (fun c =>
          { c with outstanding := c.outstanding + (scalarUnits (k.address w % 2 ^ 48) (2 ^ wFn w)).length })).nextWord n core
            (k.pc + 1) 1) := by
  rw [Core.address] at h ⊢
  simp only [State.wSt, h]

/-- Settles O23: the meanings of the two words at a remote address (`wLd_of_remote`, `wSt_of_remote`), as what has run (`ran_eq`). -/
theorem remoteMemoryWords : Obligations.RemoteMemoryWords := by
  rintro s t n core w a rfl hlocal rfl
  have hld (h : s.atWord n core 0x20 w) : exec (.ld n core) s = .next ((s.atCore n core).wLd n core (s.coreOf n core) w).settle :=
    congrArg (fun t : State => Host.Outcome.next t.settle) (State.word_at h (fun s k w => s.wLd n core k w))
  have hst (h : s.atWord n core 0x21 w) : exec (.st n core) s = .next ((s.atCore n core).wSt n core (s.coreOf n core) w).settle :=
    congrArg (fun t : State => Host.Outcome.next t.settle) (State.word_at h (fun s k w => s.wSt n core k w))
  have hremote : (s.atCore n core).localOf ((s.coreOf n core).address w) = none := hlocal
  refine ⟨fun hroute => ⟨fun h => ?_, fun h => ⟨_, rfl, ?_⟩⟩, fun hroute => ⟨fun h => ?_, fun h => ?_⟩⟩
  · rw [hld h, State.wLd_of_remote hremote, if_neg (Bool.eq_false_iff.1 hroute), s.ran_eq n core _ _ rfl]
    rfl
  · rw [hst h, State.wSt_of_remote hremote, if_neg (Bool.eq_false_iff.1 hroute), s.ran_eq n core _ _ rfl]
  · rw [hld h, State.wLd_of_remote hremote, if_pos hroute]
  · rw [hst h, State.wSt_of_remote hremote, if_pos hroute]

/-! ### `ISSUE` and words of no form -/

theorem State.setCluster_nextWord (c : Cluster) (core : Nat) (pc lat : Nat) (t : State) (n : Nat) :
    (t.setCluster n c).nextWord n core pc lat = t.setCluster n { c with
      cores := c.cores.mapIdx (fun j k => if j = core then { k with pc := pc, freeAt := t.cc + lat } else k) } := by
  rw [State.nextWord_eq, State.cluster_setCluster, State.setCluster_setCluster]
  rfl

/-- The state in which a core's `ISSUE` has been accepted, before its word completes. -/
theorem State.accept_own_eq (s : State) (n : Nat) (o : ClusterOp) (now : List Eff) {v : State}
    (hv : v = ((unitKeys n o.units).foldl State.wakeUp s).applyAll now) :
    s.accept n o now = v.setCluster n { v.cluster n with
      ops := (v.cluster n).ops ++ [{ o with due := v.unitsReady n o.units + o.due }] } := by
  rw [hv]
  rfl

theorem State.wakeUnits_same (s : State) (n units : Nat) : sameBut wakeFields s ((unitKeys n units).foldl State.wakeUp s) :=
  sameBut.fold State.wakeUp_same _ s

theorem State.word_of_undefined {s : State} {n : Fin 64} {core : Fin 4} (hjob : s.job.state ≠ .held)
    (hitem : (s.cluster n).item.isSome = true) (hrunning : (s.coreOf n core).running = true)
    (hwaiting : (s.coreOf n core).waiting.isSome = false)
    (hword : wordDefined (kernelWord (s.kernels (n / 16)) (s.coreOf n core).pc) = false) (op : Nat) (f : State → Core → Nat → State) :
    s.word n core op f = s.kernelFault n core (s.cluster n).kernel (s.coreOf n core).pc := by
  have hdue : s.dueTake n = s := by simp only [State.dueTake, hitem, if_true]
  have hnone : (s.cluster n).item.isNone = false := by rw [← Option.not_isSome, hitem]; rfl
  unfold State.coreOf at *
  simp only [State.word, hjob, if_false, hdue, hnone, hrunning, hwaiting, hword, decide_false, Bool.not_true, Bool.not_false,
    Bool.or_false, Bool.false_eq_true, if_true]
  rfl

/-- Settles O24: an `ISSUE` whose reading goes is accepted (`accept_own_eq`); a word of no form and an opcode that a kernel may not
issue are kernel faults. -/
theorem issueAndUndefinedWords : Obligations.IssueAndUndefinedWords := by
  have hissue {s : State} {n : Fin 64} {core : Fin 4} {w : Nat} (h : s.atWord n core 0x01 w) :
      exec (.issue n core) s = .next ((s.atCore n core).wIssue n core (s.coreOf n core) w).settle :=
    congrArg (fun t : State => Host.Outcome.next t.settle) (State.word_at h (fun s k w => s.wIssue n core k w))
  refine ⟨?_, fun s n core hjob hitem hrunning hwaiting hword c hc => ?_, fun s n core w h hno => ?_⟩
  · rintro s u n core w op arg plan units slots dur now effs acc h rfl rfl rfl hcoll hplan hfence hok haccepts
    have hgo := (State.attempt_of_ok (op := bitsOf w 40 8) (s := s.atCore n core) hfence hok).trans (if_pos haccepts)
    have hat := s.atCore_same n core
    have hwake := (s.atCore n core).wakeUnits_same n units
    obtain ⟨heffs, hothers⟩ := State.applyAll_atIssue ((clusterPlan_only hplan _ n _).ok _ _ _ _ _ _ hok)
      ((unitKeys n units).foldl State.wakeUp (s.atCore n core))
    obtain ⟨hops, hcores, hitem⟩ := State.applyAll_cluster ((unitKeys n units).foldl State.wakeUp (s.atCore n core)) now n
    have hcluster : ∀ m, ((unitKeys n units).foldl State.wakeUp (s.atCore n core)).cluster m = s.cluster m :=
      State.cluster_of_same ((hat.weaken (gs := .clk :: wakeFields) (by decide)).trans (hwake.weaken (by decide))) (by decide)
    have hclk : (((unitKeys n units).foldl State.wakeUp (s.atCore n core)).applyAll now).clk = (s.atCore n core).clk :=
      (heffs .clk (by decide)).trans (hwake .clk (by decide))
    rw [hissue h, State.wIssue]
    simp only [hcoll, hplan, hgo, Bool.false_eq_true, if_false]
    rw [State.accept_own_eq _ _ _ _ rfl, State.setCluster_nextWord]
    refine ⟨_, _, rfl, rfl, ?_, ?_, ?_, ?_, ?_⟩
    · rw [State.cluster_setCluster, hops, hcluster]
    · rw [State.cluster_setCluster, hcores, hcluster, State.cc, hclk, State.ran, State.cluster_setCluster]
      rfl
    · rw [State.cluster_setCluster, hitem, hcluster]
    · exact (((hat.otherClusters (by decide) n).trans (hwake.otherClusters (by decide) n)).trans hothers).trans
        fun m hm => State.cluster_setCluster_other _ _ _ _ hm
    · exact (((hat.weaken (by decide)).trans (hwake.weaken (by decide))).trans (heffs.weaken (by decide))).trans
        ((State.setCluster_same _ _ _).weaken (by decide))
  · have hfault := State.word_of_undefined hjob hitem hrunning hwaiting hword
    simp only [List.mem_cons, List.not_mem_nil, or_false] at hc
    rcases hc with rfl | rfl | rfl | rfl | rfl | rfl | rfl | rfl | rfl | rfl <;>
      exact congrArg (fun t : State => Host.Outcome.next t.settle) (hfault _ _)
  · rw [hissue h, State.wIssue]
    rcases hno with hcoll | hplan
    · simp only [hcoll, if_true]
      rfl
    · simp only [hplan, ite_self]
      rfl

end Sys2Proof.Machine

/-! PROOFS. Slots of a cluster and of a die, each as the only slot of its bundle: what their reading finds says whether they issue, wait
or fault. -/

namespace Sys2Proof.Machine

/-! ### Cluster slots that do not issue -/

section
variable {s u : State} {n op r : Nat} {arg : BitVec 40} {plan : State → Nat → BitVec 40 → Plan}

theorem State.issueAlone_of_held (h : s.job.state = .held) : s.issueAlone n op arg plan = s := if_pos h

theorem State.issueAlone_of_asleep (hjob : s.job.state ≠ .held) (h : s.clusterWaking n op arg plan = .hold u) :
    s.issueAlone n op arg plan = u.holdBundle (n / 16) 1 3 := by
  rw [State.clusterWaking] at h
  simp [State.issueAlone, hjob, h]

/-- What becomes of a cluster slot that is read and does not go. -/
def State.stopSlot (s : State) (n op : Nat) (arg : BitVec 40) : Attempt → State
  | .bad => s.imageFault (n / 16)
  | .badMeta c a => s.metaFault n op c a
  | .refuse a st => s.clusterAddrFault n op arg st a
  | .wait => s.holdBundle (n / 16) 0 0
  | .go _ _ => s

theorem State.issueAlone_of_stop {a : Attempt} (hjob : s.job.state ≠ .held) (h : s.clusterWaking n op arg plan = .from1 u r)
    (hattempt : u.attempt n op arg plan = a) (ha : ∀ o now, a ≠ .go o now) :
    s.issueAlone n op arg plan = u.stopSlot n op arg a := by
  rw [State.clusterWaking] at h
  simp only [State.issueAlone, hjob, if_false, h, hattempt]
  cases a with
  | go o now => exact absurd rfl (ha o now)
  | _ => rfl

theorem State.attempt_of_fenced (h : s.clusterFenced n = true) : s.attempt n op arg plan = .refuse (nearBase n) 2 := if_pos h

end

/-! ### Slots of a die -/

/-- The command of each slot of a die reads it alone in its bundle. -/
theorem dieSlots_run : ∀ p ∈ dieSlots, ∀ (d : Fin 4) (arg : BitVec 56) (s : State), exec (p.command d arg) s =
    .next (s.slotAlone d p.op (p.units d) (fun t => p.plan t d arg) (fun t => p.issue t d arg)).settle := by
  simp only [dieSlots, List.map_cons, List.map_nil, List.cons_append, List.nil_append, List.forall_mem_cons, List.not_mem_nil,
    false_imp_iff, implies_true, and_true]
  repeat' apply And.intro
  all_goals exact fun _ _ _ => rfl

section
variable {s u : State} {op r : Nat} {d : Nat} {units : List Nat} {plan : State → SlotPlan} {go : State → State}

theorem State.slotAlone_of_held (h : s.job.state = .held) : s.slotAlone d op units plan go = s := if_pos h

theorem State.slotAlone_of_asleep (hjob : s.job.state ≠ .held) (h : s.slotWaking d units plan = .hold u) :
    s.slotAlone d op units plan go = u.holdBundle d 1 3 := by
  rw [State.slotWaking] at h
  rw [State.slotAlone, if_neg hjob, h]

theorem State.slotAlone_of_plan {p : SlotPlan} (hjob : s.job.state ≠ .held) (h : s.slotWaking d units plan = .from1 u r)
    (hplan : plan u = p) : s.slotAlone d op units plan go = u.takeSlot d op r p go := by
  rw [State.slotAlone_of_awake hjob h, hplan]

end

theorem State.openCfence_job (s : State) (d : Nat) (f : Nat × Nat) : (s.openCfence d f).job = s.job := by
  unfold State.openCfence
  dsimp only
  split <;> rfl

theorem exec_cfence_eq {s : State} (d : Fin 4) (arg : BitVec 56) (hjob : s.job.state ≠ .held) :
    exec (.cfence d arg) s =
      .next ((s.fenceTried d arg).slotAlone d 0x11 [] (·.planCfence d arg) (·.closeCfence d)).settle := by
  have hrun : exec (.cfence d arg) s = .next ((if s.planCfence d arg == .wait 3 && s.job.state ≠ .held
    then s.openCfence d (0x11, arg.toNat) else s).slotAlone d 0x11 [] (·.planCfence d arg) (·.closeCfence d)).settle := rfl
  rw [hrun, State.fenceTried]
  simp [hjob]

theorem State.fenceTried_job (s : State) (d : Nat) (arg : BitVec 56) : (s.fenceTried d arg).job = s.job := by
  unfold State.fenceTried
  split
  · exact s.openCfence_job d _
  · rfl

/-- Settles O14: each stop of a cluster slot (`issueAlone_of_stop`) and of a slot of a die (`slotAlone_of_plan`). -/
theorem slotsStop : Obligations.SlotsStop := by
  refine ⟨fun p hp => ?_, fun s d arg => ⟨fun hjob => ?_, fun hjob => ?_⟩⟩
  · obtain ⟨plan, hplan, hrun⟩ := clusterOps_run p hp
    refine ⟨plan, hplan, fun s n arg => ⟨fun hjob => ?_, fun hjob => ⟨fun u hu => ?_, fun u r hu => ⟨fun hfence => ?_, fun hfence => ?_⟩⟩⟩⟩
    · rw [hrun, State.issueAlone_of_held hjob]
    · rw [hrun, State.issueAlone_of_asleep hjob hu]
    · rw [hrun, State.issueAlone_of_stop hjob hu (State.attempt_of_fenced hfence) nofun]
      rfl
    · refine ⟨fun hbad => ?_, fun c a hmeta => ?_, fun a st hrefuse => ?_, fun units slots dur now effs acc hok haccepts => ?_⟩
      · rw [hrun, State.issueAlone_of_stop hjob hu (a := .bad) (by simp [State.attempt, hfence, hbad]) nofun]
        rfl
      · rw [hrun, State.issueAlone_of_stop hjob hu (a := .badMeta c a) (by simp [State.attempt, hfence, hmeta]) nofun]
        rfl
      · rw [hrun, State.issueAlone_of_stop hjob hu (a := .refuse a st) (by simp [State.attempt, hfence, hrefuse]) nofun]
        rfl
      · rw [hrun, State.issueAlone_of_stop hjob hu (a := .wait) ((State.attempt_of_ok hfence hok).trans (by simp [haccepts])) nofun]
        rfl
  · refine ⟨fun p hp => ?_, ?_⟩
    · rw [dieSlots_run p hp, State.slotAlone_of_held hjob]
    · have hrun : exec (.cfence d arg) s = .next ((if s.planCfence d arg == .wait 3 && s.job.state ≠ .held
        then s.openCfence d (0x11, arg.toNat) else s).slotAlone d 0x11 [] (·.planCfence d arg) (·.closeCfence d)).settle := rfl
      rw [hrun, if_neg (by simp [hjob]), State.slotAlone_of_held hjob]
  · refine ⟨fun p hp => ⟨fun u hu => ?_, fun u r hu => ⟨fun h => ?_, fun a st f h => ?_, fun c a h => ?_, fun l h => ?_⟩⟩, ?_⟩
    · rw [dieSlots_run p hp, State.slotAlone_of_asleep hjob hu]
    · rw [dieSlots_run p hp, State.slotAlone_of_plan hjob hu h, State.takeSlot]
    · rw [dieSlots_run p hp, State.slotAlone_of_plan hjob hu h, State.takeSlot]
    · rw [dieSlots_run p hp, State.slotAlone_of_plan hjob hu h, State.takeSlot]
    · rw [dieSlots_run p hp, State.slotAlone_of_plan hjob hu h, State.takeSlot]
    · rintro t rfl
      have hjob' : (s.fenceTried d arg).job.state ≠ .held := s.fenceTried_job d arg ▸ hjob
      refine ⟨fun u hu => ?_, fun u r hu => ⟨fun h => ?_, fun h => ?_⟩⟩
      · rw [exec_cfence_eq d arg hjob, State.slotAlone_of_asleep hjob' hu]
      · rw [exec_cfence_eq d arg hjob, State.slotAlone_of_plan hjob' hu h, State.takeSlot]
      · rw [exec_cfence_eq d arg hjob, State.slotAlone_of_plan hjob' hu h, State.takeSlot]

/-- Settles O29: a slot whose reading goes issues (`slotAlone_of_plan`). -/
theorem dieSlotsIssue : Obligations.DieSlotsIssue := by
  intro s u d arg r hjob
  refine ⟨fun p hp hu h => ?_, fun hu h => ?_⟩
  · rw [dieSlots_run p hp, State.slotAlone_of_plan hjob hu h]
    rfl
  · rw [exec_cfence_eq d arg hjob, State.slotAlone_of_plan (s.fenceTried_job d arg ▸ hjob) hu h]
    rfl

end Sys2Proof.Machine

/-! PROOFS. The stream of a die (R44 to R63): a bundle that is read issues as a whole, waits or faults; the control operations alone in
a bundle; and a `SYNC` that completes. -/

namespace Sys2Proof.Machine

/-! ### Bundles -/

section
variable {s u : State} {d : Nat} {b : Bundle} {t0 r : Nat}

/-- A bundle that closes no window, in the first cycle that freeze duty leaves it. -/
theorem State.tryBundle_of_firstIssue (hctl : b.ctl ≠ 4) (h : s.firstIssue d t0) : s.tryBundle d b =
    match s.wakeNeeded t0 (s.bundleNeeds d b) with
    | .hold s => s.holdBundle d 1 3
    | .from1 s ready =>
      match waitLevel (s.slotPlans d b) (s.attempts d b) with
      | some l => (s.openCfence d b.fab).holdBundle d l 0
      | none =>
        match s.slotFault d b (s.slotPlans d b) (s.attempts d b) with
        | some t => t
        | none =>
          if b.ctl = 2 then s.syncBundle d b (s.attempts d b) ((s.thawed ready).getD ready)
          else s.issueAt d b (s.attempts d b) 1 3 ((s.thawed ready).getD ready) := by
  rw [State.firstIssue] at h
  simp only [State.tryBundle, hctl, if_false, h, decide_false, Bool.false_and, Bool.false_eq_true] <;> rfl

theorem State.tryBundle_of_frozen (hctl : b.ctl ≠ 4) (h : s.thawed (max (s.issueCycle d) (s.fetchReady d)) = none) :
    s.tryBundle d b = s.holdBundle d 3 2 := by
  simp only [State.tryBundle, hctl, if_false, h]

theorem State.tryBundle_of_go (hctl : b.ctl ≠ 4) (hsync : b.ctl ≠ 2) (h : s.firstIssue d t0)
    (hwake : s.wakeNeeded t0 (s.bundleNeeds d b) = .from1 u r) (hwait : waitLevel (u.slotPlans d b) (u.attempts d b) = none)
    (hfault : u.slotFault d b (u.slotPlans d b) (u.attempts d b) = none) :
    s.tryBundle d b = u.issueAt d b (u.attempts d b) 1 3 ((u.thawed r).getD r) := by
  rw [State.tryBundle_of_firstIssue hctl h]
  simp only [hwake, hwait, hfault, hsync, if_false]

theorem State.issueBundle_of_streams (hstream : s.streams d = true) (hin : (s.seq d).bundle < (s.bodyOf d).2) :
    s.issueBundle d = match s.rangeFault d (s.bundleAddr d) 128 with
      | some f => s.addrFault d f.2 (s.bundleAddr d)
      | none =>
        if s.bundleBad d (bundleOf (s.readLocal (s.bundleAddr d) 128)) || s.placeBad d (bundleOf (s.readLocal (s.bundleAddr d) 128)) then
          s.imageFault d
        else s.tryBundle d (bundleOf (s.readLocal (s.bundleAddr d) 128)) := by
  rw [State.issueBundle, if_neg (by simp [hstream, hin])] <;> rfl

end

/-- Settles O25: the bundle is read and checked (`issueBundle_of_streams`), then waits, faults or issues by what its slots find
(`tryBundle_of_firstIssue`). -/
theorem bundlesIssue : Obligations.BundlesIssue := by
  intro s d b hstream hin
  have hrun : exec (.bundleIssue d) s = .next ((s.issueBundle d).wakeColl).settle := rfl
  rw [hrun, State.issueBundle_of_streams hstream hin]
  refine ⟨fun f hf => by rw [hf], ?_⟩
  rintro hnone rfl
  rw [hnone]
  refine ⟨fun hbad => by simp only [hbad, if_true], fun hbad hsync hclose => ⟨fun hfrozen => ?_, fun t0 hfirst => ?_⟩⟩
  · simp only [hbad, Bool.false_eq_true, if_false, State.tryBundle_of_frozen hclose hfrozen]
  · refine ⟨fun u hu => ?_, fun u r hu => ⟨fun l hl => ?_, fun hgo => ⟨fun t ht => ?_, fun hfault => ?_⟩⟩⟩
    · simp only [hbad, Bool.false_eq_true, if_false, State.tryBundle_of_firstIssue hclose hfirst, hu]
    · simp only [hbad, Bool.false_eq_true, if_false, State.tryBundle_of_firstIssue hclose hfirst, hu, hl]
    · simp only [hbad, Bool.false_eq_true, if_false, State.tryBundle_of_firstIssue hclose hfirst, hu, hgo, ht]
    · simp only [hbad, Bool.false_eq_true, if_false, State.tryBundle_of_go hclose hsync hfirst hu hgo hfault]

/-! ### Control operations -/

section
variable {s u : State} {d : Nat} {ctl operand t0 r : Nat}

theorem State.attempts_of_control (s : State) (d ctl operand : Nat) : s.attempts d { ctl := ctl, operand := operand } = [] := rfl

theorem State.slotPlans_of_control (s : State) (d operand : Nat) {ctl : Nat} (h : ctl ≠ 3) :
    s.slotPlans d { ctl := ctl, operand := operand } = [] := by simp [State.slotPlans, h]

/-- A bundle of a control operation alone needs no part, but for what a `CLEAR_OPEN` reads. -/
theorem State.bundleNeeds_of_control (s : State) (d operand key : Nat) {ctl : Nat} (h : ctl ≠ 3) :
    s.bundleNeeds d { ctl := ctl, operand := operand } key = false := by
  have hused : Bundle.used { ctl := ctl, operand := operand } = [] := rfl
  simp [State.bundleNeeds, State.slotsNeed, hused, State.slotPlans_of_control _ _ _ h]

theorem State.wakeNeeded_of_no_need (s : State) (t : Nat) {needs : Nat → Bool} (h : ∀ k, needs k = false) :
    s.wakeNeeded t needs = .from1 s t := by
  have hnone : (s.sleepers t).filter needs = [] := by simp [h]
  simp [State.wakeNeeded, hnone]

/-- The first cycle that freeze duty leaves is one that it leaves. -/
theorem State.thawed_of_thawed {t : Nat} (h : s.thawed t = some t0) : s.thawed t0 = some t0 := by
  unfold State.thawed at h ⊢
  split at h
  · cases h
  · next hduty =>
    simp only [hduty, if_false, Option.some.injEq] at h ⊢
    split at h
    · rw [if_neg]; omega
    · next hfree => rw [← h, if_neg hfree]

theorem State.issueAt_of_control (s : State) (d operand level cause t : Nat) {ctl : Nat} (h : ctl ≠ 5) :
    s.issueAt d { ctl := ctl, operand := operand } [] level cause t = (s.stepped d level cause t).doControl d ctl operand t := by
  have haccept (u : State) : u.acceptSlots d { ctl := ctl, operand := operand } [] = u := by simp [State.acceptSlots, h]
  simp only [State.issueAt, haccept]
  rfl

/-- A control operation that reads nothing and waits for nothing issues in the first cycle that freeze duty leaves it. -/
theorem State.tryBundle_of_control (h : ctl = 1 ∨ ctl = 6) (hfirst : s.firstIssue d t0) :
    s.tryBundle d { ctl := ctl, operand := operand } = (s.stepped d 1 3 t0).doControl d ctl operand t0 := by
  have h3 : ctl ≠ 3 := by omega
  have hplans := State.slotPlans_of_control s d operand h3
  rw [State.tryBundle_of_go (by dsimp only; omega) (by dsimp only; omega) hfirst
    (State.wakeNeeded_of_no_need s t0 fun k => s.bundleNeeds_of_control d operand k h3)
    (by rw [hplans]; rfl) (by rw [hplans]; rfl), State.thawed_of_thawed hfirst]
  exact s.issueAt_of_control d operand 1 3 t0 (by omega)

theorem State.controlAlone_of_ok {v : BitVec 24} (hmay : s.mayControl d) (hbad : s.ctlBad d ctl v.toNat = false) :
    s.controlAlone d ctl v = s.tryBundle d { ctl := ctl, operand := v.toNat } := by
  obtain ⟨hjob, hwaiting⟩ := hmay
  rw [State.controlAlone, if_neg (by simp [hjob, hwaiting]), if_neg (by simp [hbad])]

/-- A `CLEAR_CLOSE` waits while an item of its window is not done. -/
theorem State.tryBundle_close_of_wait {w : Window} (hw : ((s.grantTakes d (s.issueCycle d)).seq d).window = some w)
    (hfirst : (s.grantTakes d (s.issueCycle d)).firstIssue d t0)
    (hdone : (s.grantTakes d (s.issueCycle d)).windowDone d w = false) :
    s.tryBundle d { ctl := 4, operand := operand } = (s.grantTakes d (s.issueCycle d)).holdBundle d 2 windowWait := by
  rw [State.firstIssue] at hfirst
  simp [State.tryBundle, hfirst, hw, hdone]

theorem State.tryBundle_close {w : Window} (hw : ((s.grantTakes d (s.issueCycle d)).seq d).window = some w)
    (hfirst : (s.grantTakes d (s.issueCycle d)).firstIssue d t0)
    (hdone : (s.grantTakes d (s.issueCycle d)).windowDone d w = true) :
    s.tryBundle d { ctl := 4, operand := operand } = ((s.grantTakes d (s.issueCycle d)).stepped d 2 windowWait
      (max t0 (max (w.openAt + w.length) w.lastEnd))).doControl d 4 operand (max t0 (max (w.openAt + w.length) w.lastEnd)) := by
  have hthawed := State.thawed_of_thawed hfirst
  rw [State.firstIssue] at hfirst
  have hwake := State.wakeNeeded_of_no_need (s.grantTakes d (s.issueCycle d)) t0
    fun k => State.bundleNeeds_of_control (s.grantTakes d (s.issueCycle d)) d operand k (ctl := 4) (by decide)
  have hplans := State.slotPlans_of_control (s.grantTakes d (s.issueCycle d)) d operand (ctl := 4) (by decide)
  simp only [State.tryBundle, if_true, hfirst, hw, hdone, hwake, hplans, State.attempts_of_control, Option.any_some, Bool.not_true,
    Bool.and_false, Bool.false_eq_true, if_false, hthawed, Option.getD_some]
  exact State.issueAt_of_control (ctl := 4) _ d operand 2 windowWait _ (by decide)

end

/-- Settles O26: a control operation that its checks accept is the only slot of its bundle (`controlAlone_of_ok`), and issues or waits as
`tryBundle` says. -/
theorem controlsIssue : Obligations.ControlsIssue := by
  refine fun s d v t0 hmay => ⟨fun hfirst => ⟨fun hbad => ?_, fun hbad u r t1 hwake hplan ht1 => ?_, ?_⟩,
    fun g w hg hopen hw hfirst => ⟨fun hdone => ?_, fun hdone => ?_⟩, fun u r hu hok => ?_⟩
  · have hrun : exec (.tickWait d v) s = .next (s.controlAlone d 1 v).settle := rfl
    rw [hrun, State.controlAlone_of_ok hmay hbad, State.tryBundle_of_control (.inl rfl) hfirst]
    exact ⟨_, rfl, rfl⟩
  · have hrun : exec (.clearOpen d v) s = .next (s.controlAlone d 3 v).settle := rfl
    have hplans : u.slotPlans d { ctl := 3, operand := v.toNat } = [.ok] := by rw [← hplan]; rfl
    rw [hrun, State.controlAlone_of_ok hmay hbad, State.tryBundle_of_go (show 3 ≠ 4 by decide) (show 3 ≠ 2 by decide) hfirst hwake
      (by rw [hplans]; rfl) (by rw [hplans]; rfl), ← ht1, State.attempts_of_control, State.issueAt_of_control _ _ _ _ _ _ (by decide)]
    rfl
  · have hrun : exec (.jobEnd d) s = .next (s.controlAlone d 6 0).settle := rfl
    rw [hrun, State.controlAlone_of_ok hmay rfl, State.tryBundle_of_control (.inr rfl) hfirst]
    exact ⟨_, rfl, rfl⟩
  · have hrun : exec (.clearClose d) s = .next (s.controlAlone d 4 0).settle := rfl
    subst hg
    rw [hrun, State.controlAlone_of_ok hmay (by simp [State.ctlBad, ← Option.not_isSome, hopen]), State.tryBundle_close hw hfirst hdone]
    exact ⟨_, _, rfl, rfl, rfl⟩
  · have hrun : exec (.clearClose d) s = .next (s.controlAlone d 4 0).settle := rfl
    subst hg
    rw [hrun, State.controlAlone_of_ok hmay (by simp [State.ctlBad, ← Option.not_isSome, hopen]),
      State.tryBundle_close_of_wait hw hfirst hdone]
  · obtain ⟨hjob, -⟩ := hmay
    have hrun : exec (.collIssue d v) s =
        .next (s.slotAlone d 5 [] (·.planCollIssue d v) (fun s => s.issueColl d v.toNat)).settle := rfl
    rw [hrun, State.slotAlone_of_plan hjob hu hok]
    rfl

/-! ### What a bundle's wait leaves of a sequencer -/

/-- Two sequencers differ in what holds a bundle and in the stalls that are counted alone. -/
def Seq.stalledFrom (q p : Seq) : Prop := q = { p with blocked := q.blocked, stalls := q.stalls }

theorem Seq.stalledFrom.refl (p : Seq) : p.stalledFrom p := rfl

theorem Seq.stalledFrom.trans {p q r : Seq} (h : q.stalledFrom p) (k : r.stalledFrom q) : r.stalledFrom p := by
  rw [Seq.stalledFrom] at *
  rw [k, h]

theorem State.stall_seq (s : State) (d l c k : Nat) : ((s.stall d l c k).seq d).stalledFrom (s.seq d) := by
  unfold State.stall
  split
  · exact Seq.stalledFrom.refl _
  · dsimp only
    rw [State.seq_setSeq, State.seq_of_same ((s.count_same _ _).trans (State.count_same _ _ _)) (by decide)]
    rfl

theorem State.setSeq_stalledFrom {s : State} {d : Nat} {p q : Seq} (h : (s.seq d).stalledFrom p) (hq : q.stalledFrom (s.seq d)) :
    ((s.setSeq d q).seq d).stalledFrom p := by
  rw [State.seq_setSeq]
  exact h.trans hq

theorem State.stallRest_seq (s : State) (d l c a b : Nat) : ((s.stallRest d l c a b).seq d).stalledFrom (s.seq d) := by
  unfold State.stallRest
  split
  · exact (s.stall_seq d 2 0 _).trans (State.stall_seq _ d 2 1 _)
  · exact s.stall_seq d l c _

theorem State.stallSpan_seq (s : State) (d l c a b : Nat) : ((s.stallSpan d l c a b).seq d).stalledFrom (s.seq d) := by
  unfold State.stallSpan
  split
  · exact Seq.stalledFrom.refl _
  · exact ((s.stall_seq d 3 2 _).trans (State.stall_seq _ d 2 5 _)).trans (State.stallRest_seq _ d l c _ b)

theorem State.countHeld_seq (s : State) (d t : Nat) : ((s.countHeld d t).seq d).stalledFrom (s.seq d) := by
  unfold State.countHeld
  split
  · exact Seq.stalledFrom.refl _
  · next l c since _ => exact State.setSeq_stalledFrom (s.stallSpan_seq d l c since t) rfl

theorem State.endHold_seq (s : State) (d l c t : Nat) : ((s.endHold d l c t).seq d).stalledFrom (s.seq d) :=
  State.setSeq_stalledFrom ((s.countHeld_seq d _).trans (State.stallSpan_seq _ d l c _ t)) rfl

/-! ### A `SYNC` that completes -/

/-- R55: when a die arrived at its `SYNC` with an identifier, if it waits there. -/
def State.arrivedAt (s : State) (id e : Nat) : Option Nat :=
  match (s.seq e).sync with
  | some (_, i, a) => if i = id && (s.seq e).syncAt.isNone then some a else none
  | none => none

/-- R55: the dies of a list are let go at a cycle. -/
def State.letGo (s : State) (go : Nat) (l : List Nat) : State :=
  l.foldl (fun (s : State) e => s.setSeq e { s.seq e with syncAt := some go }) s

theorem State.letGo_same (s : State) (go : Nat) (l : List Nat) : sameBut [.seqs] s (s.letGo go l) :=
  sameBut.fold (fun s _ => s.setSeq_same _ _) l s

theorem State.letGo_seq (go : Nat) (l : List Nat) (s : State) (e : Nat) :
    (s.letGo go l).seq e = if e ∈ l then { s.seq e with syncAt := some go } else s.seq e := by
  unfold State.letGo
  induction l generalizing s with
  | nil => simp
  | cons a l ih =>
    rw [List.foldl_cons, ih]
    by_cases he : e = a
    · subst he
      simp only [State.seq_setSeq, List.mem_cons, true_or, if_true]
      split <;> rfl
    · rw [State.seq_setSeq_other _ _ _ _ he]
      simp only [List.mem_cons, he, false_or]

theorem maskBits_bitsOf (v : Nat) : maskBits 4 (bitsOf v 0 4) = maskBits 4 v := by
  refine List.filter_congr fun e he => ?_
  have he : e < 4 := List.mem_range.1 he
  simp only [bitsOf, Nat.shiftRight_zero, Nat.testBit_mod_two_pow, he, decide_true, Bool.true_and]

theorem State.arriveSync_of_first {s : State} {d v t : Nat} (h : (s.seq d).sync = none) {u : State}
    (hu : u = s.setSeq d { s.seq d with sync := some (bitsOf v 0 4, bitsOf v 8 8, t) }) :
    s.arriveSync d v t = if (maskBits 4 v).all (fun e => (u.arrivedAt (bitsOf v 8 8) e).isSome) then
      u.letGo (((maskBits 4 v).filterMap (u.arrivedAt (bitsOf v 8 8))).foldl max 0 + 5) (maskBits 4 v) else u := by
  subst hu
  simp only [State.arriveSync, h, maskBits_bitsOf]
  rfl

/-- The die that completes a `SYNC` lets every die of its mask go 5 cc after the last arrival. -/
theorem State.arriveSync_of_last {s : State} {d v t : Nat} {at4 : Nat → Nat} (hsync : (s.seq d).sync = none)
    (hat : (s.seq d).syncAt = none) (hd : at4 d = t) (hothers : ∀ e, e < 4 → e ≠ d → v.testBit e = true →
      (s.seq e).syncAt = none ∧ ∃ m, (s.seq e).sync = some (m, bitsOf v 8 8, at4 e)) :
    s.arriveSync d v t = (s.setSeq d { s.seq d with sync := some (bitsOf v 0 4, bitsOf v 8 8, t) }).letGo
      (((maskBits 4 v).map at4).foldl max 0 + 5) (maskBits 4 v) := by
  have harrived : ∀ e ∈ maskBits 4 v, (s.setSeq d { s.seq d with
      sync := some (bitsOf v 0 4, bitsOf v 8 8, t) }).arrivedAt (bitsOf v 8 8) e = some (at4 e) := by
    intro e he
    obtain ⟨he4, hbit⟩ := mem_maskBits.1 he
    by_cases hed : e = d
    · subst hed
      simp [State.arrivedAt, hat, hd]
    · obtain ⟨hnone, m, hm⟩ := hothers e he4 hed hbit
      simp [State.arrivedAt, State.seq_setSeq_other _ _ _ _ hed, hm, hnone]
  rw [State.arriveSync_of_first hsync rfl, if_pos (List.all_eq_true.2 fun e he => by rw [harrived e he]; rfl),
    List.filterMap_congr harrived, List.filterMap_eq_map']

theorem State.stepped_same (s : State) (d level cause t : Nat) : sameBut [.clk, .seqs, .ctr] s (s.stepped d level cause t) :=
  (((s.endHold_same d level cause t).weaken (by decide)).trans ((State.reach_same _ t).weaken (by decide))).trans
    ((State.setSeq_same _ d _).weaken (by decide))

theorem State.stepped_cc (s : State) (d level cause t : Nat) : (s.stepped d level cause t).cc = max s.cc t := by
  have hclk : (s.endHold d level cause t).clk = s.clk := s.endHold_same d level cause t .clk (by decide)
  rw [State.stepped, State.cc, State.setSeq_clk, State.reach, hclk]
  rfl

theorem State.endHold_other (s : State) (d l c t : Nat) : sameOtherSeqs d s (s.endHold d l c t) :=
  ((s.countHeld_other d _).trans (State.stallSpan_other _ d l c _ t)).trans (State.setSeq_other _ _ _)

theorem State.stepped_other (s : State) (d level cause t : Nat) : sameOtherSeqs d s (s.stepped d level cause t) :=
  (s.endHold_other d level cause t).trans (State.setSeq_other _ d _)

theorem State.stepped_seq (s : State) (d level cause t : Nat) : ((s.stepped d level cause t).seq d).bundle = (s.seq d).bundle + 1 ∧
    ((s.stepped d level cause t).seq d).freeAt = t + 1 := by
  have hheld : ((s.endHold d level cause t).seq d).bundle = (s.seq d).bundle := by rw [s.endHold_seq d level cause t]
  have hreach : ((s.endHold d level cause t).reach t).seq d = (s.endHold d level cause t).seq d := rfl
  rw [State.stepped, State.seq_setSeq, hreach, hheld]
  exact ⟨rfl, rfl⟩

/-- The bundle of a die whose `SYNC` is let go at once issues in that cycle. -/
theorem State.syncBundle_of_letGo {s p : State} {d v t go : Nat} (hsync : (s.seq d).sync = none)
    (hp : p = (s.unblock d t).arriveSync d v t) (hgo : (p.seq d).syncAt = some go) :
    s.syncBundle d { ctl := 2, operand := v } [] t =
      ((p.setSeq d { p.seq d with blocked := some (3, 4, t) }).stepped d 3 4 go).doControl d 2 v go := by
  have hissue := State.issueAt_of_control (ctl := 2) (p.setSeq d { p.seq d with blocked := some (3, 4, t) }) d v 3 4 go (by decide)
  rw [State.syncBundle, ← hissue]
  simp [hsync, ← hp, hgo]

/-- Settles O27: the arrival completes the `SYNC` (`arriveSync_of_last`), and the bundle issues at the release. -/
theorem syncReleasesTogether : Obligations.SyncReleasesTogether := by
  intro s d v t0 at4 hmay hfirst hbad hsync hat hd hothers
  have hmember : v.toNat.testBit d = true := by
    simp only [State.ctlBad, Bool.or_eq_false_iff, Bool.not_eq_false'] at hbad
    exact hbad.1.2
  have hdies : d.val ∈ maskBits 4 v.toNat := mem_maskBits.2 ⟨d.isLt, hmember⟩
  have hplans := State.slotPlans_of_control s d v.toNat (ctl := 2) (by decide)
  have hwake := State.wakeNeeded_of_no_need s t0 fun k => State.bundleNeeds_of_control s d v.toNat k (ctl := 2) (by decide)
  have hrun : exec (.sync d v) s = .next (s.syncBundle d { ctl := 2, operand := v.toNat } [] t0).settle := by
    have hcontrol : exec (.sync d v) s = .next (s.controlAlone d 2 v).settle := rfl
    rw [hcontrol, State.controlAlone_of_ok hmay hbad, State.tryBundle_of_firstIssue (show 2 ≠ 4 by decide) hfirst]
    simp only [hwake, hplans, State.attempts_of_control, State.thawed_of_thawed hfirst]
    rfl
  obtain ⟨hblock, hblocked⟩ : sameBut [.seqs, .ctr] s (s.unblock d t0) ∧ sameOtherSeqs d s (s.unblock d t0) :=
    ⟨s.unblock_same d t0, s.unblock_other d t0⟩
  have hstalled : ((s.unblock d t0).seq d).stalledFrom (s.seq d) := s.endHold_seq d 1 3 t0
  have hlast := State.arriveSync_of_last (s := s.unblock d t0) (d := d) (v := v.toNat) (by rw [hstalled]; exact hsync)
    (by rw [hstalled]; exact hat) hd fun e he4 hed hbit => by rw [hblocked e hed]; exact hothers e he4 hed hbit
  generalize hgo : ((maskBits 4 v.toNat).map at4).foldl max 0 + 5 = go at hlast
  generalize hu : (s.unblock d t0).setSeq d { (s.unblock d t0).seq d with
    sync := some (bitsOf v.toNat 0 4, bitsOf v.toNat 8 8, t0) } = u at hlast
  have huseq : (u.seq d).bundle = (s.seq d).bundle := by rw [← hu, State.seq_setSeq, hstalled]
  have hus : sameBut [.seqs, .ctr] s u := hu ▸ hblock.trans ((State.setSeq_same _ _ _).weaken (by decide))
  have hletgo := u.letGo_same go (maskBits 4 v.toNat)
  have hsyncs := State.letGo_seq go (maskBits 4 v.toNat) u
  rw [State.syncBundle_of_letGo hsync hlast.symm (by rw [hsyncs, if_pos hdies])] at hrun
  generalize u.letGo go (maskBits 4 v.toNat) = p at hrun hletgo hsyncs
  generalize hq : p.setSeq d { p.seq d with blocked := some (3, 4, t0) } = q at hrun
  have hsq : sameBut [.seqs, .ctr] s q :=
    hq ▸ (hus.trans (hletgo.weaken (by decide))).trans ((State.setSeq_same _ _ _).weaken (by decide))
  obtain ⟨hbundle, hfree⟩ := q.stepped_seq d 3 4 go
  have hstep := q.stepped_same d 3 4 go
  refine ⟨go, _, rfl, hrun, ?_, ?_, ?_, ?_, ?_, fun e he4 hed hbit => ?_, ?_⟩
  · rw [State.doControl, State.seq_setSeq]
  · rw [State.doControl, State.seq_setSeq]
  · rw [State.doControl, State.seq_setSeq]
    refine hbundle.trans ?_
    rw [← hq, State.seq_setSeq, hsyncs, if_pos hdies, huseq]
  · rw [State.doControl, State.seq_setSeq]
    exact hfree
  · have hclk : q.clk = s.clk := hsq .clk (by decide)
    exact (q.stepped_cc d 3 4 go).trans (by rw [State.cc, hclk]; rfl)
  · rw [State.doControl, State.seq_setSeq_other _ _ _ _ hed, q.stepped_other d 3 4 go e hed, ← hq,
      State.seq_setSeq_other _ _ _ _ hed, hsyncs, if_pos (mem_maskBits.2 ⟨he4, hbit⟩)]
  · exact ((hsq.weaken (by decide)).trans hstep).trans ((State.setSeq_same _ _ _).weaken (by decide))

end Sys2Proof.Machine

/-! PROOFS. What a cluster takes from a list (R61, R145), and the queues of the copy engine (R298). -/

namespace Sys2Proof.Machine

/-! ### Entries of a list -/

theorem getD_set (regs : Vector Word 32) {r : Nat} (hr : r < 32) (v : Word) (q : Nat) :
    (regs.set! r v).getD q 0 = if q = r then v else regs.getD q 0 := by
  by_cases hqr : q = r
  · simp [Vector.getD, Array.getD_eq_getD_getElem?, hqr, hr]
  · simp [Vector.getD, Array.getD_eq_getD_getElem?, hqr, Ne.symm hqr]

theorem itemRegs_getD (e : List Byte) (q i : Nat) {r : Nat} (h : r < 32) : (itemRegs e q i).getD r 0 =
    if r = 5 then BitVec.ofNat 64 (q * 65536 + i) else if r = 4 then BitVec.ofNat 64 (field e 24 8)
    else if r = 3 then BitVec.ofNat 64 (field e 16 8) else if r = 2 then BitVec.ofNat 64 (field e 8 8)
    else if r = 1 then BitVec.ofNat 64 (field e 0 8) else 0 := by
  have hzero : (Vector.replicate 32 (0 : Word)).getD r 0 = 0 := by simp [Vector.getD, h]
  simp only [itemRegs, getD_set _ (by decide : 1 < 32), getD_set _ (by decide : 2 < 32), getD_set _ (by decide : 3 < 32),
    getD_set _ (by decide : 4 < 32), getD_set _ (by decide : 5 < 32), hzero]

/-- R145: a core at the start of an item. -/
def State.startCore (s : State) (n : Nat) (e : List Byte) (j i k at1 core : Nat) : Core :=
  { regs := itemRegs e j i, pc := kernelStart (s.kernels (n / 16)) k core, running := true
    freeAt := at1 + if j = n % 16 / 4 then 6 else 24 }

/-- What a cluster leaves that takes an entry which its kernel table knows. -/
theorem State.takeItem_of_entry {s : State} {at1 n j : Nat} {w : Window} (hw : (s.seq (n / 16)).window = some w)
    (hmember : w.clusters.testBit (n % 16) = true) (hidle : (s.cluster n).item.isNone = true)
    (hlist : w.listFor (n % 16 / 4) = some j) {e : List Byte} {i : Nat} (hi : i = w.next.getD j 0)
    (he : e = getBlock zeroByte (windowBase (n / 16) + (w.lists.getD j (0, 0)).1 + 32 + 32 * i) 32 s.sram)
    (hkernel : field e 28 2 < kernelCount (s.kernels (n / 16))) (hflags : field e 30 2 < 2) :
    s.takeItem at1 n = (s.setSeq (n / 16) { s.seq (n / 16) with
        window := some { w with next := w.next.set j (i + 1) } }).setCluster n
      { (s.cluster n).zeroSlots (kernelMask (s.kernels (n / 16)) (field e 28 2)) with
        item := some ⟨j, i, field e 28 2, e⟩
        cores := ((s.cluster n).zeroSlots (kernelMask (s.kernels (n / 16)) (field e 28 2))).cores.mapIdx (fun core (_ : Core) =>
          s.startCore n e j i (field e 28 2) at1 core) } := by
  have hnone : (s.cluster n).item.isSome = false := by rw [← Option.not_isNone, hidle]; rfl
  subst hi he
  simp only [State.takeItem, hw, hmember, hnone, hlist, Bool.not_true, Bool.or_false, Bool.false_eq_true, if_false, Bool.or_eq_true,
    decide_eq_true_eq, Nat.not_le.2 hkernel, Nat.not_le.2 hflags, or_self, State.startCore]

/-- Settles O28: the state after the take is given whole (`takeItem_of_entry`), and its registers are those of the entry
(`itemRegs_getD`). -/
theorem clustersTakeEntries : Obligations.ClustersTakeEntries := by
  rintro s at1 n j w hw hmember hidle hlist e i k hi he rfl hkernel hflags
  refine ⟨_, State.takeItem_of_entry hw hmember hidle hlist hi he hkernel hflags, ?_, fun q =>
      ⟨s.startCore n e j i (field e 28 2) at1 q, by rw [State.cluster_setCluster]; simp [State.startCore, Cluster.core, Vector.getD], ?_⟩, ?_, fun m hm => ?_,
    fun d hd => ?_, ?_⟩
  · rw [State.cluster_setCluster]
  · have hreg (c : Core) {r : Nat} (hr : r ≠ 0) (hc : c.regs = itemRegs e j i) : c.reg r = (itemRegs e j i).getD r 0 := by
      rw [Core.reg, if_neg hr, hc]
    have hget {r : Nat} (h : r < 32) := itemRegs_getD e j i h
    refine ⟨rfl, rfl, rfl, rfl, rfl, rfl, (hreg _ (by decide) rfl).trans (hget (r := 1) (by decide)),
      (hreg _ (by decide) rfl).trans (hget (r := 2) (by decide)), (hreg _ (by decide) rfl).trans (hget (r := 3) (by decide)),
      (hreg _ (by decide) rfl).trans (hget (r := 4) (by decide)), (hreg _ (by decide) rfl).trans (hget (r := 5) (by decide)),
      fun r h5 h32 => ?_⟩
    rw [hreg _ (by omega) rfl, hget h32]
    repeat rw [if_neg (by omega)]
  · rw [show ∀ (t : State) c, (t.setCluster n c).seq (n / 16) = t.seq (n / 16) from fun _ _ => rfl, State.seq_setSeq]
  · rw [State.cluster_setCluster_other _ _ _ _ hm]
    rfl
  · rw [show ∀ (t : State) c, (t.setCluster n c).seq d = t.seq d from fun _ _ => rfl, State.seq_setSeq_other _ _ _ _ hd]
  · exact ((s.setSeq_same _ _).weaken (by decide)).trans ((State.setCluster_same _ _ _).weaken (by decide))

/-! ### Copy queues -/

theorem Tab.get_drop_same {V : Type} (d : V) (k : Nat) (m : Tab V) : Tab.get d k (Tab.drop k m) = d := by
  have hnone : Tab.find k (Tab.drop k m) = none := Tab.find_eq_none (by simp [Tab.drop])
  rw [Tab.get, hnone]
  rfl

theorem State.copyQueue_setCopyQueue (s : State) (d q : Nat) (l : List CopyOp) : (s.setCopyQueue d q l).copyQueue d q = l := by
  unfold State.copyQueue State.setCopyQueue
  dsimp only
  split
  · next h => rw [Tab.get_drop_same, List.isEmpty_iff.1 h]
  · exact Tab.get_put_same _ _ _ _

theorem State.setCopyQueue_same (s : State) (d q : Nat) (l : List CopyOp) : sameBut [.copies] s (s.setCopyQueue d q l) := by
  intro f hf
  cases f <;> simp [Field.same, State.setCopyQueue] at hf ⊢

/-- The members that the start of a copy operation may change. -/
def copyStartFields : List Field := [.copies, .ctr, .power, .hbmStacks]

theorem State.startCopy_same (s : State) (d q : Nat) : sameBut copyStartFields s (s.startCopy d q) := by
  unfold State.startCopy
  split
  · exact sameBut.refl _ _
  · split
    · exact sameBut.refl _ _
    · split
      · exact sameBut.refl _ _
      · exact ((((s.count_same _ _).trans (State.count_same _ _ _)).weaken (by decide)).trans
          ((State.wakeRanges_same _ _).weaken (by decide))).trans ((State.setCopyQueue_same _ _ _ _).weaken (by decide))

/-- The start of a copy operation leaves the operations of its queue in place. -/
theorem State.startCopy_copyQueue (s : State) (d q : Nat) :
    ((s.startCopy d q).copyQueue d q).length = (s.copyQueue d q).length ∧
      ((s.startCopy d q).copyQueue d q).map (·.op) = (s.copyQueue d q).map (·.op) := by
  unfold State.startCopy
  split
  · exact ⟨rfl, rfl⟩
  · next o rest h =>
    split
    · exact ⟨rfl, rfl⟩
    · split
      · exact ⟨rfl, rfl⟩
      · rw [State.copyQueue_setCopyQueue, h]
        exact ⟨rfl, rfl⟩

theorem State.endCopy_of_started {s : State} {d q : Nat} {o : CopyOp} {rest : List CopyOp} (hq : s.copyQueue d q = o :: rest)
    (hstarted : o.started = true) (hop : o.op = 1 ∨ o.op = 2) : ∃ u, u = ((s.reach o.due).landRanked 2 q o.effects).setCopyQueue d q rest ∧
      s.endCopy d q = (if (u.copyOps d).isEmpty then u.count (cCopyBusy d) (u.cc - o.since) else u).startCopy d q := by
  refine ⟨_, rfl, ?_⟩
  have hop3 : o.op ≠ 3 := by omega
  simp only [State.endCopy, hq, hstarted, Bool.not_true, Bool.false_eq_true, if_false]
  split
  · next h _ => exact absurd h hop3
  · rfl

end Sys2Proof.Machine

/-! PROOFS. Operations of the copy engine and of a Sillage join their queues, start and end (R189, R297 to R301): what a copy operation takes
does not rest on the queues, the counters and the power states that its own start changes. -/

namespace Sys2Proof.Machine

/-! ### What a copy operation takes does not rest on the queues -/

theorem sameBut.symm {fs : List Field} {s t : State} (h : sameBut fs s t) : sameBut fs t s := by
  intro f hf
  have := h f hf
  cases f <;> exact Eq.symm this

/-- Where two states differ in some members alone, so do the states after a change of each, if what it changes beside those members is
changed alike. -/
theorem sameBut.after_both {fs gs : List Field} {s t s' t' : State} (h : sameBut fs s t) (hs : sameBut gs s s') (ht : sameBut gs t t')
    (halike : ∀ f ∈ gs, f ∉ fs → f.same s' t') : sameBut fs s' t' := by
  intro f hf
  by_cases hg : f ∈ gs
  · exact halike f hg hf
  · have hsame := h f hf
    have hs := hs f hg
    have ht := ht f hg
    cases f <;> simp only [Field.same] at * <;> rw [ht, hsame, hs]

theorem State.memoriesOf_of_same {s t : State} {fs : List Field} (h : sameBut fs s t)
    (hfs : ∀ f ∈ [Field.clk, .job, .fence, .und], f ∉ fs) (a len : Nat) : t.memoriesOf a len = s.memoriesOf a len := by
  simp only [State.memoriesOf, State.place_of_same h hfs]

/-- The members that the wake-up of a memory neither reads nor leaves to be read. -/
def wakeFree : List Field := [.copies, .ctr, .hbmStacks]

section
variable {s t : State}

theorem State.wakeKey_wakeFree (h : sameBut wakeFree s t) (key : Nat) : sameBut wakeFree (s.wakeKey key) (t.wakeKey key) := by
  refine h.after_both (s.wakeKey_wake key) (t.wakeKey_wake key) fun f hf hout => ?_
  obtain rfl : f = .power := by simp [wakeFields, wakeFree] at hf hout; tauto
  have hpower : t.power = s.power := h .power (by decide)
  have hclk : t.clk = s.clk := h .clk (by decide)
  unfold State.wakeKey
  rw [hpower]
  dsimp only [Field.same]
  split
  · exact hpower
  · next k since _ =>
    have hcount (u : State) (a b : Nat) : (u.countState key a since b).power = u.power ∧ (u.countState key a since b).clk = u.clk :=
      ⟨u.count_same _ _ .power (by decide), u.count_same _ _ .clk (by decide)⟩
    simp only [State.setPower, hcount, State.wakeStart, State.cc, hpower, hclk]

theorem State.partState_of_wakeFree (h : sameBut wakeFree s t) (key : Nat) : t.partState key = s.partState key := by
  have hpower : t.power = s.power := h .power (by decide)
  rw [State.partState, hpower, State.partState]

theorem State.wakeDie_wakeFree (h : sameBut wakeFree s t) (d : Nat) : sameBut wakeFree (s.wakeDie d) (t.wakeDie d) := by
  unfold State.wakeDie
  rw [State.partState_of_wakeFree h]
  split
  · have hkey := State.wakeKey_wakeFree h (stateKey 3 d)
    exact ((State.refreshAlone_same _ d false).symm.weaken (by decide)).trans
      (hkey.trans ((State.refreshAlone_same _ d false).weaken (by decide)))
  · exact h

theorem State.wakeRegion_wakeFree (h : sameBut wakeFree s t) (r : Nat) : sameBut wakeFree (s.wakeRegion r) (t.wakeRegion r) :=
  State.wakeKey_wakeFree (State.wakeDie_wakeFree h _) _

theorem State.wakeCluster_wakeFree (h : sameBut wakeFree s t) (n : Nat) : sameBut wakeFree (s.wakeCluster n) (t.wakeCluster n) := by
  refine State.wakeKey_wakeFree ?_ _
  unfold State.wakeAround
  rw [State.partState_of_wakeFree h]
  split
  · exact State.wakeRegion_wakeFree h _
  · exact h

theorem State.wakeUp_wakeFree (h : sameBut wakeFree s t) (key : Nat) : sameBut wakeFree (s.wakeUp key) (t.wakeUp key) := by
  unfold State.wakeUp
  dsimp only
  split
  · exact State.wakeKey_wakeFree (State.wakeCluster_wakeFree h _) _
  · exact State.wakeCluster_wakeFree h _
  · exact State.wakeRegion_wakeFree h _
  · exact State.wakeDie_wakeFree h _
  · exact State.wakeKey_wakeFree (State.wakeCluster_wakeFree h _) _
  · exact State.wakeKey_wakeFree (State.wakeDie_wakeFree h _) _

theorem State.accessKey_wakeFree (h : sameBut wakeFree s t) (key : Nat) : sameBut wakeFree (s.accessKey key) (t.accessKey key) := by
  have hcounted (u : State) : ∃ v, u.accessKey key = v ∧ sameBut [.ctr] (if u.asleep key then u.wakeUp key else u) v := by
    refine ⟨_, rfl, ?_⟩
    unfold State.accessKey
    dsimp only
    split
    · split
      · exact State.count_same _ _ _
      · exact sameBut.refl _ _
    · exact sameBut.refl _ _
  obtain ⟨s', hs', hs⟩ := hcounted s
  obtain ⟨t', ht', ht⟩ := hcounted t
  rw [hs', ht']
  refine ((hs.symm.weaken (by decide)).trans ?_).trans (ht.weaken (by decide))
  rw [State.asleep, State.asleep, State.partState_of_wakeFree h]
  split
  · exact State.wakeUp_wakeFree h key
  · exact h

theorem State.foldl_accessKey_wakeFree (h : sameBut wakeFree s t) (l : List Nat) :
    sameBut wakeFree (l.foldl State.accessKey s) (l.foldl State.accessKey t) := by
  induction l generalizing s t with
  | nil => exact h
  | cons k l ih => exact ih (State.accessKey_wakeFree h k)

theorem State.wakeRanges_wakeFree (h : sameBut wakeFree s t) (rs : List (Nat × Nat)) :
    sameBut wakeFree (s.wakeRanges rs) (t.wakeRanges rs) := by
  have hpower : t.power = s.power := h .power (by decide)
  unfold State.wakeRanges
  rw [hpower]
  split
  · exact h
  · simp only [State.memoriesOf_of_same h (by decide)]
    exact State.foldl_accessKey_wakeFree h _

theorem State.wakeWait_of_wakeFree (h : sameBut wakeFree s t) (rs : List (Nat × Nat)) : t.wakeWait rs = s.wakeWait rs := by
  have hpower : t.power = s.power := h .power (by decide)
  have hclk : t.clk = s.clk := h .clk (by decide)
  have hend (k : Nat) : t.wakeEnd k = s.wakeEnd k := by simp only [State.wakeEnd, State.readyAt, hpower]
  have hends : t.wakeEnd = s.wakeEnd := funext hend
  simp only [State.wakeWait, hpower, hends, State.memoriesOf_of_same h (by decide), State.cc, hclk]

end

/-! ### The lines that `MCACHE` moves -/

section
variable {s t : State}

theorem State.fillsLine_of_same (h : sameBut copyStartFields s t) (line : Nat) : t.fillsLine line = s.fillsLine line := by
  have hjob : t.job = s.job := h .job (by decide)
  have hfence : t.fence = s.fence := h .fence (by decide)
  have hund : t.und = s.und := h .und (by decide)
  have hparts : t.parts = s.parts := h .parts (by decide)
  have haccount (a : Nat) : t.accountOf a = s.accountOf a := by simp only [State.accountOf, State.segmentAt, hund, hjob]
  simp only [State.fillsLine, State.partServes, State.cacheQuotaFull, haccount, State.fenced, hjob, hfence, hund, hparts]

theorem State.lineOf_of_same (h : sameBut copyStartFields s t) (line : Nat) : t.lineOf line = s.lineOf line := by
  have hjob : t.job = s.job := h .job (by decide)
  have hparts : t.parts = s.parts := h .parts (by decide)
  simp only [State.lineOf, State.partKey, hjob, hparts]

theorem State.linesMoved_of_same (h : sameBut copyStartFields s t) (kind line : Nat) : t.linesMoved kind line = s.linesMoved kind line := by
  have hjob : t.job = s.job := h .job (by decide)
  have hparts : t.parts = s.parts := h .parts (by decide)
  simp only [State.linesMoved, State.lineOf_of_same h, State.fillsLine_of_same h, State.partKey, hjob, hparts]

theorem State.writeBackLines_same (s : State) (d : Nat) (cond : PartLine → Bool) :
    sameBut [.parts, .ctr] s (s.writeBackLines d cond) := by
  have hset (p : Tab (List PartLine)) : sameBut [.parts] s { s with parts := p } := fun f hf => by
    cases f <;> simp [Field.same] at hf ⊢
  exact ((hset _).weaken (by decide)).trans ((State.count_same _ _ _).weaken (by decide))

theorem State.dropLines_same (s : State) (d : Nat) (cond : PartLine → Bool) : sameBut [.parts] s (s.dropLines d cond) := fun f hf => by
  cases f <;> simp [Field.same, State.dropLines] at hf ⊢

theorem State.count_parts (s : State) (key k : Nat) : (s.count key k).parts = s.parts := s.count_same key k .parts (by decide)

/-- Where two states differ in members that a change of the partition does not read, so do the states that it leaves. -/
theorem sameBut.partition {s' t' : State} (h : sameBut copyStartFields s t) (hs : sameBut [.parts, .ctr] s s')
    (ht : sameBut [.parts, .ctr] t t') (hparts : t'.parts = s'.parts) : sameBut copyStartFields s' t' :=
  h.after_both hs ht fun f hf hout => by
    obtain rfl : f = .parts := by simp [copyStartFields] at hf hout; tauto
    exact hparts

theorem State.writeBackLines_copyStart (h : sameBut copyStartFields s t) (d : Nat) (cond : PartLine → Bool) :
    sameBut copyStartFields (s.writeBackLines d cond) (t.writeBackLines d cond) := by
  have hparts : t.parts = s.parts := h .parts (by decide)
  refine h.partition (s.writeBackLines_same d cond) (t.writeBackLines_same d cond) ?_
  simp only [State.writeBackLines, State.count_parts, hparts]

theorem State.maintainLine_copyStart (h : sameBut copyStartFields s t) (kind hint line : Nat) :
    sameBut copyStartFields (s.maintainLine kind hint line) (t.maintainLine kind hint line) := by
  have hjob : t.job = s.job := h .job (by decide)
  have hparts : t.parts = s.parts := h .parts (by decide)
  have hkey : t.partKey line = s.partKey line := by simp only [State.partKey, hjob]
  have hset (key : Nat) (l : List PartLine) : sameBut copyStartFields (s.setLines key l) (t.setLines key l) :=
    h.partition ((s.setLines_same key l).weaken (by decide)) ((t.setLines_same key l).weaken (by decide))
      (by simp only [State.setLines, hparts])
  unfold State.maintainLine
  dsimp only
  rw [State.lineOf_of_same h, State.fillsLine_of_same h, hkey, hparts]
  split
  · exact State.writeBackLines_copyStart h _ _
  · have hback := State.writeBackLines_copyStart h (line * 256 / stackSpan / 2) (fun l => l.line = line)
    have hkept : (t.writeBackLines (line * 256 / stackSpan / 2) (fun l => l.line = line)).parts =
        (s.writeBackLines (line * 256 / stackSpan / 2) (fun l => l.line = line)).parts := hback .parts (by decide)
    exact hback.partition ((State.dropLines_same _ _ _).weaken (by decide)) ((State.dropLines_same _ _ _).weaken (by decide))
      (by simp only [State.dropLines, hkept])
  · exact hset _ _
  · split
    · exact h
    · refine h.partition (s.fillLine_same _ _ _ _) (t.fillLine_same _ _ _ _) ?_
      simp only [State.fillLine]
      split
      · split
        · simp only [State.count_parts, State.setLines, hparts]
        · simp only [State.setLines, hparts]
      · simp only [State.setLines, hparts]
  · exact h

theorem State.cacheBytes_of_same (h : sameBut copyStartFields s t) (c : CopyDesc) : t.cacheBytes c = s.cacheBytes c := by
  have hfold (l : List Nat) (n : Nat) : (l.foldl (fun (p : State × Nat) l =>
      (p.1.maintainLine c.kind c.srcHint l, p.2 + p.1.linesMoved c.kind l)) (t, n)).2 = (l.foldl (fun (p : State × Nat) l =>
      (p.1.maintainLine c.kind c.srcHint l, p.2 + p.1.linesMoved c.kind l)) (s, n)).2 := by
    induction l generalizing s t n with
    | nil => rfl
    | cons a l ih =>
      simp only [List.foldl_cons, State.linesMoved_of_same h]
      exact ih (State.maintainLine_copyStart h _ _ _) _
  have hlines : t.hbmLines (c.reads 3) = s.hbmLines (c.reads 3) := by
    simp only [State.hbmLines, State.place_of_same h (by decide)]
  simp only [State.cacheBytes, hlines, hfold]

end

/-! ### A copy operation that starts and ends -/

section
variable {s t : State}

theorem State.copyTime_of_same (h : sameBut copyStartFields s t) (d op : Nat) (c : CopyDesc) : t.copyTime d op c = s.copyTime d op c := by
  simp only [State.copyTime, State.cacheBytes_of_same h, State.copyRate, State.pathRate, State.place_of_same h (by decide)]

theorem State.copyEffs_of_same (h : sameBut copyStartFields s t) (op : Nat) (c : CopyDesc) : t.copyEffs op c = s.copyEffs op c := by
  simp only [State.copyEffs, State.readLocal_of_same h (by decide)]

theorem State.startCopy_of_started {d q : Nat} {o : CopyOp} {rest : List CopyOp} (hq : s.copyQueue d q = o :: rest)
    (h : o.started = true) : s.startCopy d q = s := by
  simp only [State.startCopy, hq, h, if_true]

/-- The operation at the head of a queue starts: its end and its writes are those of its descriptor as the state is. -/
theorem State.startCopy_of_head {d q : Nat} {o : CopyOp} {rest : List CopyOp} {c : CopyDesc} (h : sameBut [.copies] s t)
    (hq : t.copyQueue d q = o :: rest) (hstarted : o.started = false) (hfields : t.copyFields o.op o.desc = some c) :
    (t.startCopy d q).copyQueue d q = { o with
      started := true
      due := s.cc + (s.wakeRanges (c.reads o.op ++ c.writes o.op)).wakeWait (c.reads o.op ++ c.writes o.op) + s.copyTime d o.op c
      effects := s.copyEffs o.op c } :: rest := by
  simp only [State.startCopy, hq, hstarted, hfields, Bool.false_eq_true, if_false]
  rw [State.copyQueue_setCopyQueue]
  generalize hcounted : (t.count cStageMiss (t.missedPages (c.reads o.op)).length).count cStageMissW
    (t.missedPages (c.writes o.op)).length = v
  have hv : sameBut wakeFree s v := hcounted ▸ (h.weaken (by decide)).trans
    (((t.count_same _ _).trans (State.count_same _ _ _)).weaken (by decide))
  have hall : sameBut copyStartFields s (v.wakeRanges (c.reads o.op ++ c.writes o.op)) :=
    (hv.weaken (by decide)).trans ((v.wakeRanges_same _).weaken (by decide))
  have hcc : (v.wakeRanges (c.reads o.op ++ c.writes o.op)).cc = s.cc := by
    rw [State.cc, show _ = s.clk from hall .clk (by decide), State.cc]
  rw [State.wakeWait_of_wakeFree (State.wakeRanges_wakeFree hv _), State.copyTime_of_same hall, State.copyEffs_of_same hall, hcc]

end

/-- Settles O30: an operation joins its queue and starts at its head (`startCopy_of_head`), or waits behind the one that runs; the
operation at the head ends (`endCopy_of_started`). -/
theorem copyOperationsQueueAndEnd : Obligations.CopyOperationsQueueAndEnd := by
  refine ⟨fun s d op arg b c hdesc hfields => ?_, fun s d q o rest hq hstarted hop => ?_⟩
  · have hjoin : s.joinCopy d op arg = (s.setCopyQueue d (slotField arg 52 4) (s.copyQueue d (slotField arg 52 4) ++
        [{ op := op, desc := b, since := ((s.copyOps d).head?.map (·.since)).getD s.cc }])).startCopy d (slotField arg 52 4) := by
      simp only [State.joinCopy, hdesc]
    generalize ((s.copyOps d).head?.map (·.since)).getD s.cc = since at hjoin
    rw [hjoin]
    refine ⟨since, ((State.setCopyQueue_same _ _ _ _).weaken (by decide)).trans (State.startCopy_same _ _ _), fun hempty => ?_,
      fun o l hq hstarted => ?_⟩
    · rw [hempty, List.nil_append]
      exact State.startCopy_of_head (State.setCopyQueue_same _ _ _ _) (State.copyQueue_setCopyQueue _ _ _ _) rfl hfields
    · rw [hq, List.cons_append, State.startCopy_of_started (State.copyQueue_setCopyQueue _ _ _ _) hstarted, State.copyQueue_setCopyQueue]
  · obtain ⟨u, hu, hend⟩ := State.endCopy_of_started hq hstarted hop
    have hrun : exec (.copyOperationEnd d q) s = .next (s.endCopy d q).settle := rfl
    generalize hlanded : (s.reach o.due).landRanked 2 q o.effects = v at hu
    have hv : sameBut [.sram, .hbm, .clusters, .coll, .ctr, .parts, .und, .fab, .landed] (s.reach o.due) v :=
      hlanded ▸ State.landRanked_same _ _ _ _
    have hcounted : sameBut [.ctr] u (if (u.copyOps d).isEmpty then u.count (cCopyBusy d) (u.cc - o.since) else u) := by
      split
      · exact State.count_same _ _ _
      · exact sameBut.refl _ _
    have hset : sameBut [.copies] v u := hu ▸ State.setCopyQueue_same v d q rest
    have hafter := ((hset.weaken (gs := copyStartFields) (by decide)).trans (hcounted.weaken (by decide))).trans
      (State.startCopy_same _ d q)
    obtain ⟨hlength, hops⟩ := State.startCopy_copyQueue (if (u.copyOps d).isEmpty then u.count (cCopyBusy d) (u.cc - o.since) else u) d q
    have hqueue : (if (u.copyOps d).isEmpty then u.count (cCopyBusy d) (u.cc - o.since) else u).copyQueue d q = rest := by
      have hcopies := hcounted .copies (by decide)
      simp only [Field.same] at hcopies
      rw [State.copyQueue, hcopies, ← State.copyQueue, hu, State.copyQueue_setCopyQueue]
    rw [hqueue] at hlength hops
    rw [hrun, hend]
    refine ⟨_, v, rfl, ?_, rfl, hafter .sram (by decide), hafter .hbm (by decide), hlength, hops, ?_⟩
    · have hclk : _ = (s.reach o.due).clk := (hafter .clk (by decide)).trans (hv .clk (by decide))
      rw [State.cc, hclk]
      rfl
    · exact (((s.reach_same _).weaken (by decide)).trans (hv.weaken (by decide))).trans (hafter.weaken (by decide))

/-! ### Queues of a Sillage -/

/-- Settles O31: the operation joins its pipeline, and the one at the head ends as `endSillage` says. -/
theorem sillageOperationsQueueAndEnd : Obligations.SillageOperationsQueueAndEnd := by
  refine ⟨fun s d op arg => ⟨_, _, rfl, rfl, ?_⟩, fun s d exchange o rest hqueue hstarted hidle => ?_⟩
  · split <;> rfl
  · have hrun : exec (.sillageOperationEnd d exchange) s = .next ((s.endSillage d exchange).retryAll).settle := rfl
    have hsill : ((s.reach o.due).applyAll o.effects).sillage d = s.sillage d := by
      have hsame : ((s.reach o.due).applyAll o.effects).sill = s.sill := State.applyAll_same _ _ .sill (by decide)
      rw [State.sillage, hsame, State.sillage]
    refine ⟨_, _, _, rfl, hsill, rfl, rfl, ?_⟩
    rw [hrun, State.endSillage]
    simp only [hqueue, hstarted, hidle, Bool.not_true, Bool.or_false, Bool.false_eq_true, if_false, hsill]
    cases exchange <;> by_cases hlist : o.op = 0x11 <;> simp only [hlist, if_true, if_false, Bool.false_eq_true]

end Sys2Proof.Machine

/-! PROOFS. Token packets at the receive unit (R247, R251, R259): what becomes of a packet, and what one that is accepted leaves. -/

namespace Sys2Proof.Machine

/-- Whether a packet that ends so has left the state as it was. -/
def Arrival.leaves : Arrival → Bool
  | .stale | .status _ => true
  | _ => false

section
variable {s u : State} {d : Nat} {x : XDesc} {t : Tok} {r : Arrival}

theorem State.takeRow_keeps (h : s.takeRow d x t = (u, r)) (hr : r.leaves = true) : u = s := by
  unfold State.takeRow at h
  dsimp only at h
  split at h
  · cases h; rfl
  · split at h
    · cases h; rfl
    · cases h; cases hr

theorem State.takeCount_keeps (h : s.takeCount d x t = (u, r)) (hr : r.leaves = true) : u = s := by
  unfold State.takeCount at h
  dsimp only at h
  split at h
  · cases h; rfl
  · split at h
    · cases h; rfl
    · cases h; cases hr

theorem State.takeReturn_keeps {c : Ctx} (h : s.takeReturn d x c t = (u, r)) (hr : r.leaves = true) : u = s := by
  unfold State.takeReturn at h
  dsimp only at h
  split at h
  · cases h; rfl
  · cases h; cases hr

theorem State.takeBuffered_keeps (h : s.takeBuffered d x t = (u, r)) (hr : r.leaves = true) : u = s := by
  unfold State.takeBuffered at h
  dsimp only at h
  split at h
  · cases h; rfl
  · split at h
    · cases h; rfl
    · split at h
      · cases h; rfl
      · split at h
        · cases h; cases hr
        · cases h; cases hr

/-- A stale packet, and one that memory refuses, leave nothing. -/
theorem State.receiveTok_keeps (h : s.receiveTok d t = (u, r)) (hr : r.leaves = true) : u = s := by
  unfold State.receiveTok at h
  dsimp only at h
  split at h
  · cases h; rfl
  · split at h
    · cases h; rfl
    · split at h
      · cases h; rfl
      · split at h
        · cases h; rfl
        · split at h
          · exact State.takeRow_keeps h hr
          · exact State.takeReturn_keeps h hr
          · exact State.takeCount_keeps h hr
          · exact State.takeBuffered_keeps h hr

/-! ### What becomes of a packet -/

/-- The answer to a packet reaches its sender, if that is a die of this device. -/
def State.answerTok (s : State) (d : Nat) (t : Tok) (status : Nat) : State :=
  match s.senderOf d t with
  | some e => s.tokAcked e t status
  | none => s

theorem State.answerTok_of_sender {e : Nat} (h : s.senderOf d t = some e) (k : Nat) : s.answerTok d t k = s.tokAcked e t k := by
  rw [State.answerTok, h]

theorem State.answerTok_of_none (h : s.senderOf d t = none) (k : Nat) : s.answerTok d t k = s := by rw [State.answerTok, h]

/-- What a packet leaves of the state in which it was received. -/
def State.afterTok (u : State) (d : Nat) (t : Tok) : Arrival → State
  | .fault k => u.integrityFault d 6 k t.xd.toNat t.src.toNat
  | .stale => (u.count (cXstale d) 1).answerTok d t 0
  | .blocked => u.setSillage d { u.sillage d with arriving := (u.sillage d).arriving ++ [t] }
  | .status k => u.answerTok d t k
  | .accept => (u.wakeSillage d).answerTok d t 0

theorem State.tokOnNetwork_of_fenced (h : s.fenced (0x50 + d) = true) : s.tokOnNetwork d t = s.answerTok d t 2 := by
  simp only [State.tokOnNetwork, State.arriveTok, h, if_true, State.answerTok]
  cases s.senderOf d t <;> rfl

theorem State.tokOnNetwork_of_received (h : s.fenced (0x50 + d) = false) (hr : s.receiveTok d t = (u, r)) :
    s.tokOnNetwork d t = u.afterTok d t r := by
  simp only [State.tokOnNetwork, State.arriveTok, h, Bool.false_eq_true, if_false, hr]
  cases r with
  | fault k => rfl
  | blocked => rfl
  | stale =>
    simp only [Arrival.answer, State.afterTok, State.answerTok]
    cases (u.count (cXstale d) 1).senderOf d t <;> rfl
  | status k =>
    simp only [Arrival.answer, State.afterTok, State.answerTok]
    cases u.senderOf d t <;> rfl
  | accept =>
    simp only [Arrival.answer, State.afterTok, State.answerTok]
    cases (u.wakeSillage d).senderOf d t <;> rfl

end

/-- Settles O32: the packet's arrival is `tokOnNetwork`, which leaves what its reception says (`tokOnNetwork_of_received`). -/
theorem tokensArrive : Obligations.TokensArrive := by
  intro s u d t c hc
  have hrun : exec c s = .next ((s.tokOnNetwork d t).retryAll).settle := by
    simp only [List.mem_cons, List.not_mem_nil, or_false] at hc
    rcases hc with rfl | rfl | rfl | rfl <;> rfl
  rw [hrun]
  refine ⟨fun hfenced => ?_, fun hfenced => ⟨fun hr => ?_, fun k hr => ?_, fun hr => ?_, fun k hr => ?_, fun hr => ?_⟩⟩
  · rw [State.tokOnNetwork_of_fenced hfenced]
    exact ⟨fun e he => by rw [State.answerTok_of_sender he], fun he => by rw [State.answerTok_of_none he]⟩
  · rw [State.tokOnNetwork_of_received hfenced hr, State.afterTok]
    exact ⟨fun e he => by rw [State.answerTok_of_sender he], fun he => by rw [State.answerTok_of_none he]⟩
  · rw [State.tokOnNetwork_of_received hfenced hr, State.afterTok]
  · obtain rfl := State.receiveTok_keeps hr rfl
    have hsender : (u.count (cXstale d) 1).senderOf d t = u.senderOf d t := rfl
    rw [State.tokOnNetwork_of_received hfenced hr, State.afterTok]
    exact ⟨fun e he => by rw [State.answerTok_of_sender (hsender.trans he)],
      fun he => by rw [State.answerTok_of_none (hsender.trans he)]⟩
  · obtain rfl := State.receiveTok_keeps hr rfl
    rw [State.tokOnNetwork_of_received hfenced hr, State.afterTok]
    exact ⟨fun e he => by rw [State.answerTok_of_sender he], fun he => by rw [State.answerTok_of_none he]⟩
  · rw [State.tokOnNetwork_of_received hfenced hr, State.afterTok]

/-! ### What an accepted packet leaves -/

section
variable {s u : State} {d : Nat} {t : Tok} {x : XDesc}

theorem State.takeRow_accepts (h : s.takeRow d x t = (u, .accept)) :
    u = (s.writeSegment (x.rowAt (s.hostedRec d x t.hidx.toNat) (t.tick.toNat % 2) t) x.largest t).setArrival x (t.tick.toNat % 2)
      t.src.toNat (s.arrival x (t.tick.toNat % 2) t.src.toNat + 1) := by
  unfold State.takeRow at h
  dsimp only at h
  split at h
  · cases h
  · split at h
    · cases h
    · cases h; rfl

theorem State.takeCount_accepts (h : s.takeCount d x t = (u, .accept)) : u = s.setArrival x (t.tick.toNat % 2) t.src.toNat
    (arrSegs (s.arrival x (t.tick.toNat % 2) t.src.toNat) + field t.payload 0 3 * 2 ^ 32 + 2 ^ 63) := by
  unfold State.takeCount at h
  dsimp only at h
  split at h
  · cases h
  · split at h
    · cases h
    · cases h; rfl

theorem State.takeReturn_accepts {c : Ctx} (h : s.takeReturn d x c t = (u, .accept)) : ∃ w : State,
    w = s.writeSegment (x.ret + (t.token.toNat * c.k + t.rank.toNat % 16) * x.retSize) x.largest t ∧
      u = w.setSram (putBlock zeroByte x.returnAt (leBytes 8 (leNat (getBlock zeroByte x.returnAt 8 s.sram) + 1)) w.sram) := by
  unfold State.takeReturn at h
  dsimp only at h
  split at h
  · cases h
  · cases h; exact ⟨_, rfl, rfl⟩

/-- An accepted packet is taken for its type, in the current tick or the next, unless its tick's `XLIST` has cleared its entry in this
very cycle. -/
theorem State.receiveTok_accepts (h : s.receiveTok d t = (u, .accept)) (hx : x = xdescOf d (s.xdescBytes d t.xd.toNat)) :
    s.checkTok d x t = none ∧ s.tick.count.toNat ≤ t.tick.toNat ∧ t.tick.toNat ≤ s.tick.count.toNat + 1 ∧
    (t.typ = 2 → t.tick.toNat = s.tick.count.toNat ∧ s.takeReturn d x (ctxOf d (s.context d t.xd.toNat)) t = (u, .accept)) ∧
    (t.typ ≠ 2 → (Tab.get (0, 0) t.xd.toNat (s.sillage d).listed).1 = t.tick.toNat + 1 →
      t.typ = 3 ∧ (Tab.get (0, 0) t.xd.toNat (s.sillage d).listed).2 = s.cc ∧ u = s) ∧
    (t.typ ≠ 2 → (Tab.get (0, 0) t.xd.toNat (s.sillage d).listed).1 ≠ t.tick.toNat + 1 →
      (t.typ = 1 → s.takeRow d x t = (u, .accept)) ∧ (t.typ = 3 → s.takeCount d x t = (u, .accept))) := by
  unfold State.receiveTok at h
  dsimp only at h
  rw [← hx] at h
  split at h
  · cases h
  · next hcheck =>
    split at h
    · cases h
    · next hlate =>
      split at h
      · cases h
      · next hearly =>
        simp only [Bool.or_eq_true, Bool.and_eq_true, decide_eq_true_eq, not_or, not_and, Nat.not_lt] at hearly
        obtain ⟨hnext, hreturn⟩ := hearly
        refine ⟨hcheck, by omega, by omega, fun htyp => ⟨le_antisymm (hreturn htyp) (by omega), ?_⟩, fun htyp hlisted => ?_,
          fun htyp hlisted => ⟨fun h1 => ?_, fun h3 => ?_⟩⟩
        · simpa [htyp] using h
        · rw [if_pos (by simpa [hlisted] using htyp)] at h
          obtain ⟨rfl, hafter⟩ := Prod.mk.inj h
          unfold State.afterList at hafter
          split at hafter
          · next hcc =>
            split at hafter
            · next h3 => exact ⟨h3, hcc, rfl⟩
            · cases hafter
          · cases hafter
        · simpa [hlisted, h1] using h
        · simpa [hlisted, h3] using h

end

/-- Settles O33: an accepted packet is taken for its type (`receiveTok_accepts`), and leaves what that taking writes. -/
theorem tokensAreWritten : Obligations.TokensAreWritten := by
  rintro s d t x u p v hx haccept rfl rfl
  obtain ⟨hcheck, hlow, hhigh, hreturn, hcleared, htaken⟩ := State.receiveTok_accepts haccept hx
  refine ⟨fun h1 => ?_, fun h3 => ?_, fun h2 => ?_⟩
  · have hne : t.typ ≠ 2 := by rw [h1]; decide
    have hnot : (Tab.get (0, 0) t.xd.toNat (s.sillage d).listed).1 ≠ t.tick.toNat + 1 := fun hlisted => by
      have h3 := (hcleared hne hlisted).1
      rw [h1] at h3
      exact absurd h3 (by decide)
    exact ⟨hcheck, hlow, hhigh, State.takeRow_accepts ((htaken hne hnot).1 h1)⟩
  · have hne : t.typ ≠ 2 := by rw [h3]; decide
    exact ⟨hcheck, hlow, hhigh, fun hnot => State.takeCount_accepts ((htaken hne hnot).2 h3), fun hlisted => (hcleared hne hlisted).2⟩
  · obtain ⟨htick, htake⟩ := hreturn h2
    exact ⟨hcheck, htick, State.takeReturn_accepts htake⟩

end Sys2Proof.Machine

/-! PROOFS. Packets that arrive (R384, R385): those that are taken, those that are dropped, and what a delivered `STORE`, `LOAD_REQ` or
`ATOMIC_REQ` leaves (R404 to R414). -/

namespace Sys2Proof.Machine

/-! ### Arrival -/

/-- The command of each kind of packet delivers it. -/
theorem deliveries_run : ∀ m ∈ deliveries, ∀ (p : Pkt) (s : State), exec (m.command p) s =
    .next (s.deliver p m.typ (m.die s p) (m.tagOk s p) (fun s => m.take s p)).settle := by
  simp only [deliveries, List.map_cons, List.map_nil, List.cons_append, List.nil_append, List.forall_mem_cons, List.not_mem_nil,
    false_imp_iff, implies_true, and_true]
  repeat' apply And.intro
  all_goals exact fun _ _ => rfl

section
variable {s : State} {p : Pkt} {typ die : Nat} {ok : Bool} (f : State → State)

theorem State.deliver_of_linkDown {q : Fin 8} (hvia : p.via = some q) (hup : s.fab.up.getLsbD q = false) :
    s.deliver p typ die ok f = s.count cLdDiscard 1 := by
  simp only [State.deliver, State.fromLink, hvia, hup, Bool.not_false, if_true]

/-- A packet that arrives is judged by what the state says before its arrival. -/
theorem State.deliver_of_arrives (h : s.arrives p) : s.deliver p typ die ok f =
    if !s.addressed p then (s.linked p).forward p
    else if s.power.transit then (s.linked p).count cTagReject 1
    else if s.checkPkt p typ ok ≠ .pass then (s.linked p).countCheck (s.checkPkt p typ ok)
    else if s.routerFenced die then (s.linked p).refuseFenced p
    else if s.belowFloor p then (s.linked p).count (cEpochDrop die) 1
    else f (s.linked p) := by
  rw [State.deliver, State.fromLink_of_arrives h]
  obtain ⟨c, v, hl⟩ := s.exists_linked_eq p
  have haddressed : (s.linked p).addressed p = s.addressed p := by rw [hl]; rfl
  have htransit : (s.linked p).power.transit = s.power.transit := by rw [hl]
  have hcheck : (s.linked p).checkPkt p typ ok = s.checkPkt p typ ok := by rw [hl]; rfl
  have hfence : (s.linked p).routerFenced die = s.routerFenced die := by rw [hl]; rfl
  have hfloor : (s.linked p).belowFloor p = s.belowFloor p := by rw [hl]; rfl
  simp only [haddressed, htransit, hcheck, hfence, hfloor]

end

/-- Settles O34: a packet that is delivered is taken (`deliver_of_delivers`); what becomes of another is in `deliver_of_arrives`. -/
theorem packetsArrive : Obligations.PacketsArrive := by
  refine ⟨fun s p => ⟨fun m hm hdelivers => ?_, fun hdelivers => ?_⟩, fun m hm s t p ht =>
    ⟨fun q hvia hup => ?_, fun harrives => ⟨fun haddr => ?_, fun haddr => ⟨fun htransit => ?_, fun htransit =>
      ⟨fun hcheck => ?_, fun hcheck => ?_, fun hcheck => ?_, fun hcheck => ⟨fun hfence => ?_, fun hfence hfloor => ?_⟩⟩⟩⟩⟩⟩
  · rw [deliveries_run m hm, State.deliver_of_delivers hdelivers]
  · have hrun : exec (.token p) s = .next (s.deliver p tToken (p.addr.toNat % 4) (s.tagMatches p)
        (fun s => s.takeToken p (p.addr.toNat % 4))).retryAll.settle := rfl
    rw [hrun, State.deliver_of_delivers hdelivers]
  · rw [deliveries_run m hm, State.deliver_of_linkDown _ hvia hup]
  · subst ht
    rw [deliveries_run m hm, State.deliver_of_arrives _ harrives]
    simp [haddr]
  · subst ht
    rw [deliveries_run m hm, State.deliver_of_arrives _ harrives]
    simp [haddr, htransit]
  · subst ht
    rw [deliveries_run m hm, State.deliver_of_arrives _ harrives]
    simp [haddr, htransit, hcheck, State.countCheck]
  · subst ht
    rw [deliveries_run m hm, State.deliver_of_arrives _ harrives]
    simp [haddr, htransit, hcheck, State.countCheck]
  · subst ht
    rw [deliveries_run m hm, State.deliver_of_arrives _ harrives]
    simp [haddr, htransit, hcheck, State.countCheck]
  · subst ht
    rw [deliveries_run m hm, State.deliver_of_arrives _ harrives]
    simp [haddr, htransit, hcheck, hfence]
  · subst ht
    rw [deliveries_run m hm, State.deliver_of_arrives _ harrives]
    simp [haddr, htransit, hcheck, hfence, hfloor]

/-! ### What an arrival leaves -/

theorem State.exists_count_eq (s : State) (key k : Nat) : ∃ c, s.count key k = { s with ctr := c } := by
  unfold State.count
  split
  · exact ⟨_, rfl⟩
  · exact ⟨_, rfl⟩

theorem State.exists_retried_eq (s : State) (p : Pkt) :
    ∃ c v, (s.linked p).countRetry p = { s with ctr := c, fab := { s.fab with ports := v } } := by
  obtain ⟨c, v, hl⟩ := s.exists_linked_eq p
  rw [hl, State.countRetry]
  split
  · obtain ⟨c', hc⟩ := State.exists_count_eq { s with ctr := c, fab := { s.fab with ports := v } } cDupDeliver 1
    exact ⟨c', v, hc⟩
  · exact ⟨c, v, rfl⟩

theorem State.setCtrPorts_same (s : State) (c : Tab Nat) (v : Tab Port) :
    sameBut [.ctr, .fab] s { s with ctr := c, fab := { s.fab with ports := v } } := by
  intro f hf; cases f <;> simp [Field.same] at hf ⊢

theorem State.retried_same (s : State) (p : Pkt) : sameBut [.ctr, .fab] s ((s.linked p).countRetry p) := by
  obtain ⟨c, v, hr⟩ := s.exists_retried_eq p
  rw [hr]
  exact s.setCtrPorts_same c v

theorem State.countAccess_same (s : State) (d st : Nat) : sameBut [.ctr] s (s.countAccess d st) := by
  unfold State.countAccess
  split
  · exact s.count_same _ _
  · split
    · exact s.count_same _ _
    · exact sameBut.refl _ _

/-- The members that looking up owners and waking memory may change. -/
def lookFields : List Field := [.parts, .und, .ctr, .fab, .power, .hbmStacks]

theorem State.setRouter_same (s : State) (d : Nat) (r : Router) : sameBut [.fab] s (s.setRouter d r) := s.setFab_same _

theorem State.lookOwners_same (s : State) (d : Nat) (w : Access4) (a len : Nat) :
    sameBut [.parts, .und, .ctr, .fab] s (s.lookOwners d w a len) := by
  unfold State.lookOwners
  split
  · exact sameBut.refl _ _
  · exact sameBut.refl _ _
  · refine sameBut.fold (fun u line => ?_) _ s
    dsimp only
    split
    · exact sameBut.refl _ _
    · exact (((u.setRouter_same _ _).weaken (by decide)).trans ((State.count_same _ _ _).weaken (by decide))).trans
        ((State.noteRead_same _ _ _ _).weaken (by decide))

theorem State.lookedUp_same (s : State) (d : Nat) (w : Access4) (a len st : Nat) : sameBut lookFields s (s.lookedUp d w a len st) := by
  refine sameBut.trans ?_ ((State.countAccess_same _ _ _).weaken (by decide))
  split
  · exact sameBut.refl _ _
  · exact (s.lookOwners_same d w a len).weaken (by decide)

theorem State.readLocal_lookedUp (s : State) (d : Nat) (w : Access4) (b n st a len : Nat) :
    (s.lookedUp d w b n st).readLocal a len = s.readLocal a len := by
  refine (State.readLocal_of_same (State.countAccess_same _ _ _) (by decide) a len).trans ?_
  split
  · rfl
  · exact State.readLocal_lookOwners s d w b n a len

/-- What a well-formed store leaves before it is acknowledged: the bytes written if its status allows it. -/
def State.stored (t : State) (p : Pkt) (st : Nat) (old : List Byte) : State :=
  if st = 0 then t.writeLocal (pktAddr p) 0 (if storeMask p = 0 then p.data else maskedData (storeMask p) old p.data) else t

theorem State.stored_same (t : State) (p : Pkt) (st : Nat) (old : List Byte) :
    sameBut [.sram, .hbm, .parts, .und, .ctr, .fab] t (t.stored p st old) := by
  unfold State.stored
  split
  · exact (State.writeLocal_same _ _ _ _).weaken (by decide)
  · exact sameBut.refl _ _

theorem State.performStore_of_ok {s r : State} {p : Pkt} {st d : Nat} (hr : r = s.countRetry p) (hd : s.deliveryDie (pktAddr p) = d)
    (hst : r.accessStatus (.store p.src.toNat) (pktAddr p) p.len.toNat = st)
    (hok : aligned32 (pktAddr p) p.len.toNat = true ∧ p.len.toNat ≤ 4096) :
    s.performStore p = ((((r.lookedUp d (.store p.src.toNat) (pktAddr p) p.len.toNat st).wakeRanges [(pktAddr p, p.len.toNat)]).stored p st
      (r.readLocal (pktAddr p) 32)).sendAck p st) := by
  have hread := (State.readLocal_of_same (State.wakeRanges_same (r.lookedUp d (.store p.src.toNat) (pktAddr p) p.len.toNat st)
    [(pktAddr p, p.len.toNat)]) (by decide) (pktAddr p) 32).trans (State.readLocal_lookedUp _ _ _ _ _ _ _ _)
  subst hr hd hst
  rw [State.performStore]
  simp only [hok.1, Nat.not_lt.2 hok.2, Bool.not_true, decide_false, Bool.or_false, Bool.false_eq_true, if_false, Bool.or_eq_true,
    decide_eq_true_eq]
  rw [← State.lookedUp, hread, State.stored]
  split
  · next h => rw [h]
  · rfl

/-- Settles O35: a well-formed store is performed as `performStore_of_ok` says, in the state that its arrival leaves
(`exists_retried_eq`); another is answered with status 1. -/
theorem storesArePerformed : Obligations.StoresArePerformed := by
  rintro s r p a len st d rfl rfl rfl hdelivers hr hst
  have hrun : exec (.store p) s = .next (s.deliver p tStore (s.deliveryDie (pktAddr p)) (s.tagMatches p)
    (fun s => s.performStore p)).settle := rfl
  obtain ⟨c, v, hrs⟩ := s.exists_retried_eq p
  have hsr := hr ▸ s.retried_same p
  have hstatus : r.accessStatus (.store p.src.toNat) (pktAddr p) p.len.toNat =
    s.accessStatus (.store p.src.toNat) (pktAddr p) p.len.toNat := by rw [hr, hrs]; rfl
  have hdie : (s.linked p).deliveryDie (pktAddr p) = s.deliveryDie (pktAddr p) := by
    obtain ⟨c, v, hl⟩ := s.exists_linked_eq p
    rw [hl]
    rfl
  have hread : r.readLocal (pktAddr p) 32 = s.readLocal (pktAddr p) 32 := State.readLocal_of_same hsr (by decide) _ _
  rw [hrun, State.deliver_of_delivers hdelivers]
  by_cases hok : aligned32 (pktAddr p) p.len.toNat = true ∧ p.len.toNat ≤ 4096
  · rw [if_pos hok] at hst
    rw [State.performStore_of_ok hr hdie (hstatus.trans hst.symm) hok, hread, if_pos hok]
    have ht := ((hsr.weaken (by decide)).trans (r.lookedUp_same (s.deliveryDie (pktAddr p)) (.store p.src.toNat) (pktAddr p)
      p.len.toNat st)).trans ((State.wakeRanges_same _ [(pktAddr p, p.len.toNat)]).weaken (by decide))
    refine ⟨_, _, rfl, rfl, rfl, fun hne => ?_, (ht.weaken (by decide)).trans ((State.stored_same _ p st _).weaken (by decide))⟩
    rw [State.stored, if_neg hne]
    exact ⟨ht .sram (by decide), ht .hbm (by decide)⟩
  · rw [if_neg hok] at hst
    subst hst
    have hbad : (!aligned32 (pktAddr p) p.len.toNat || decide (p.len.toNat > 4096)) = true := by
      simp only [Bool.or_eq_true, Bool.not_eq_true', decide_eq_true_eq]
      by_contra hboth
      exact hok (by simp only [not_or, Bool.not_eq_false, Nat.not_lt, gt_iff_lt] at hboth; exact hboth)
    have hperform : (s.linked p).performStore p = r.sendAck p 1 := by
      rw [State.performStore, ← hr]
      simp only [hbad, if_true]
    rw [hperform, if_neg hok]
    exact ⟨_, _, rfl, rfl, rfl, fun _ => ⟨hsr .sram (by decide), hsr .hbm (by decide)⟩, hsr.weaken (by decide)⟩

/-! ### Loads -/

theorem State.router_of_same {s t : State} {fs : List Field} (h : sameBut fs s t) (hf : Field.fab ∉ fs) (d : Nat) :
    t.router d = s.router d := by
  have hfab : t.fab = s.fab := h .fab hf
  rw [State.router, hfab, State.router]

theorem State.router_setRouter (s : State) (d : Nat) (r : Router) : (s.setRouter d r).router d = r := by simp [State.router]

theorem State.enqueue_requests (s : State) (d a : Nat) :
    ((s.enqueue d a).router d).requests = (s.cc + s.latency (16 * d) a) :: s.waitingRequests d := by
  rw [State.enqueue, State.router_setRouter]

/-- Settles O36: the request enters the queue of its die (`enqueue_requests`), and nothing that follows before its answer changes the
queue or memory. -/
theorem loadsAreAnswered : Obligations.LoadsAreAnswered := by
  rintro s r p a n st d rfl rfl rfl hdelivers hr hst
  have hrun : exec (.loadReq p) s = .next (s.deliver p tLoadReq (s.deliveryDie (pktAddr p)) (s.tagMatches p)
    (fun s => s.performLoad p)).settle := rfl
  obtain ⟨c, v, hrs⟩ := s.exists_retried_eq p
  have hsr := hr ▸ s.retried_same p
  have hfull : r.queueFull (s.deliveryDie (pktAddr p)) = s.queueFull (s.deliveryDie (pktAddr p)) := by rw [hr, hrs]; rfl
  have hdie : (s.linked p).deliveryDie (pktAddr p) = s.deliveryDie (pktAddr p) := by
    obtain ⟨c, v, hl⟩ := s.exists_linked_eq p
    rw [hl]
    rfl
  rw [hrun, State.deliver_of_delivers hdelivers, State.performLoad]
  simp only [← hr, hdie, hfull]
  refine ⟨fun hqueue => by simp only [hqueue, if_true], fun hqueue => ?_⟩
  generalize hq : r.enqueue (s.deliveryDie (pktAddr p)) (pktAddr p) = q
  have hsq : sameBut [.ctr, .fab] s q := hq ▸ hsr.trans ((r.setRouter_same _ _).weaken (by decide))
  have hrequests : (q.router (s.deliveryDie (pktAddr p))).requests =
      (s.cc + s.latency (16 * s.deliveryDie (pktAddr p)) (pktAddr p)) :: s.waitingRequests (s.deliveryDie (pktAddr p)) := by
    rw [← hq, State.enqueue_requests, hr, hrs]
    rfl
  have hstatus : (if loadReqOk p = true then q.accessStatus .load (pktAddr p) (field p.body 0 2) else 1) = st := by
    rw [hst, ← hq, hr, hrs]
    rfl
  simp only [hqueue, Bool.false_eq_true, if_false, hstatus]
  have hcounted := q.countAccess_same (s.deliveryDie (pktAddr p)) st
  by_cases h0 : st = 0
  · have hwoken := State.wakeRanges_same (q.countAccess (s.deliveryDie (pktAddr p)) st) [(pktAddr p, field p.body 0 2)]
    have hnoted := State.noteRead_same ((q.countAccess (s.deliveryDie (pktAddr p)) st).wakeRanges [(pktAddr p, field p.body 0 2)])
      (pktAddr p) (field p.body 0 2) (field p.body 2 1)
    have hread := State.readLocal_of_same (((hsq.weaken (by decide)).trans (hcounted.weaken (by decide))).trans
      (hwoken.weaken (gs := [.ctr, .fab, .power, .hbmStacks]) (by decide))) (by decide) (pktAddr p) (field p.body 0 2)
    simp only [h0, if_true] at hread hwoken hnoted hcounted ⊢
    rw [hread]
    refine ⟨_, ?_, ?_, rfl⟩
    · exact (((hsq.weaken (by decide)).trans (hcounted.weaken (by decide))).trans (hwoken.weaken (by decide))).trans
        (hnoted.weaken (by decide))
    · rw [State.router_of_same hnoted (by decide), State.router_of_same hwoken (by decide), State.router_of_same hcounted (by decide)]
      exact hrequests
  · simp only [h0, if_false]
    refine ⟨_, (hsq.weaken (by decide)).trans (hcounted.weaken (by decide)), ?_, rfl⟩
    rw [State.router_of_same hcounted (by decide)]
    exact hrequests

/-! ### Atomics -/

/-- The new value and its saturation land, if the unit allows the request, and are counted. -/
def State.atomicWritten (w : State) (p : Pkt) (d st old : Nat) : State :=
  let v := atomNew (field p.body 0 1 % 16) (field p.body 0 1 / 16) old (field p.body 8 (atomWidth (field p.body 0 1 / 16)))
    (field p.body 16 (atomWidth (field p.body 0 1 / 16)))
  if st = 0 then
    let t := (w.writeLocal (pktAddr p) 0 (leBytes (atomWidth (field p.body 0 1 / 16)) v.1)).count (cAtomApplied d) 1
    if v.2 then t.count (cAtomSat d) 1 else t
  else w

theorem State.atomicWritten_of_refused (w : State) (p : Pkt) (d old : Nat) {st : Nat} (h : st ≠ 0) : w.atomicWritten p d st old = w :=
  if_neg h

/-- After the write of an atomic, counters alone change. -/
theorem State.atomicWritten_of_allowed (w : State) (p : Pkt) (d old : Nat) :
    sameBut [.ctr] (w.writeLocal (pktAddr p) 0 (leBytes (atomWidth (field p.body 0 1 / 16))
      (atomNew (field p.body 0 1 % 16) (field p.body 0 1 / 16) old (field p.body 8 (atomWidth (field p.body 0 1 / 16)))
        (field p.body 16 (atomWidth (field p.body 0 1 / 16)))).1)) (w.atomicWritten p d 0 old) := by
  rw [State.atomicWritten, if_pos rfl]
  dsimp only
  split
  · exact (State.count_same _ _ _).trans (State.count_same _ _ _)
  · exact State.count_same _ _ _

theorem State.atomicWritten_same (w : State) (p : Pkt) (d st old : Nat) :
    sameBut [.sram, .hbm, .parts, .und, .ctr, .fab] w (w.atomicWritten p d st old) := by
  by_cases h : st = 0
  · subst h
    exact ((State.writeLocal_same _ _ _ _).weaken (by decide)).trans ((w.atomicWritten_of_allowed p d old).weaken (by decide))
  · rw [w.atomicWritten_of_refused p d old h]
    exact sameBut.refl _ _

section
variable {s r : State} {p : Pkt} {d : Nat}

theorem State.performAtomic_of_full (hd : s.deliveryDie (pktAddr p) = d) (h : s.queueFull d = true) :
    s.performAtomic p = s.sendReply p tAtomicReply 5 32 [] := by
  subst hd
  simp only [State.performAtomic, h, if_true]

theorem State.performAtomic_of_replayed (hd : s.deliveryDie (pktAddr p) = d) (h : s.queueFull d = false)
    (hr : r = s.enqueue d (pktAddr p)) {b : Nat} {e : Nat × Nat × Nat × Nat} (hkept : s.replayed p = some (b, e)) :
    s.performAtomic p = (r.count (cAtomReplayed b) 1).sendReply p tAtomicReply e.2.1 32 (leBytes 8 e.2.2.1) := by
  have hkept' : r.replayed p = some (b, e) := by rw [hr, State.replayed_enqueue, hkept]
  subst hd
  simp only [State.performAtomic, h, Bool.false_eq_true, if_false, ← hr, hkept']

theorem State.performAtomic_of_busy (hd : s.deliveryDie (pktAddr p) = d) (h : s.queueFull d = false)
    (hr : r = s.enqueue d (pktAddr p)) (hnew : s.replayed p = none) (hroom : replayRoom s.cc (s.router d).replay = none) :
    s.performAtomic p = (r.count (cAtomBusy d) 1).sendReply p tAtomicReply 5 32 [] := by
  have hnew' : r.replayed p = none := by rw [hr, State.replayed_enqueue, hnew]
  have hroom' : replayRoom r.cc (r.router d).replay = none := by
    rw [hr, State.replay_router_enqueue]
    exact hroom
  subst hd
  simp only [State.performAtomic, h, Bool.false_eq_true, if_false, ← hr, hnew', hroom']

/-- A new request is recorded and answered, after its write if its unit allows it. -/
theorem State.performAtomic_of_new {st old : Nat} {l : List (Nat × Nat × Nat × Nat)} {w : State}
    (hd : s.deliveryDie (pktAddr p) = d) (h : s.queueFull d = false) (hr : r = s.enqueue d (pktAddr p)) (hnew : s.replayed p = none)
    (hroom : replayRoom s.cc (s.router d).replay = some l)
    (hst : (if atomReqOk p = true then r.accessStatus (.atomic p.src.toNat) (pktAddr p / 32 * 32) 32 else 1) = st)
    (hw : w = (r.lookedUp d (.atomic p.src.toNat) (pktAddr p / 32 * 32) 32 st).wakeRanges [(pktAddr p / 32 * 32, 32)])
    (hold : (if st = 0 then leNat (w.readLocal (pktAddr p) (atomWidth (field p.body 0 1 / 16))) else 0) = old) :
    s.performAtomic p = ((w.atomicWritten p d st old).setRouter d { (w.atomicWritten p d st old).router d with
      replay := (replayKey p, st, old, (w.atomicWritten p d st old).cc) :: l }).sendReply p tAtomicReply st 32 (leBytes 8 old) := by
  have hnew' : r.replayed p = none := by rw [hr, State.replayed_enqueue, hnew]
  have hroom' : replayRoom r.cc (r.router d).replay = some l := by
    rw [hr, State.replay_router_enqueue]
    exact hroom
  subst hd
  have hlook : ((if (decide (st = 1) || decide (st = 2)) = true then r else r.lookOwners (s.deliveryDie (pktAddr p))
      (.atomic p.src.toNat) (pktAddr p / 32 * 32) 32).countAccess (s.deliveryDie (pktAddr p)) st).wakeRanges
      [(pktAddr p / 32 * 32, 32)] = w := by
    rw [hw]
    simp only [Bool.or_eq_true, decide_eq_true_eq, State.lookedUp]
  simp only [State.performAtomic, h, Bool.false_eq_true, if_false, ← hr, hnew', hroom', hst, hlook, hold]
  rfl

end

/-- Settles O37: the request is answered from the cache, busy, or applied once (`performAtomic_of_new`), in the state that its arrival
leaves. -/
theorem atomicsApplyOnce : Obligations.AtomicsApplyOnce := by
  rintro s r p a d op ty rfl hd rfl rfl hdelivers hr
  obtain ⟨c, v, hl⟩ := s.exists_linked_eq p
  have hlinked : sameBut [.ctr, .fab] s (s.linked p) := by
    rw [hl]
    exact s.setCtrPorts_same c v
  have hdie : (s.linked p).deliveryDie (pktAddr p) = d := by rw [hl, hd]; rfl
  have hfull : (s.linked p).queueFull d = s.queueFull d := by rw [hl]; rfl
  have hkept : (s.linked p).replayed p = s.replayed p := by rw [hl]; rfl
  have hcache : replayRoom (s.linked p).cc ((s.linked p).router d).replay = replayRoom s.cc (s.router d).replay := by rw [hl]; rfl
  have hrun : exec (.atomicReq p) s = .next ((s.linked p).performAtomic p).settle := by
    rw [exec_atomicReq_eq, State.deliver_of_delivers (hd ▸ hdelivers)]
  refine ⟨fun hqueue => ?_, fun hqueue => ⟨fun b e hb => ?_, fun hnew hroom => ?_, fun l hnew hroom => ?_⟩⟩
  · rw [hrun, State.performAtomic_of_full hdie (hfull.trans hqueue)]
  · rw [hrun, State.performAtomic_of_replayed hdie (hfull.trans hqueue) hr (hkept.trans hb)]
  · rw [hrun, State.performAtomic_of_busy hdie (hfull.trans hqueue) hr (hkept.trans hnew) (hcache.trans hroom)]
  · have hsr : sameBut [.ctr, .fab] s r := hr ▸ hlinked.trans ((State.setRouter_same _ _ _).weaken (by decide))
    have hstatus : (if atomReqOk p = true then r.accessStatus (.atomic p.src.toNat) (pktAddr p / 32 * 32) 32 else 1) =
        if atomReqOk p = true then s.accessStatus (.atomic p.src.toNat) (pktAddr p / 32 * 32) 32 else 1 := by rw [hr, hl]; rfl
    generalize hst : (if atomReqOk p = true then s.accessStatus (.atomic p.src.toNat) (pktAddr p / 32 * 32) 32 else 1) = st at hstatus
    generalize hw : (r.lookedUp d (.atomic p.src.toNat) (pktAddr p / 32 * 32) 32 st).wakeRanges [(pktAddr p / 32 * 32, 32)] = w
    have hread : ∀ b n, w.readLocal b n = s.readLocal b n := fun b n => by
      rw [← hw, State.readLocal_of_same (State.wakeRanges_same _ _) (by decide), State.readLocal_lookedUp,
        State.readLocal_of_same hsr (by decide)]
    have hsw : sameBut [.ctr, .fab, .parts, .und, .power, .hbmStacks] s w := hw ▸ ((hsr.weaken (by decide)).trans
      ((r.lookedUp_same _ _ _ _ _).weaken (by decide))).trans ((State.wakeRanges_same _ _).weaken (by decide))
    generalize hold : (if st = 0 then leNat (s.readLocal (pktAddr p) (atomWidth (field p.body 0 1 / 16))) else 0) = old
    have hperform := State.performAtomic_of_new hdie (hfull.trans hqueue) hr (hkept.trans hnew) (hcache.trans hroom) hstatus hw.symm
      (by rw [hread, hold])
    have hwritten := w.atomicWritten_same p d st old
    have hcc : (w.atomicWritten p d st old).cc = s.cc := by
      have hclk : (w.atomicWritten p d st old).clk = s.clk := (hwritten .clk (by decide)).trans (hsw .clk (by decide))
      rw [State.cc, hclk, State.cc]
    rw [hrun, hperform, hcc]
    refine ⟨_, st, old, rfl, hold.symm, rfl, by rw [State.router_setRouter], fun hne => ?_, fun h0 => ⟨w, hsw, ?_, ?_⟩, ?_⟩
    · rw [State.setRouter_sram, State.setRouter_hbm, w.atomicWritten_of_refused p d old hne]
      exact ⟨hsw .sram (by decide), hsw .hbm (by decide)⟩
    · subst h0
      exact w.atomicWritten_of_allowed p d old .sram (by decide)
    · subst h0
      exact w.atomicWritten_of_allowed p d old .hbm (by decide)
    · exact ((hsw.weaken (by decide)).trans (hwritten.weaken (by decide))).trans ((State.setRouter_same _ _ _).weaken (by decide))

end Sys2Proof.Machine

/-! PROOFS. Ticks (R54, R71, R76, R79, R471) and the release of a job (R67). -/

namespace Sys2Proof.Machine

/-! ### Edges -/

/-- The facts about a tick edge that nothing of what follows it changes. -/
def TickUnit.sameEdge (a b : TickUnit) : Prop :=
  b.edge = a.edge ∧ b.nextEdge = a.nextEdge ∧ b.nextNo = a.nextNo ∧ b.strCur = a.strCur ∧ b.count = a.count ∧ b.period = a.period

theorem TickUnit.sameEdge.refl (a : TickUnit) : a.sameEdge a := ⟨rfl, rfl, rfl, rfl, rfl, rfl⟩

theorem TickUnit.sameEdge.of_eq {a b : TickUnit} (h : b = a) : a.sameEdge b := h ▸ .refl a

theorem TickUnit.sameEdge.trans {a b c : TickUnit} (h : a.sameEdge b) (k : b.sameEdge c) : a.sameEdge c := by
  obtain ⟨h1, h2, h3, h4, h5, h6⟩ := h
  obtain ⟨k1, k2, k3, k4, k5, k6⟩ := k
  exact ⟨k1.trans h1, k2.trans h2, k3.trans h3, k4.trans h4, k5.trans h5, k6.trans h6⟩

theorem State.takeOver_sameEdge (s : State) : s.tick.sameEdge s.takeOver.tick := by
  unfold State.takeOver
  dsimp only
  split
  · exact ⟨rfl, rfl, rfl, rfl, rfl, rfl⟩
  · exact .refl _

theorem State.beaconLost_tick (s : State) : s.beaconLost.tick = s.tick := s.beaconLost_same .tick (by decide)

theorem State.overran_sameEdge (s : State) (t : Nat) : s.tick.sameEdge (s.overran t).tick := ⟨rfl, rfl, rfl, rfl, rfl, rfl⟩

theorem State.mergeOwn_sameEdge (s : State) : s.tick.sameEdge s.mergeOwn.tick := ⟨rfl, rfl, rfl, rfl, rfl, rfl⟩

theorem State.sendBeacon_sameEdge (s : State) (t : Nat) : s.tick.sameEdge (s.sendBeacon t).tick := by
  have hsent (b : Bool) (l : List Byte) : (if b then s.sendChildren tBeacon l else s).tick = s.tick := by
    split
    · exact s.sendChildren_same _ _ .tick (by decide)
    · rfl
  have hsame := TickUnit.sameEdge.of_eq (hsent s.job.multi (beaconBody t s.tick.replies.stretch
    (s.tick.replies.cause.toNat % 8 + 16 * b2n (s.tick.replies.flags.getLsbD 0) + 32 * s.tick.markReq) s.senderRank 0))
  exact hsame.trans ⟨rfl, rfl, rfl, rfl, rfl, rfl⟩

theorem State.sendReply72_sameEdge (s : State) (t : Nat) : s.tick.sameEdge (s.sendReply72 t).tick := by
  refine s.mergeOwn_sameEdge.trans ?_
  have hsent (p : Nat) (l : List Byte) :
      (if p = 0 then s.mergeOwn else s.mergeOwn.sendTree (p - 1) tBeaconReply l).tick = s.mergeOwn.tick := by
    split
    · rfl
    · exact s.mergeOwn.sendTree_same _ _ _ .tick (by decide)
  exact (TickUnit.sameEdge.of_eq (hsent s.mergeOwn.fab.parent.toNat (replyBody t s.mergeOwn.tick.replies.flags.toNat
    s.mergeOwn.tick.replies.cause.toNat s.mergeOwn.tick.replies.stretch))).trans ⟨rfl, rfl, rfl, rfl, rfl, rfl⟩

/-- The device at an edge, before the work of that edge. -/
def State.atEdge (s : State) : State :=
  (s.reach s.tick.nextEdge).setTick { s.tick with
    edge := s.tick.nextEdge, nextEdge := s.tick.nextEdge + s.tick.period.toNat + 12 * s.tick.strNext.toNat
    nextNo := s.tick.nextNo + 1, strCur := s.tick.strNext, strNext := 0, strCause := 0
    stretchedTicks := if s.tick.strNext = 0 then s.tick.stretchedTicks else s.tick.stretchedTicks ++ [s.tick.nextNo] }

/-- The edge after the overrun that it finds, if any. -/
def State.lateEdge (s : State) : State :=
  let u := s.atEdge.tickMon.closePeak.takeOver.beaconLost
  if u.lateFor s.tick.nextNo then u.overran (s.tick.nextNo - 1) else u

/-- The edge before what the stream then may do. -/
def State.edgeDone (s : State) : State :=
  if s.lateEdge.tick.master || !s.lateEdge.job.multi then (s.lateEdge.sendBeacon s.tick.nextNo).mergeOwn
  else s.lateEdge.sendReply72 (s.tick.nextNo - 1)

theorem State.tickEdge_eq {s : State} (hedges : s.tick.edges = true) (hperiod : s.tick.period ≠ 0) :
    s.tickEdge = s.edgeDone.tryCommit := by
  rw [State.tickEdge, if_neg (by simpa [hedges] using hperiod)]
  rfl

theorem State.lateEdge_sameEdge (s : State) : s.atEdge.tick.sameEdge s.lateEdge.tick := by
  have hmon : s.atEdge.tickMon.closePeak.tick = s.atEdge.tick :=
    (State.closePeak_same _ .tick (by decide)).trans (State.tickMon_same _ .tick (by decide))
  have hbase := (TickUnit.sameEdge.of_eq hmon).trans ((State.takeOver_sameEdge _).trans (.of_eq (State.beaconLost_tick _)))
  unfold State.lateEdge
  dsimp only
  split
  · exact hbase.trans (State.overran_sameEdge _ _)
  · exact hbase

theorem State.edgeDone_sameEdge (s : State) : s.atEdge.tick.sameEdge s.edgeDone.tick := by
  refine s.lateEdge_sameEdge.trans ?_
  unfold State.edgeDone
  split
  · exact (State.sendBeacon_sameEdge _ _).trans (State.mergeOwn_sameEdge _)
  · exact State.sendReply72_sameEdge _ _

theorem State.edgeDone_cc (s : State) : s.edgeDone.cc = max s.cc s.tick.nextEdge := by
  have hlate : sameBut (.power :: .tick :: .tx :: holdFields) s.atEdge s.lateEdge := by
    have hbase := (((s.atEdge.tickMon_same.weaken (gs := .power :: .tick :: .tx :: holdFields) (by decide)).trans
      ((State.closePeak_same _).weaken (by decide))).trans ((State.takeOver_same _).weaken (by decide))).trans
      ((State.beaconLost_same _).weaken (by decide))
    unfold State.lateEdge
    dsimp only
    split
    · exact hbase.trans ((State.overran_same _ _).weaken (by decide))
    · exact hbase
  have hdone : sameBut [.ctr, .tx, .fab, .tick] s.lateEdge s.edgeDone := by
    unfold State.edgeDone
    split
    · exact (State.sendBeacon_same _ _).trans ((State.mergeOwn_same _).weaken (by decide))
    · exact State.sendReply72_same _ _
  have hclk : s.edgeDone.clk = s.atEdge.clk := (hdone .clk (by decide)).trans (hlate .clk (by decide))
  rw [State.cc, hclk]
  rfl

/-- What decides whether a stream is late: nothing that the work of an edge changes. -/
theorem State.lateFor_of_same {s t : State} (h : sameBut [.clk, .tick, .tx, .power] s t) (hstarted : t.tick.started = s.tick.started)
    (hcount : t.tick.count = s.tick.count) (hsnap : t.tick.snapFrom = s.tick.snapFrom) (e : Nat) : t.lateFor e = s.lateFor e := by
  have hjob : t.job = s.job := h .job (by decide)
  have hseqs : t.seqs = s.seqs := h .seqs (by decide)
  have hcopies : t.copies = s.copies := h .copies (by decide)
  have hfab : t.fab = s.fab := h .fab (by decide)
  have hsill : t.sill = s.sill := h .sill (by decide)
  have hcoll : t.coll = s.coll := h .coll (by decide)
  have hseed : t.seed = s.seed := h .seed (by decide)
  simp only [State.lateFor, State.endPending, State.tickDone, State.allWait, State.cutDue, State.isStep, State.isSave, State.boundary,
    State.queuesIdle, State.seq, hjob, hseqs, hcopies, hfab, hsill, hcoll, hseed, hstarted, hcount, hsnap]

theorem State.takeOver_kept (s : State) : s.takeOver.tick.started = s.tick.started ∧ s.takeOver.tick.count = s.tick.count ∧
    s.takeOver.tick.snapFrom = s.tick.snapFrom ∧ s.takeOver.tick.ovrCount = s.tick.ovrCount := by
  unfold State.takeOver
  dsimp only
  split <;> exact ⟨rfl, rfl, rfl, rfl⟩

theorem State.beaconLost_of_single {s : State} (h : s.job.multi = false) : s.beaconLost = s := by simp [State.beaconLost, h]

/-- On a device without a beacon tree an edge counts an overrun if the stream was late for it. -/
theorem State.lateEdge_of_single {s : State} (h : s.job.multi = false) : s.lateEdge.job.multi = false ∧
    s.lateEdge.tick.ovrCount = if s.lateFor s.tick.nextNo then BitVec.ofNat 32 (satAdd 32 s.tick.ovrCount.toNat 1) else s.tick.ovrCount := by
  generalize hu : s.atEdge.tickMon.closePeak.takeOver = u
  have hbefore : sameBut [.clk, .tick, .tx, .power] s s.atEdge.tickMon.closePeak :=
    ((((s.reach_same _).weaken (by decide)).trans ((State.setTick_same _ _).weaken (by decide))).trans
      ((State.tickMon_same s.atEdge).weaken (by decide))).trans ((State.closePeak_same _).weaken (by decide))
  have hsu : sameBut [.clk, .tick, .tx, .power] s u := hu ▸ hbefore.trans ((State.takeOver_same _).weaken (by decide))
  have hmon : s.atEdge.tickMon.closePeak.tick = s.atEdge.tick :=
    (State.closePeak_same _ .tick (by decide)).trans (State.tickMon_same _ .tick (by decide))
  obtain ⟨hstarted, hcount, hsnap, hovr⟩ := hu ▸ s.atEdge.tickMon.closePeak.takeOver_kept
  rw [hmon] at hstarted hcount hsnap hovr
  have hjob : u.job = s.job := hsu .job (by decide)
  rw [State.lateEdge, hu, State.beaconLost_of_single (by rw [hjob, h]), State.lateFor_of_same hsu hstarted hcount hsnap]
  split
  · exact ⟨(congrArg Job.multi hjob).trans h, congrArg (fun c : BitVec 32 => BitVec.ofNat 32 (satAdd 32 c.toNat 1)) hovr⟩
  · exact ⟨(congrArg Job.multi hjob).trans h, hovr⟩

theorem State.mergeOwn_ovrCount (s : State) : s.mergeOwn.tick.ovrCount = s.tick.ovrCount := rfl

theorem State.sendBeacon_of_single {s : State} (h : s.job.multi = false) (t : Nat) :
    (s.sendBeacon t).tick.ovrCount = s.tick.ovrCount := by
  simp only [State.sendBeacon, h, Bool.false_eq_true, if_false]
  rfl

/-- Settles O43: the edge and what it leaves (`tickEdge_eq`, `edgeDone_sameEdge`); an overrun is counted on a device alone by
`lateEdge_of_single`. -/
theorem tickEdgesFollow : Obligations.TickEdgesFollow := by
  intro s hedges hperiod
  have hrun : exec .tickEdge s = .next (s.tickEdge.wakeColl).settle := rfl
  obtain ⟨hedge, hnext, hno, hcur, hcount, hper⟩ := s.edgeDone_sameEdge
  refine ⟨s.edgeDone, by rw [hrun, State.tickEdge_eq hedges hperiod], s.edgeDone_cc, hedge, hnext, hno, hcur, hcount, hper,
    fun hsingle => ?_⟩
  obtain ⟨hmulti, hovr⟩ := State.lateEdge_of_single hsingle
  rw [State.edgeDone, if_pos (by simp [hmulti]), State.mergeOwn_ovrCount, State.sendBeacon_of_single hmulti, hovr]

/-! ### The start of a tick -/

/-- The number of a tick that starts stands in the tick unit. -/
def State.tickNumbered (s : State) (t : Nat) : State :=
  s.setTick { s.tick with
    count := BitVec.ofNat 64 t, started := true
    stretchedTicks := s.tick.stretchedTicks.filter (fun k => k ≥ t)
    lateLog := s.tick.lateLog.filter (fun p => p.1 ≥ t) }

/-- The start of a tick, but for its dies. -/
def State.tickBegun (s : State) (t body : Nat) : State :=
  let s := ((s.tickNumbered t).tierEdge t).tablesEdge
  s.setJob { s.job with nextBody := body, lists := s.job.lists.filter (fun p => p.1 ≥ t) }

theorem State.cc_setSeq (s : State) (d : Nat) (q : Seq) : (s.setSeq d q).cc = s.cc := rfl

/-- Every die is at bundle 0 of a body. -/
def State.atBody (s : State) (body : Nat) : State :=
  ([0, 1, 2, 3] : List Nat).foldl (fun (s : State) d =>
    s.setSeq d { body := body, freeAt := s.cc, fetchAt := s.prefetchFrom d }) s

theorem State.startTick_eq (s : State) (t body : Nat) : s.startTick t body =
    if ((s.tickBegun t body).atBody body).job.cmdlist then
      ([0, 1, 2, 3] : List Nat).foldl (fun (s : State) d => s.startCmdlistDie t d) ((s.tickBegun t body).atBody body)
    else (s.tickBegun t body).atBody body := by
  rw [State.startTick, State.tickBegun, State.tickNumbered, State.atBody]

theorem State.tickEdges_same (s : State) (t : Nat) : sameBut [.und, .parts, .ctr] s (s.tierEdge t).tablesEdge :=
  ((State.tierEdge_same s t).weaken (by decide)).trans ((State.tablesEdge_same _).weaken (by decide))

theorem State.tickBegun_same (s : State) (t body : Nat) : sameBut [.tick, .job, .und, .parts, .ctr] s (s.tickBegun t body) :=
  (((State.setTick_same s _).weaken (by decide)).trans (((s.tickNumbered t).tickEdges_same t).weaken (by decide))).trans
    ((State.setJob_same _ _).weaken (by decide))

theorem State.tickBegun_tick (s : State) (t body : Nat) : (s.tickBegun t body).tick = (s.tickNumbered t).tick :=
  (State.setJob_same _ _ .tick (by decide)).trans ((s.tickNumbered t).tickEdges_same t .tick (by decide))

theorem State.tickBegun_job (s : State) (t body : Nat) :
    (s.tickBegun t body).job = { s.job with nextBody := body, lists := s.job.lists.filter (fun p => p.1 ≥ t) } := by
  have hjob : ((s.tickNumbered t).tierEdge t).tablesEdge.job = s.job := (s.tickNumbered t).tickEdges_same t .job (by decide)
  rw [State.tickBegun, State.setJob_job, hjob]

theorem State.holdBundle_same (s : State) (d l c : Nat) : sameBut [.seqs, .ctr] s (s.holdBundle d l c) := by
  unfold State.holdBundle
  split
  · exact (s.setSeq_same _ _).weaken (by decide)
  · split
    · exact sameBut.refl _ _
    · exact (s.countHeld_same _ _).trans ((State.setSeq_same _ _ _).weaken (by decide))

theorem State.startCmdlistDie_same (s : State) (t d : Nat) : sameBut [.seqs, .ctr] s (s.startCmdlistDie t d) := by
  unfold State.startCmdlistDie
  split
  · exact ((s.count_same _ _).weaken (by decide)).trans ((State.setSeq_same _ _ _).weaken (by decide))
  · split
    · exact sameBut.refl _ _
    · exact s.holdBundle_same _ _ _

/-- The sequencers, as the start of a tick sets them. -/
theorem State.startTick_seqs (s : State) (t body : Nat) : sameBut [.seqs, .ctr] (s.tickBegun t body) (s.startTick t body) := by
  rw [State.startTick_eq]
  have hset : sameBut [.seqs, .ctr] (s.tickBegun t body) ((s.tickBegun t body).atBody body) :=
    sameBut.fold (fun u d => (u.setSeq_same _ _).weaken (by decide)) _ _
  split
  · exact hset.trans (sameBut.fold (fun u d => u.startCmdlistDie_same t d) _ _)
  · exact hset

theorem State.startTick_same (s : State) (t body : Nat) : sameBut [.tick, .seqs, .job, .und, .parts, .ctr] s (s.startTick t body) :=
  ((s.tickBegun_same t body).weaken (by decide)).trans ((s.startTick_seqs t body).weaken (by decide))

theorem State.startTick_tick (s : State) (t body : Nat) : (s.startTick t body).tick = (s.tickNumbered t).tick :=
  (s.startTick_seqs t body .tick (by decide)).trans (s.tickBegun_tick t body)

theorem State.startTick_job (s : State) (t body : Nat) :
    (s.startTick t body).job = { s.job with nextBody := body, lists := s.job.lists.filter (fun p => p.1 ≥ t) } :=
  (s.startTick_seqs t body .job (by decide)).trans (s.tickBegun_job t body)

/-- Outside command-list mode every die is at bundle 0 of its body. -/
theorem State.startTick_seq {s : State} (h : s.job.cmdlist = false) (t body : Nat) {d : Nat} (hd : d < 4) :
    (s.startTick t body).seq d =
      { body := body, freeAt := s.cc, fetchAt := if (s.seq d).waiting.isSome = true then (s.seq d).waitAt else s.cc - 128 } := by
  have hcc : (s.tickBegun t body).cc = s.cc := congrArg Clock.cc (s.tickBegun_same t body .clk (by decide))
  have hseq : ∀ e, (s.tickBegun t body).seq e = s.seq e := State.seq_of_same (s.tickBegun_same t body) (by decide)
  have hcmd : (s.tickBegun t body).job.cmdlist = false := by rw [State.tickBegun_job, h]
  rw [State.startTick_eq]
  simp only [State.atBody, List.foldl_cons, List.foldl_nil, State.setSeq_job, hcmd, Bool.false_eq_true, if_false, State.prefetchFrom,
    State.cc_setSeq, hcc]
  interval_cases d
  · simp [State.seq_setSeq_other, hseq]
  · simp [State.seq_setSeq_other, hseq]
  · simp [State.seq_setSeq_other, hseq]
  · simp [State.seq_setSeq_other, hseq]

/-! ### Commits -/

theorem exec_tickCommit_eq (s : State) : exec .tickCommit s = .next s.tryCommit.settle := rfl

section
variable {s : State}

theorem State.tickDone_not_endPending (h : s.tickDone = true) : s.endPending = false := by
  unfold State.tickDone at h
  unfold State.endPending
  simp only [Bool.and_eq_true] at h
  simp [h.1.2]

theorem State.tryCommit_of_endPending (h : s.endPending = true) : s.tryCommit = s.endJob := by simp only [State.tryCommit, h, if_true]

theorem State.tryCommit_of_not_done (hend : s.endPending = false) (h : s.tickDone = false ∨ s.tick.nextNo < s.tick.count.toNat + 2) :
    s.tryCommit = s := by
  rcases h with h | h
  · simp only [State.tryCommit, hend, h, Bool.not_false, Bool.true_or, Bool.false_eq_true, if_false, if_true]
  · simp only [State.tryCommit, hend, h, decide_true, Bool.or_true, Bool.false_eq_true, if_false, if_true]

/-- What follows the commit of a tick that is complete and whose edge has passed. -/
theorem State.tryCommit_of_done (h : s.tickDone = true) (hno : s.tick.count.toNat + 2 ≤ s.tick.nextNo) : s.tryCommit =
    if ([0, 1, 2, 3] : List Nat).any (fun d => (s.commitTick.seq d).jobEnd) then s.commitTick.endJob
    else if s.isSave && s.tick.stopFrom.any (fun k => k ≤ s.tick.count.toNat) then s.commitTick.stopJob s.tick.count.toNat s.nextBodyOf
    else if s.commitTick.cutDue then
      if s.commitTick.queuesIdle then s.commitTick.takeCut.startTick (s.tick.count.toNat + 1) s.nextBodyOf
      else s.commitTick.setSeed { s.commitTick.seed with pending := true }
    else s.commitTick.startTick (s.tick.count.toNat + 1) s.nextBodyOf := by
  rw [State.tryCommit, if_neg (by rw [State.tickDone_not_endPending h]; exact Bool.false_ne_true),
    if_neg (by simpa [h] using hno)]

end

/-- Settles O44: the start of a tick from its laws (`startTick_tick`, `startTick_seq`), the commit by what `tryCommit` finds. -/
theorem ticksCommitAndStart : Obligations.TicksCommitAndStart := by
  refine ⟨fun s t body ht hcmd => ⟨?_, ?_, ?_, fun d hd => State.startTick_seq hcmd t body hd, s.startTick_same t body⟩, ?_⟩
  · rw [State.startTick_tick]
    exact Nat.mod_eq_of_lt ht
  · rw [State.startTick_tick]
    rfl
  · rw [State.startTick_job]
  · rintro s t rfl
    refine ⟨fun hend => ?_, fun hend hnot => ?_, fun hdone hno => ⟨_, rfl, fun hend => ?_, fun hgoes => ⟨fun hstop => ?_, fun hnostop =>
      ⟨fun hcut => ?_, fun hcut hidle => ?_, fun hcut hidle => ?_⟩⟩⟩⟩
    · rw [exec_tickCommit_eq, State.tryCommit_of_endPending hend]
    · rw [exec_tickCommit_eq, State.tryCommit_of_not_done hend hnot]
    · obtain ⟨d, hd, hjobEnd⟩ := hend
      rw [exec_tickCommit_eq, State.tryCommit_of_done hdone hno, if_pos]
      exact List.any_eq_true.2 ⟨d, by simp only [List.mem_cons, List.not_mem_nil, or_false]; omega, hjobEnd⟩
    all_goals
      have hnoend : ¬ ([0, 1, 2, 3] : List Nat).any (fun d => (s.commitTick.seq d).jobEnd) = true := by
        simp [hgoes]
      rw [exec_tickCommit_eq, State.tryCommit_of_done hdone hno, if_neg hnoend]
    · obtain ⟨hsave, k, hk, hle⟩ := hstop
      rw [if_pos (by simp [hsave, hk, hle])]
    all_goals
      have hnot : ¬ (s.isSave && s.tick.stopFrom.any (fun k => k ≤ s.tick.count.toNat)) = true := by
        rcases hnostop with hsave | hlate
        · simp [hsave]
        · cases hk : s.tick.stopFrom with
          | none => simp
          | some k => simp [Nat.not_le.2 (hlate k hk)]
      rw [if_neg hnot]
    · rw [if_neg (by rw [hcut]; exact Bool.false_ne_true)]
    · rw [if_pos hcut, if_pos hidle]
    · rw [if_pos hcut, if_neg (by rw [hidle]; exact Bool.false_ne_true)]

/-! ### The release -/

/-- R67: the device at its release, before its first tick starts. -/
def State.releasing (s : State) (S : Nat) : State :=
  let s := s.setJob { s.job with stepNo := if S = 0 then 0 else s.job.stepNo, everReleased := true }
  let s := s.setJobState .running
  let s := s.setTick { s.tick with
    run := true, edges := true, missedFor := none, repro := true, beaconOk := false, missed := 0, ovrHead := 0, ovrLog := [], lateLog := []
    edge := s.cc, nextEdge := s.cc + s.tick.period.toNat, nextNo := S + 1
    strCur := 0, strNext := 0, strCause := 0, stretchedTicks := []
    ovrFlag := false, align := false, replies := {}, markReq := 0, stopFrom := none, snapFrom := none
    release := .idle, lastBeacon := none }
  { s with
    ctr := [], coll := {}
    fab := { s.fab with comps := [], routers := s.fab.routers.map (fun (p : Nat × Router) => (p.1, { p.2 with fences := 0, opNo := 0, openFence := none })) }
    seed := { s.seed with pending := false, cutTick := none }
    power := { s.power with peaks := [], tickPeak := 0, sinceRelease := 0 } }

/-- R67: the body that the first tick runs. -/
def State.firstBody (s : State) : Nat := if s.job.resumeTick = 0 then s.job.entryBody else s.job.nextBody

theorem State.release_eq (s : State) (S : Nat) : s.release S =
    if ((s.releasing S).startTick S s.firstBody).tickMon.tick.master || !((s.releasing S).startTick S s.firstBody).tickMon.job.multi then
      ((s.releasing S).startTick S s.firstBody).tickMon.sendBeacon S
    else ((s.releasing S).startTick S s.firstBody).tickMon := by
  rw [State.release, State.releasing, State.firstBody]

theorem State.setJobState_job {s : State} {j : JobState} (h : s.job.state ≠ j) : (s.setJobState j).job = { s.job with state := j } := by
  rw [State.setJobState, if_neg h]
  exact ((State.raise_same _ 33 .job (by decide)).trans (State.addTrace_same _ 4 0 _ .job (by decide))).trans rfl

/-- What the release itself leaves in the job: that it runs, its step number and that it was released. -/
theorem State.releasing_job {s : State} (h : s.job.state ≠ .running) (S : Nat) : (s.releasing S).job =
    { s.job with stepNo := if S = 0 then 0 else s.job.stepNo, everReleased := true, state := .running } :=
  (State.setJobState_job (s := s.setJob { s.job with stepNo := if S = 0 then 0 else s.job.stepNo, everReleased := true }) h)

theorem State.releasing_same (s : State) (S : Nat) :
    sameBut [.job, .ranger, .host, .tx, .tick, .ctr, .coll, .fab, .seed, .power] s (s.releasing S) := by
  refine ((s.setJob_same { s.job with stepNo := if S = 0 then 0 else s.job.stepNo, everReleased := true }).weaken (by decide)).trans
    (((State.setJobState_same _ .running).weaken (by decide)).trans ?_)
  intro f hf
  cases f <;> simp [Field.same, State.releasing] at hf ⊢

/-- A beacon that is sent changes its own notes of the tick unit alone, not what a release sets. -/
theorem State.sendBeacon_run (s : State) (t : Nat) : (s.sendBeacon t).tick.run = s.tick.run ∧ (s.sendBeacon t).tick.edges = s.tick.edges ∧
    (s.sendBeacon t).tick.started = s.tick.started ∧ (s.sendBeacon t).tick.release = s.tick.release ∧
    (s.sendBeacon t).tick.ovrLog = s.tick.ovrLog := by
  have hsent (b : Bool) (l : List Byte) : (if b then s.sendChildren tBeacon l else s).tick = s.tick := by
    split
    · exact s.sendChildren_same _ _ .tick (by decide)
    · rfl
  have hsame := hsent s.job.multi (beaconBody t s.tick.replies.stretch
    (s.tick.replies.cause.toNat % 8 + 16 * b2n (s.tick.replies.flags.getLsbD 0) + 32 * s.tick.markReq) s.senderRank 0)
  refine ⟨?_, ?_, ?_, ?_, ?_⟩
  · exact (congrArg TickUnit.run hsame :)
  · exact (congrArg TickUnit.edges hsame :)
  · exact (congrArg TickUnit.started hsame :)
  · exact (congrArg TickUnit.release hsame :)
  · exact (congrArg TickUnit.ovrLog hsame :)

/-- What follows the start of the first tick: the peaks are noted, and the root sends the first beacon. -/
theorem State.release_same (s : State) (S : Nat) :
    sameBut [.ctr, .tx, .fab, .tick] ((s.releasing S).startTick S s.firstBody) (s.release S) := by
  have hmon := (State.tickMon_same ((s.releasing S).startTick S s.firstBody)).weaken (gs := [.ctr, .tx, .fab, .tick]) (by decide)
  rw [State.release_eq]
  split
  · exact hmon.trans (State.sendBeacon_same _ _)
  · exact hmon

theorem State.release_tick (s : State) (S : Nat) :
    ((s.releasing S).tickNumbered S).tick.sameEdge (s.release S).tick ∧ (s.release S).tick.run = true ∧
    (s.release S).tick.edges = true ∧ (s.release S).tick.started = true ∧ (s.release S).tick.release = .idle ∧
    (s.release S).tick.ovrLog = [] := by
  have hmon : ((s.releasing S).startTick S s.firstBody).tickMon.tick = ((s.releasing S).tickNumbered S).tick :=
    (State.tickMon_same _ .tick (by decide)).trans (State.startTick_tick _ _ _)
  rw [State.release_eq]
  split
  · obtain ⟨hrun, hedges, hstarted, hrelease, hlog⟩ := ((s.releasing S).startTick S s.firstBody).tickMon.sendBeacon_run S
    refine ⟨(TickUnit.sameEdge.of_eq hmon).trans (State.sendBeacon_sameEdge _ _), ?_, ?_, ?_, ?_, ?_⟩
    · rw [hrun, hmon]; rfl
    · rw [hedges, hmon]; rfl
    · rw [hstarted, hmon]; rfl
    · rw [hrelease, hmon]; rfl
    · rw [hlog, hmon]; rfl
  · rw [hmon]
    exact ⟨.refl _, rfl, rfl, rfl, rfl, rfl⟩

theorem State.releasing_cc (s : State) (S : Nat) : (s.releasing S).cc = s.cc :=
  congrArg Clock.cc (s.releasing_same S .clk (by decide))

theorem State.releasing_edge (s : State) (S : Nat) :
    (s.releasing S).tick.edge = s.cc ∧ (s.releasing S).tick.nextEdge = s.cc + s.tick.period.toNat := by
  have hrun := State.setJobState_same (s.setJob { s.job with stepNo := if S = 0 then 0 else s.job.stepNo, everReleased := true }) .running
  have hcc := congrArg Clock.cc (hrun .clk (by decide) :)
  have hperiod := congrArg (fun t : TickUnit => t.period.toNat) (hrun .tick (by decide) :)
  exact ⟨hcc, congrArg₂ (· + ·) hcc hperiod⟩

theorem State.release_cc (s : State) (S : Nat) : (s.release S).cc = s.cc :=
  congrArg Clock.cc (((s.release_same S .clk (by decide)).trans (State.startTick_same _ _ _ .clk (by decide))).trans
    (s.releasing_same S .clk (by decide)))

theorem State.releasing_coll (s : State) (S : Nat) : (s.releasing S).coll = {} := rfl

theorem State.release_job {s : State} (h : s.job.state ≠ .running) (S : Nat) :
    (s.release S).job.state = .running ∧ (s.release S).job.stepNo = if S = 0 then 0 else s.job.stepNo := by
  rw [show (s.release S).job = _ from s.release_same S .job (by decide), State.startTick_job, State.releasing_job h]
  exact ⟨rfl, rfl⟩

theorem State.release_seq {s : State} (h : s.job.state ≠ .running) (hcmd : s.job.cmdlist = false) (S : Nat) {d : Nat} (hd : d < 4) :
    (s.release S).seq d = { body := s.firstBody, freeAt := s.cc
                            fetchAt := if (s.seq d).waiting.isSome = true then (s.seq d).waitAt else s.cc - 128 } := by
  have hcmd' : (s.releasing S).job.cmdlist = false := by rw [State.releasing_job h]; exact hcmd
  rw [State.seq_of_same (s.release_same S) (by decide), State.startTick_seq hcmd' S _ hd, State.releasing_cc,
    State.seq_of_same (s.releasing_same S) (by decide)]

theorem exec_jobRelease_of_go {s : State} (hjob : s.job.state = .waitArm) (hready : s.tick.pendingReady = none) {cc : Nat}
    (hgo : s.tick.release = .goAt cc) : exec .jobRelease s = .next ((s.reach cc).release s.tick.armStart.toNat).settle := by
  have hrelease : s.jobRelease = (s.reach cc).release s.tick.armStart.toNat := by simp [State.jobRelease, hjob, hready, hgo]
  exact congrArg (fun t : State => Host.Outcome.next t.settle) hrelease

/-- Settles O45: a device whose `GO` has come is released (`release_tick`, `release_job`, `release_seq`); an armed master sends `GO`. -/
theorem jobsAreReleased : Obligations.JobsAreReleased := by
  intro s hjob hready
  refine ⟨fun cc hgo => ?_, fun harmed hmaster => ?_⟩
  · have hstopped : (s.reach cc).job.state ≠ .running := by rw [State.reach_job, hjob]; decide
    have hcc : (s.reach cc).cc = max s.cc cc := rfl
    have hzero : (s.tick.armStart.toNat = 0) = (s.tick.armStart = 0) := propext ⟨fun h => BitVec.eq_of_toNat_eq h, fun h => by rw [h]; rfl⟩
    obtain ⟨⟨hedge, hnext, hno, -, hcount, -⟩, hrun, hedges, hstarted, hrelease, hlog⟩ := (s.reach cc).release_tick s.tick.armStart.toNat
    obtain ⟨hstate, hstep⟩ := State.release_job hstopped s.tick.armStart.toNat
    refine ⟨_, exec_jobRelease_of_go hjob hready hgo, hstate, hrun, hedges, hstarted, ?_, hno, ?_, ?_, ?_, hrelease, ?_, ?_, hlog,
      fun hcmd d hd => State.release_seq hstopped hcmd _ hd⟩
    · rw [hcount]
      exact Nat.mod_eq_of_lt (Nat.lt_of_lt_of_le s.tick.armStart.isLt (by decide))
    · rw [State.release_cc, hcc]
    · rw [hedge, ← hcc]
      exact (State.releasing_edge _ _).1
    · rw [hnext, ← hcc]
      exact (State.releasing_edge _ _).2
    · rw [hstep]; simp only [hzero]; rfl
    · exact ((State.release_same _ _ .coll (by decide)).trans (State.startTick_same _ _ _ .coll (by decide))).trans (State.releasing_coll _ _)
  · have htick : ((s.reach (alignUp 12 s.cc)).sendChildren tBeacon (beaconBody s.tick.armStart.toNat 0 128 0 0)).tick = s.tick :=
      State.sendChildren_same _ _ _ .tick (by decide)
    have hgo : s.jobRelease = ((s.reach (alignUp 12 s.cc)).sendChildren tBeacon (beaconBody s.tick.armStart.toNat 0 128 0 0)).goAt
        (alignUp 12 s.cc * 64 + s.tick.delay) := by simp [State.jobRelease, hjob, hready, harmed, hmaster, htick]
    exact congrArg (fun t : State => Host.Outcome.next t.settle) hgo

end Sys2Proof.Machine

/-! PROOFS. Fences and resets of functions (R479, R483 to R485): of the fence unit, what a gate and a reset leave as it was. -/

namespace Sys2Proof.Machine

/-! ### What containment reaches -/

/-- What a gate or a function's reset may change, beside the fault records of the fence unit. -/
def containFields : List Field := [.sill, .copies, .seqs, .job, .ranger, .host, .tx, .seed, .hbmStacks] ++ landFields

/-- A fence unit that got records and nothing else. -/
def FenceUnit.onlyRecords (a b : FenceUnit) : Prop := ∃ n ring, b = { a with fseq := n, ring := ring }

theorem FenceUnit.onlyRecords.refl (a : FenceUnit) : a.onlyRecords a := ⟨a.fseq, a.ring, rfl⟩

theorem FenceUnit.onlyRecords.trans {a b c : FenceUnit} : a.onlyRecords b → b.onlyRecords c → a.onlyRecords c := by
  rintro ⟨n, l, rfl⟩ ⟨m, k, rfl⟩
  exact ⟨m, k, rfl⟩

/-- The device but for what containment reaches is as it was, and its fence unit got records at most. -/
def State.contained (s t : State) : Prop := sameBut (.fence :: containFields) s t ∧ s.fence.onlyRecords t.fence

theorem State.contained.of_same {s t : State} {fs : List Field} (h : sameBut fs s t) (hfs : ∀ f ∈ fs, f ∈ containFields) : s.contained t :=
  ⟨h.weaken fun f hf => List.mem_cons_of_mem _ (hfs f hf), by
    have hfence : t.fence = s.fence := h .fence fun hf => absurd (hfs _ hf) (by decide)
    exact hfence ▸ .refl _⟩

theorem State.contained.refl (s : State) : s.contained s := .of_same (sameBut.refl [] s) (by simp)

theorem State.contained.trans {s t u : State} (h : s.contained t) (k : t.contained u) : s.contained u :=
  ⟨h.1.trans k.1, h.2.trans k.2⟩

theorem State.contained.fold {α : Type} {f : State → α → State} (h : ∀ s a, State.contained s (f s a)) (l : List α) (s : State) :
    s.contained (l.foldl f s) := by
  induction l generalizing s with
  | nil => exact .refl s
  | cons a l ih => exact (h s a).trans (ih _)

theorem State.record_contained (s : State) (r : FaultRec) : s.contained (s.record r) :=
  ⟨(s.record_same r).weaken (by decide), s.fence.fseq + 1, ({ r with fseq := s.fence.fseq, tick := s.tick.count.toNat, time := s.time } :: s.fence.ring).take 1024, by
    exact (State.addTrace_same _ 5 0 _ .fence (by decide))⟩

theorem State.hold_contained (s : State) (r : FaultRec) : s.contained (s.hold r) := by
  by_cases h : s.job.state.holdable = true
  · exact ((State.contained.of_same (State.abandon_same s) (by decide)).trans (State.record_contained _ _)).trans
      (.of_same (State.hold_after s r h) (by decide))
  · simp only [State.hold, h]
    exact s.record_contained r

theorem State.linkDown_contained (s : State) (p fail : Nat) : s.contained (s.linkDown p fail) := by
  have hport (u : State) (k : Nat) (v : Port) (x : FabricUnit) (w : Port) :
      u.contained ((((u.count cLdDiscard k).setPort p v).setFab x).setPort p w) :=
    (((State.contained.of_same (u.count_same _ _) (by decide)).trans (.of_same (State.setPort_same _ _ _) (by decide))).trans
      (.of_same (State.setFab_same _ _) (by decide))).trans (.of_same (State.setPort_same _ _ _) (by decide))
  unfold State.linkDown
  dsimp only
  split
  · exact (((hport _ _ _ _ _).trans (.of_same (State.count_same _ _ _) (by decide))).trans
      (.of_same (State.linkEvent_same _ _ _) (by decide))).trans (State.record_contained _ _)
  · exact hport _ _ _ _ _

/-! ### Seedbank and checkpoint work that a gate abandons -/

theorem State.setSeed_same (s : State) (b : Seedbank) : sameBut [.seed] s (s.setSeed b) := by
  intro f hf; cases f <;> simp [Field.same] at hf ⊢

theorem State.setSlots_same (s : State) (v : Understory) : sameBut [.und] s { s with und := v } := s.setUnd_same v

theorem State.setChannel_same (s : State) (c : Nat) (v : Channel) : sameBut [.und] s (s.setChannel c v) := s.setUnd_same _

theorem State.journalMap_same (s : State) (key : Nat) : sameBut [.und, .parts, .ctr] s (s.journalMap key) :=
  ((s.setUnd_same _).weaken (by decide)).trans ((State.touchWrite_same _ _ _ _).weaken (by decide))

theorem State.unmapPage_same (s : State) (key : Nat) : sameBut [.und] s (s.unmapPage key) := by
  unfold State.unmapPage
  dsimp only
  split
  · exact sameBut.refl _ _
  · exact (s.setChannel_same _ _).trans (State.setUnd_same _ _)

theorem State.dropPage_same (s : State) (key : Nat) : sameBut [.und, .parts, .ctr] s (s.dropPage key) := by
  unfold State.dropPage
  split
  · exact sameBut.refl _ _
  · exact (((s.unmapPage_same key).weaken (by decide)).trans ((State.setUnd_same _ _).weaken (by decide))).trans (State.journalMap_same _ _)

theorem State.programPage_same {s t : State} {key : Nat} {main : List Byte} (h : s.programPage key main = some t) :
    sameBut [.und, .parts, .ctr, .free] s t := by
  unfold State.programPage at h
  dsimp only at h
  split at h
  · cases h
  · obtain rfl := Option.some.inj h
    exact ((((s.unmapPage_same key).weaken (by decide)).trans ((State.spend_same _).weaken (by decide))).trans
      ((State.setChannel_same _ _ _).weaken (by decide))).trans
      (((State.setUnd_same _ _).weaken (by decide)).trans ((State.journalMap_same _ _).weaken (by decide)))

theorem State.programSlot_same (k : Nat) (l : List (List Byte)) : ∀ (i : Nat) {s t : State}, s.programSlot k i l = some t →
    sameBut [.und, .parts, .ctr, .free] s t := by
  induction l with
  | nil => rintro i s t h; obtain rfl := Option.some.inj h; exact sameBut.refl _ _
  | cons b l ih =>
    intro i s t h
    unfold State.programSlot at h
    split at h
    · cases h
    · next u hu => exact (State.programPage_same hu).trans (ih _ h)

theorem State.checkReadOnly_same (s : State) : sameBut [.und] s s.checkReadOnly := by
  unfold State.checkReadOnly
  split
  · exact s.setUnd_same _
  · exact sameBut.refl _ _

/-- What a checkpoint's steps may change. -/
def checkpointFields : List Field := [.und, .parts, .ctr, .free, .job, .ranger, .host, .tx, .seed, .fab]

theorem State.beginCheckpoint_same (s : State) (l : LongCmd) : sameBut checkpointFields s (s.beginCheckpoint l) := by
  have hslot (v : Understory) : sameBut checkpointFields s { s with und := v } := (s.setSlots_same v).weaken (by decide)
  unfold State.beginCheckpoint
  dsimp only
  split
  · exact (hslot _).trans ((State.finishLong_same _ _ _ _).weaken (by decide))
  · next t ht =>
    exact (((hslot _).trans ((State.dropPage_same _ _).weaken (by decide))).trans ((State.programSlot_same _ _ _ ht).weaken (by decide))).trans
      (((State.checkReadOnly_same t).weaken (by decide)).trans ((State.setLong_same _ _).weaken (by decide)))

theorem State.abandonCheckpoint_same (s : State) : sameBut checkpointFields s s.abandonCheckpoint := by
  unfold State.abandonCheckpoint
  split
  · exact ((s.setSeed_same { s.seed with pulling := none }).weaken (by decide)).trans ((State.finishLong_same _ _ _ _).weaken (by decide))
  · exact sameBut.refl _ _

theorem State.restoreFailed_same (s : State) : sameBut checkpointFields s s.restoreFailed := by
  unfold State.restoreFailed
  split
  · exact s.abandonCheckpoint_same
  · exact (((s.setSeed_same _).weaken (by decide)).trans ((State.setJobState_same _ _).weaken (by decide))).trans
      ((State.finishLong_same _ _ _ _).weaken (by decide))

/-- A snapshot's packet is never a fault of the job: it waits, or it leaves. -/
theorem State.sendSnap_same (s : State) (dest flags kind slot off : Nat) (data : List Byte) (what : Nat) :
    sameBut [.ctr, .tx, .fab] s (s.sendSnap dest flags kind slot off data what) := by
  have hpump (u : State) (q : Queued) (h : q.origin = .snap dest what) : sameBut [.ctr, .tx, .fab] u (u.pumpOne q) := by
    unfold State.pumpOne
    split
    · exact u.launch_routed q (by simp only [State.unreachable, h]; split <;> rfl)
    · exact (u.setFab_same _).weaken (by decide)
  exact (((s.count_same _ _).weaken (by decide)).trans ((State.setFab_same _ _).weaken (by decide))).trans (hpump _ _ rfl)

theorem State.askHome_same (s : State) (want : Nat) (homes : List Nat) : sameBut checkpointFields s (s.askHome want homes) := by
  unfold State.askHome
  split
  · exact s.restoreFailed_same
  · exact ((s.setSeed_same _).weaken (by decide)).trans ((State.sendSnap_same _ _ _ _ _ _ _ _).weaken (by decide))

theorem State.readBack_same (s : State) (c : Copying) (l : LongCmd) : sameBut checkpointFields s (s.readBack c l) := by
  unfold State.readBack
  split
  · exact s.beginCheckpoint_same _
  · exact s.askHome_same _ _

theorem State.endCut_same (s : State) (e : Nat) : sameBut checkpointFields s (s.endCut e) := by
  have hend (b : Seedbank) (k : Nat) (m : List Byte) : sameBut checkpointFields s (State.report { s with seed := b } k m) :=
    ((s.setSeed_same b).weaken (by decide)).trans ((State.report_same _ _ _).weaken (by decide))
  unfold State.endCut
  dsimp only
  split
  · exact hend _ _ _
  · split
    · exact (hend _ _ _).trans ((State.finishLong_same _ _ _ _).weaken (by decide))
    · split
      · exact (hend _ _ _).trans ((State.finishLong_same _ _ _ _).weaken (by decide))
      · exact hend _ _ _

theorem State.completeGeneration_same (s : State) (c : Copying) : sameBut checkpointFields s (s.completeGeneration c) := by
  have hend (b : Seedbank) (k : Nat) (m : List Byte) : sameBut checkpointFields s (State.report { s with seed := b } k m) :=
    ((s.setSeed_same b).weaken (by decide)).trans ((State.report_same _ _ _).weaken (by decide))
  unfold State.completeGeneration
  dsimp only
  split
  · split
    · exact (hend _ _ _).trans ((State.finishLong_same _ _ _ _).weaken (by decide))
    · split
      · exact (hend _ _ _).trans (State.readBack_same _ _ _)
      · exact hend _ _ _
  · exact hend _ _ _

theorem State.checkHomes_same (s : State) : sameBut checkpointFields s s.checkHomes := by
  unfold State.checkHomes
  split
  · exact sameBut.refl _ _
  · split
    · exact s.endCut_same 3
    · split
      · exact s.completeGeneration_same _
      · exact sameBut.refl _ _

theorem State.loseHome_same (s : State) (home : Nat) : sameBut checkpointFields s (s.loseHome home) := by
  have hlost (x : FabricUnit) (b : Seedbank) (r : Nat) (m : List Byte) :
      sameBut checkpointFields s (((State.count { (s.setFab x) with seed := b } cSbHomeLost 1).report r m)) :=
    ((((s.setFab_same x).weaken (by decide)).trans ((State.setSeed_same _ b).weaken (by decide))).trans
      ((State.count_same _ _ _).weaken (by decide))).trans ((State.report_same _ _ _).weaken (by decide))
  unfold State.loseHome
  split
  · exact sameBut.refl _ _
  · split
    · exact sameBut.refl _ _
    · exact (hlost _ _ _ _).trans (State.checkHomes_same _)

theorem State.loseLines_same (s : State) (d : Nat) : sameBut [.hbm, .parts] s (s.loseLines d) := by
  unfold State.loseLines
  exact (sameBut.fold (fun u l => (u.setHbm_same _).weaken (by decide)) _ s).trans ((State.dropLines_same _ _ _).weaken (by decide))

/-! ### Fences -/

/-- R525: a fence of the Seedbank ends what is pulled. -/
theorem State.pullStopped_contained (s : State) : s.contained
    (if (s.longIs 0x41).isSome && s.seed.pulling.isSome then
      ((s.setSeed { s.seed with pulling := none }).setJobState s.job.before).finishLong sAborted 0 []
    else if s.seed.pulling.isSome then s.abandonCheckpoint
    else s) := by
  split
  · exact ((State.contained.of_same (State.setSeed_same _ _) (by decide)).trans (.of_same (State.setJobState_same _ _) (by decide))).trans
      (.of_same (State.finishLong_same _ _ _ _) (by decide))
  split
  · exact .of_same (State.abandonCheckpoint_same _) (by decide)
  · exact .refl _

theorem State.gate_contained (s : State) (f : Nat) : s.contained (s.gate f) := by
  unfold State.gate
  split
  · exact .refl s
  split
  · split
    · exact .of_same (s.loseLines_same _) (by decide)
    · exact .refl s
  split
  · exact .of_same (s.dropSillageOps_same _) (by decide)
  split
  · exact .of_same (s.setStack_same _ _) (by decide)
  split
  · exact (s.linkDown_contained _ _).trans (.fold (fun u h => .of_same (u.loseHome_same h) (by decide)) _ _)
  split
  · exact .refl s
  split
  · exact .of_same s.abandonCheckpoint_same (by decide)
  split
  · refine State.contained.trans (t := if s.seed.copying.isSome then s.endCut 4 else s) ?_ (State.pullStopped_contained _)
    split
    · exact .of_same (s.endCut_same 4) (by decide)
    · exact .refl s
  split
  · exact .fold (fun u p => u.linkDown_contained p 0) _ s
  · exact .refl s

/-- The fence unit once a function's bit is set. -/
def FenceUnit.withBit (x : FenceUnit) (f : Nat) : FenceUnit := { x with fenced := x.fenced ||| BitVec.twoPow 116 f }

/-- R479: a fence leaves the bit set, and of the fence unit nothing else changes but its records. -/
theorem State.fenceFunc_fence (s : State) (f : Nat) (r : FaultRec) :
    (if s.fenced f then s.fence else s.fence.withBit f).onlyRecords (s.fenceFunc f r).fence := by
  unfold State.fenceFunc
  split
  · exact (s.record_contained r).2
  · dsimp only
    have hend (u : State) (b : Bool) (q : FaultRec) : u.contained ((if b then u.hold q else u.record q).raise 34) := by
      refine State.contained.trans ?_ (.of_same (State.raise_same _ _) (by decide))
      split
      · exact u.hold_contained q
      · exact u.record_contained q
    exact ((State.gate_contained (s.setFence _) f).trans (hend _ _ _)).2

theorem FenceUnit.withBit_bit (x : FenceUnit) {f : Nat} (hf : f < 116) : (x.withBit f).fenced.getLsbD f = true := by
  simp [FenceUnit.withBit, hf]

theorem State.fenceFunc_fenced (s : State) {f : Nat} (hf : f < 116) (r : FaultRec) : (s.fenceFunc f r).fenced f = true := by
  obtain ⟨n, ring, heq⟩ := s.fenceFunc_fence f r
  rw [State.fenced, heq]
  split
  · assumption
  · exact FenceUnit.withBit_bit _ hf

/-- A fence changes of the fence unit the bits and the records alone. -/
theorem State.fenceFunc_counts (s : State) (f : Nat) (r : FaultRec) : (s.fenceFunc f r).fence.accepted = s.fence.accepted ∧
    (s.fenceFunc f r).fence.completed = s.fence.completed ∧ (s.fenceFunc f r).fence.queue = s.fence.queue := by
  obtain ⟨n, ring, heq⟩ := s.fenceFunc_fence f r
  rw [heq]
  split <;> exact ⟨rfl, rfl, rfl⟩

theorem State.clearFence_contained (s : State) (f : Nat) :
    (s.setFence { s.fence with fenced := s.fence.fenced &&& ~~~ BitVec.twoPow 116 f }).contained (s.clearFence f) := by
  unfold State.clearFence
  dsimp only
  split
  · exact .of_same (State.setStack_same _ _ _) (by decide)
  · refine .fold (fun u p => ?_) _ _
    split
    · exact .refl u
    · exact .of_same (u.setPort_same _ _) (by decide)

/-- The bit of a function is cleared, and no other. -/
theorem State.clearFence_fence (s : State) (f : Nat) :
    ({ s.fence with fenced := s.fence.fenced &&& ~~~ BitVec.twoPow 116 f } : FenceUnit).onlyRecords (s.clearFence f).fence :=
  (s.clearFence_contained f).2

theorem fencedBit_cleared (b : BitVec 116) (f g : Nat) :
    (b &&& ~~~ BitVec.twoPow 116 f).getLsbD g = (if g = f then false else b.getLsbD g) := by
  by_cases hg : g < 116
  · by_cases h : g = f
    · simp [h]
    · simp [h, hg]
  · simp [BitVec.getLsbD_of_ge _ _ (Nat.le_of_not_lt hg)]

theorem State.clearFence_fenced (s : State) (f g : Nat) : (s.clearFence f).fenced g = if g = f then false else s.fenced g := by
  obtain ⟨n, ring, heq⟩ := s.clearFence_fence f
  rw [State.fenced, heq]
  exact fencedBit_cleared _ _ _

/-! ### Resets -/

/-- R484: what the completion of a command leaves in the fence unit. -/
def FenceUnit.completedWith (x : FenceUnit) (c : FresetCmd) (result us : Nat) : FenceUnit :=
  { x with
    completed := x.completed + 1
    lastFunc := BitVec.ofNat 8 c.func, lastAction := BitVec.ofNat 2 c.action, lastResult := BitVec.ofNat 3 result
    lastTime := BitVec.ofNat 16 (min 65535 (ceilDiv us 100)) }

theorem State.freseted_same (s : State) (c : FresetCmd) (result us : Nat) :
    sameBut [.job, .ranger, .host, .tx] (s.setFence (s.fence.completedWith c result us)) (s.freseted c result us) := by
  have hraise := (State.raise_same (s.setFence (s.fence.completedWith c result us)) 34).weaken (gs := [.job, .ranger, .host, .tx]) (by decide)
  unfold State.freseted
  dsimp only
  split
  · split
    · exact hraise.trans (State.finishLong_same _ _ _ _)
    · exact hraise
  · exact hraise

theorem State.freseted_fence (s : State) (c : FresetCmd) (result us : Nat) :
    (s.freseted c result us).fence = s.fence.completedWith c result us :=
  s.freseted_same c result us .fence (by decide)

theorem State.setSillage_same (s : State) (d : Nat) (u : Sillage) : sameBut [.sill] s (s.setSillage d u) := by
  intro f hf; cases f <;> simp [Field.same] at hf ⊢

theorem State.undefine_same (s : State) (a n : Nat) : sameBut [.sram, .free] s (s.undefine a n) :=
  ((s.setSram_same _).weaken (by decide)).trans ((State.spend_same _).weaken (by decide))

theorem State.resetCluster_same (s : State) (n : Nat) : sameBut [.clusters, .sram, .free] s (s.resetCluster n) :=
  ((s.setCluster_same n _).weaken (by decide)).trans ((State.undefine_same _ _ _).weaken (by decide))

theorem State.resetRegion_same (s : State) (r : Nat) : sameBut [.clusters, .sram, .free, .hbm, .parts] s (s.resetRegion r) := by
  have hclusters := sameBut.fold (fs := [.clusters, .sram, .free, .hbm, .parts])
    (fun (u : State) j => (u.resetCluster_same (4 * r + j)).weaken (by decide)) [0, 1, 2, 3] s
  unfold State.resetRegion
  dsimp only
  refine (hclusters.trans ?_).trans ((State.undefine_same _ _ _).weaken (by decide))
  split
  · exact (State.loseLines_same _ _).weaken (by decide)
  · exact sameBut.refl _ _

theorem State.buildPools_same (s : State) (d : Nat) : sameBut [.sram, .sill] s (s.buildPools d) :=
  (sameBut.fold (fun (u : State) (p : (Nat × Nat) × Nat) => (u.setSram_same _).weaken (by decide)) _ s).trans
    ((State.setSillage_same _ _ _).weaken (by decide))

theorem State.leaveFrame_same (s : State) (page : Nat) : sameBut [.und] s (s.leaveFrame page) := s.setPage_same _ _

theorem State.freeFrame_same (s : State) (a f : Nat) : sameBut [.und] s (s.freeFrame a f) := s.setUnd_same _

theorem State.dropTransfers_same (s : State) (channel : Nat → Bool) (zeros : Bool) : sameBut [.und, .ctr] s (s.dropTransfers channel zeros) := by
  have hfree (u : State) (p a f : Nat) : sameBut [.und] u ((u.leaveFrame p).freeFrame a f) :=
    (u.leaveFrame_same p).trans (State.freeFrame_same _ _ _)
  unfold State.dropTransfers
  refine sameBut.fold (fun u p => ?_) _ s
  split
  · exact sameBut.refl _ _
  split
  · exact sameBut.refl _ _
  split
  · split
    · split
      · exact (hfree _ _ _ _).weaken (by decide)
      · exact sameBut.refl _ _
    · exact ((hfree _ _ _ _).weaken (by decide)).trans ((State.count_same _ _ _).weaken (by decide))
  · exact (u.setPage_same _ _).weaken (by decide)
  · exact sameBut.refl _ _

theorem State.setColl_same (s : State) (c : CollUnit) : sameBut [.coll] s { s with coll := c } := by
  intro f hf; cases f <;> simp [Field.same] at hf ⊢

theorem State.resetRouter_same (s : State) (d : Nat) : sameBut [.fab, .coll] s (s.resetRouter d) :=
  ((s.setRouter_same d _).weaken (by decide)).trans ((State.setColl_same _ _).weaken (by decide))

theorem State.abortPosted_same (s : State) : sameBut [.job, .ranger, .host, .tx] s s.abortPosted :=
  (sameBut.fold (fun u _ => u.complete_same _ _ _ _) _ s).trans ((State.setHost_same _ _).weaken (by decide))

theorem sameBut.ite {fs : List Field} {s t u : State} {c : Prop} [Decidable c] (ht : sameBut fs s t) (hu : sameBut fs s u) :
    sameBut fs s (if c then t else u) := by
  split
  · exact ht
  · exact hu

theorem State.resetContents_same (s : State) (f : Nat) : sameBut containFields s (s.resetContents f) := by
  refine sameBut.ite ((s.resetCluster_same _).weaken (by decide)) <| sameBut.ite ((s.resetRegion_same _).weaken (by decide)) <|
    sameBut.ite (((s.setSillage_same _ _).weaken (by decide)).trans ((State.buildPools_same _ _).weaken (by decide))) <|
    sameBut.ite (sameBut.refl _ _) <| sameBut.ite ((((s.dropTransfers_same _ _).weaken (by decide)).trans
      ((State.abandonCheckpoint_same _).weaken (by decide))).trans (sameBut.fold (fun u i => (u.setChannel_same _ _).weaken (by decide)) _ _)) <|
    sameBut.ite (((s.dropTransfers_same _ _).weaken (by decide)).trans ((State.abandonCheckpoint_same _).weaken (by decide))) <|
    sameBut.ite (sameBut.refl _ _) <| sameBut.ite ((s.resetRouter_same _).weaken (by decide)) <|
    sameBut.ite ((s.abortPosted_same.weaken (by decide)).trans ((State.setHost_same _ _).weaken (by decide)))
    ((sameBut.fold (fun u _ => (u.complete_same _ _ _ _).weaken (by decide)) _ s).trans ((State.setHost_same _ _).weaken (by decide)))

theorem State.retrain_same (s : State) (p : Nat) : sameBut [.fab, .free] s (s.retrain p) := by
  unfold State.retrain
  split
  · exact sameBut.refl _ _
  · exact ((((s.setPort_same p _).weaken (by decide)).trans ((State.spend_same _).weaken (by decide))).trans
      ((State.setFab_same _ _).weaken (by decide))).trans ((State.setPort_same _ _ _).weaken (by decide))

/-! ### Commands -/

/-- The device once a command is counted as accepted. -/
def State.fresetTaken (s : State) (func action : Nat) (req : Requester) : State :=
  (s.setFence { s.fence with accepted := s.fence.accepted + 1 }).addTrace 6 0
    (leBytes 1 func ++ leBytes 1 action ++ leBytes 1 (requesterCode req))

theorem State.fresetTaken_fence (s : State) (func action : Nat) (req : Requester) :
    (s.fresetTaken func action req).fence = { s.fence with accepted := s.fence.accepted + 1 } :=
  State.addTrace_same _ 6 0 _ .fence (by decide)

section
variable {s : State} {func action : Nat} {req : Requester}

theorem State.freset_of_range (htransit : s.power.transit = false) (hrange : 0x74 ≤ func) (owner : Nat) :
    s.freset func action req owner =
      (s.fresetTaken func action req).freseted { func := func, action := action, req := req, owner := owner } 1 0 := by
  rw [State.freset, if_neg (by rw [htransit]; exact Bool.false_ne_true), if_pos (by simp [hrange])]
  rfl

theorem State.freset_of_full (htransit : s.power.transit = false) (hfunc : func < 0x73) (haction : action ≤ 2)
    (hfull : 16 ≤ s.fence.queue.length) (owner : Nat) : s.freset func action req owner =
      (s.fresetTaken func action req).freseted { func := func, action := action, req := req, owner := owner } 2 0 := by
  have hqueue : 16 ≤ (s.fresetTaken func action req).fence.queue.length := by rw [State.fresetTaken_fence]; exact hfull
  rw [State.freset, if_neg (by rw [htransit]; exact Bool.false_ne_true), if_neg (by simp; omega), if_neg (by simp; omega)]
  exact if_pos hqueue

/-- A command that finds an empty queue is run at once. -/
theorem State.freset_of_empty (htransit : s.power.transit = false) (hfunc : func < 0x73) (haction : action ≤ 2)
    (hempty : s.fence.queue = []) (owner : Nat) : s.freset func action req owner = State.runQueue 1
      ((s.fresetTaken func action req).setFence { s.fence with
        accepted := s.fence.accepted + 1, queue := [{ func := func, action := action, req := req, owner := owner }] }) := by
  have hfence := s.fresetTaken_fence func action req
  have hroom : ¬ (s.fresetTaken func action req).fence.queue.length ≥ 16 := by rw [hfence, hempty]; decide
  rw [State.freset, if_neg (by rw [htransit]; exact Bool.false_ne_true), if_neg (by simp; omega), if_neg (by simp; omega)]
  refine (if_neg hroom).trans ?_
  show State.runQueue ((s.fresetTaken func action req).fence.queue ++ [_]).length ((s.fresetTaken func action req).setFence
    { (s.fresetTaken func action req).fence with queue := (s.fresetTaken func action req).fence.queue ++ [_] }) = _
  rw [hfence, hempty]
  rfl

end

/-! ### The queue -/

theorem State.runQueue_of_empty {s : State} (h : s.fence.queue = []) (n : Nat) : State.runQueue n s = s := by
  cases n with
  | zero => rfl
  | succ n => simp only [State.runQueue, h]

theorem State.runFence_of_fence {s : State} {c : FresetCmd} (h : c.action = 1) :
    ∃ r : FaultRec, s.runFence c = (s.fenceFunc c.func r).freseted c 0 2 := by
  unfold State.runFence
  simp only [h, if_true]
  exact ⟨_, rfl⟩

theorem State.runFence_of_unfence {s : State} {c : FresetCmd} (h : c.action ≠ 1) :
    ∃ u : State, s.runFence c = u.freseted c 0 2 ∧ (s.clearFence c.func).contained u := by
  unfold State.runFence
  simp only [h, if_false]
  refine ⟨_, rfl, ?_⟩
  split
  · exact (State.record_contained _ _).trans (.fold (fun u a => .of_same (u.complete_same _ _ _ _) (by decide)) _ _)
  · exact State.record_contained _ _

/-- R479: a fence or an unfence at the head of the queue is done at once. -/
theorem State.runQueue_fence {s : State} {c : FresetCmd} (hqueue : s.fence.queue = [c]) (haction : c.action ≠ 0) :
    State.runQueue 1 s = (s.setFence { s.fence with queue := [] }).runFence c := by
  simp only [State.runQueue, hqueue, haction, if_false]

/-- R485: a reset at the head of the queue begins and stays. -/
theorem State.runQueue_reset {s : State} {c : FresetCmd} (hqueue : s.fence.queue = [c]) (haction : c.action = 0) (hnew : c.startNs = 0) :
    State.runQueue 1 s =
      (s.setFence { s.fence with queue := [{ c with wasClear := !s.fenced c.func, startNs := s.time + 1 }] }).beginReset c := by
  simp [State.runQueue, hqueue, haction, hnew]

/-- R485 step 1: of the fence unit a reset that begins sets the function's bit and records it. -/
theorem State.beginReset_fence (s : State) (c : FresetCmd) : ∃ r : FaultRec, ∃ u : State, u.fence = s.fence ∧
    s.beginReset c = if u.fenced c.func then u else u.fenceFunc c.func r := by
  unfold State.beginReset
  refine ⟨_, _, ?_, rfl⟩
  split
  · exact State.writeBackLines_same _ _ _ .fence (by decide)
  · rfl

/-! ### The end of a reset -/

/-- R485: the contents of a function that was reset, at the end of its time. -/
def State.resetBase (s : State) (f us : Nat) : State := (s.reach (s.cc + max 1 (min us (resetBound f)) * 1200)).resetContents f

/-- R485: the bit, the links and the record of a reset that ended. -/
def State.resetNoted (u : State) (c : FresetCmd) (ok : Bool) (t : Nat) : State :=
  let s := if ok && c.wasClear then u.clearFence c.func else u
  let s := if ok && 0x5C ≤ c.func && c.func < 0x64 then s.retrain (c.func - 0x5C)
    else if ok && 0x6E ≤ c.func && c.func < 0x72 then (portsOf (c.func - 0x6E)).foldl State.retrain s else s
  let s := s.record { kind := 13, func := c.func, check := if ok then 0 else 3, owner := c.owner, action := 8
                      detail := leBytes 1 (requesterCode c.req) ++ leBytes 4 t }
  if c.func = 0x72 then s.raise 36 else s

theorem State.resetNoted_contained (u : State) (c : FresetCmd) (ok : Bool) (t : Nat) :
    (if ok && c.wasClear then u.clearFence c.func else u).contained (u.resetNoted c ok t) := by
  have hlinks (s : State) : s.contained (if ok && 0x5C ≤ c.func && c.func < 0x64 then s.retrain (c.func - 0x5C)
      else if ok && 0x6E ≤ c.func && c.func < 0x72 then (portsOf (c.func - 0x6E)).foldl State.retrain s else s) := by
    refine .of_same (fs := [.fab, .free]) (sameBut.ite (s.retrain_same _) (sameBut.ite ?_ (sameBut.refl _ _))) (by decide)
    exact sameBut.fold State.retrain_same _ s
  have hvector (s : State) : s.contained (if c.func = 0x72 then s.raise 36 else s) := by
    split
    · exact .of_same (s.raise_same 36) (by decide)
    · exact .refl s
  exact ((hlinks _).trans (State.record_contained _ _)).trans (hvector _)

theorem State.resetDone_of_single {s : State} {c : FresetCmd} (hqueue : s.fence.queue = [c]) (haction : c.action = 0)
    (hstarted : c.startNs ≠ 0) (htransit : s.power.transit = false) {ok : Bool} {us : Nat} {passed : Bool}
    (hpassed : (ok && (s.resetBase c.func us).passesCheck c.func) = passed) :
    s.resetDone ok us =
      (((s.resetBase c.func us).resetNoted c passed (max 1 (min us (resetBound c.func)))).setFence
        { ((s.resetBase c.func us).resetNoted c passed (max 1 (min us (resetBound c.func)))).fence with queue := [] }).freseted c
        (if passed then 0 else 3) (max 1 (min us (resetBound c.func))) := by
  subst hpassed
  have hgoes : ¬ (decide (c.action ≠ 0) || decide (c.startNs = 0) || s.power.transit) = true := by simp [haction, hstarted, htransit]
  unfold State.resetDone
  rw [hqueue]
  refine (if_neg hgoes).trans ?_
  exact State.runQueue_of_empty (congrArg FenceUnit.queue (State.freseted_fence _ _ _ _)) _

theorem State.resetBase_same (s : State) (f us : Nat) : sameBut (.clk :: containFields) s (s.resetBase f us) :=
  ((s.reach_same _).weaken (by decide)).trans ((State.resetContents_same _ f).weaken (by decide))

theorem State.resetBase_cc (s : State) (f us : Nat) : (s.resetBase f us).cc = s.cc + max 1 (min us (resetBound f)) * 1200 := by
  have hclk := State.resetContents_same (s.reach (s.cc + max 1 (min us (resetBound f)) * 1200)) f .clk (by decide)
  exact (congrArg Clock.cc hclk).trans (Nat.max_eq_right (Nat.le_add_right _ _))

/-- What the end of the only reset of the queue leaves: the bit, the counts and the time. -/
theorem State.resetEnds {s : State} {c : FresetCmd} (hqueue : s.fence.queue = [c]) (haction : c.action = 0)
    (hstarted : c.startNs ≠ 0) (htransit : s.power.transit = false) {ok : Bool} {us : Nat} {passed : Bool}
    (hpassed : (ok && (s.resetBase c.func us).passesCheck c.func) = passed) :
    (s.resetDone ok us).fenced c.func = (if (passed && c.wasClear) = true then false else s.fenced c.func) ∧
    (s.resetDone ok us).fence.queue = [] ∧ (s.resetDone ok us).fence.completed = s.fence.completed + 1 ∧
    (s.resetDone ok us).fence.lastResult = BitVec.ofNat 3 (if passed then 0 else 3) ∧
    (s.resetDone ok us).cc = s.cc + max 1 (min us (resetBound c.func)) * 1200 := by
  rw [State.resetDone_of_single hqueue haction hstarted htransit hpassed]
  obtain ⟨hsame, n, ring, hrecords⟩ := (s.resetBase c.func us).resetNoted_contained c passed (max 1 (min us (resetBound c.func)))
  generalize (s.resetBase c.func us).resetNoted c passed (max 1 (min us (resetBound c.func))) = v at hsame hrecords ⊢
  have hbase : (s.resetBase c.func us).fence = s.fence := s.resetBase_same c.func us .fence (by decide)
  have hcleared : (if (passed && c.wasClear) = true then (s.resetBase c.func us).clearFence c.func else s.resetBase c.func us).fence.completed =
      s.fence.completed ∧ (if (passed && c.wasClear) = true then (s.resetBase c.func us).clearFence c.func else
        s.resetBase c.func us).fenced c.func = if (passed && c.wasClear) = true then false else s.fenced c.func := by
    split
    · obtain ⟨m, l, hclear⟩ := (s.resetBase c.func us).clearFence_fence c.func
      exact ⟨by rw [hclear, hbase], by rw [State.clearFence_fenced, if_pos rfl]⟩
    · exact ⟨by rw [hbase], by rw [State.fenced, hbase]; rfl⟩
  obtain ⟨hcompleted, hbit⟩ := hcleared
  have hclk : v.cc = (s.resetBase c.func us).cc := by
    refine (congrArg Clock.cc (hsame .clk (by decide))).trans ?_
    split
    · exact congrArg Clock.cc (((State.clearFence_contained _ _).1 .clk (by decide)))
    · rfl
  refine ⟨?_, ?_, ?_, ?_, ?_⟩
  · rw [State.fenced, State.freseted_fence]
    exact (congrArg (fun x : FenceUnit => x.fenced.getLsbD c.func) hrecords).trans hbit
  · rw [State.freseted_fence]; rfl
  · rw [State.freseted_fence]
    exact congrArg (· + 1) ((congrArg FenceUnit.completed hrecords).trans hcompleted)
  · rw [State.freseted_fence]; rfl
  · rw [← s.resetBase_cc, ← hclk]
    exact congrArg Clock.cc (State.freseted_same _ _ _ _ .clk (by decide))

/-! ### What each command leaves -/

section
variable {s : State} {f : Nat} (htransit : s.power.transit = false) (hf : f < 0x73) (hempty : s.fence.queue = [])
include htransit hf hempty

theorem State.freset_fence_eq (req : Requester) : ∃ (u : State) (r : FaultRec),
    s.freset f 1 req 0 = (u.fenceFunc f r).freseted { func := f, action := 1, req := req } 0 2 ∧
    u.fence = { s.fence with accepted := s.fence.accepted + 1, queue := [] } := by
  rw [State.freset_of_empty htransit hf (by decide) hempty, State.runQueue_fence rfl (by decide : (1 : Nat) ≠ 0)]
  obtain ⟨r, hrun⟩ := State.runFence_of_fence (c := { func := f, action := 1, req := req }) rfl
  exact ⟨_, r, hrun, rfl⟩

theorem State.freset_unfence_eq (req : Requester) : ∃ u : State,
    s.freset f 2 req 0 = u.freseted { func := f, action := 2, req := req } 0 2 ∧
    ({ s.fence with accepted := s.fence.accepted + 1, queue := [], fenced := s.fence.fenced &&& ~~~ BitVec.twoPow 116 f } :
      FenceUnit).onlyRecords u.fence := by
  rw [State.freset_of_empty htransit hf (by decide) hempty, State.runQueue_fence rfl (by decide : (2 : Nat) ≠ 0)]
  obtain ⟨u, hrun, hu⟩ := State.runFence_of_unfence (c := { func := f, action := 2, req := req }) (by decide : (2 : Nat) ≠ 1)
  exact ⟨u, hrun, (State.clearFence_fence _ _).trans hu.2⟩

theorem State.freset_reset_eq (req : Requester) : ∃ (u : State) (r : FaultRec) (n : Nat),
    s.freset f 0 req 0 = (if u.fenced f then u else u.fenceFunc f r) ∧
    u.fence = { s.fence with
      accepted := s.fence.accepted + 1
      queue := [{ func := f, action := 0, req := req, wasClear := !s.fenced f, startNs := n }] } := by
  rw [State.freset_of_empty htransit hf (by decide) hempty, State.runQueue_reset rfl rfl rfl]
  obtain ⟨r, u, hu, heq⟩ := State.beginReset_fence (((s.fresetTaken f 0 req).setFence { s.fence with
      accepted := s.fence.accepted + 1, queue := [{ func := f, action := 0, req := req }] }).setFence { s.fence with
        accepted := s.fence.accepted + 1
        queue := [{ func := f, action := 0, req := req, wasClear := !s.fenced f, startNs := (s.fresetTaken f 0 req).time + 1 }] })
    { func := f, action := 0, req := req, wasClear := !s.fenced f, startNs := (s.fresetTaken f 0 req).time + 1 }
  exact ⟨u, r, _, heq, hu⟩

end

/-- The commands that write `FRESET_CMD` for a function. -/
theorem fresetCommands {f : BitVec 8} {req : Requester} {P : Instr → Prop} {s : State}
    (h : ∀ action, action ≤ 2 → ∀ c : Instr, exec c s = .next (s.freset f.toNat action req 0).settle → P c) :
    ∀ c ∈ [Instr.fresetFence f req, .fresetUnfence f req, .fresetReset f req], P c := by
  simp only [List.forall_mem_cons, List.not_mem_nil, false_imp_iff, implies_true, and_true]
  exact ⟨h 1 (by decide) _ rfl, h 2 (by decide) _ rfl, h 0 (by decide) _ rfl⟩

/-- Settles O55: each command by the equation of its kind; a reset that ends by `resetEnds`. -/
theorem functionsAreFencedAndReset : Obligations.FunctionsAreFencedAndReset := by
  intro s f req us htransit
  have hfunc : BitVec.ofNat 8 f.toNat = f := BitVec.eq_of_toNat_eq (by simp)
  refine ⟨fun hf hempty => ⟨?_, ?_, ?_⟩, fun hrange => fresetCommands fun action haction c hc => ⟨_, hc, ?_⟩, fun hf hfull =>
    fresetCommands fun action haction c hc => ⟨_, hc, ?_⟩, fun c hqueue haction hstarted hrange => ⟨fun hpass => ?_, ?_⟩, ?_⟩
  · obtain ⟨u, r, heq, hu⟩ := State.freset_fence_eq htransit hf hempty req
    obtain ⟨hacc, hcomp, -⟩ := u.fenceFunc_counts f.toNat r
    refine ⟨_, rfl, ?_⟩
    rw [heq, State.fenced, State.freseted_fence]
    refine ⟨u.fenceFunc_fenced (by omega) r, hacc.trans (by rw [hu]), congrArg (· + 1) (hcomp.trans (by rw [hu])), rfl, rfl, hfunc⟩
  · obtain ⟨u, heq, n, ring, hu⟩ := State.freset_unfence_eq htransit hf hempty req
    refine ⟨_, rfl, ?_⟩
    simp only [heq, State.fenced, State.freseted_fence]
    have hbit (g : Nat) : u.fence.fenced.getLsbD g = if g = f.toNat then false else s.fence.fenced.getLsbD g := by
      rw [hu]
      exact fencedBit_cleared _ _ _
    refine ⟨(hbit _).trans (if_pos rfl), fun g hg => (hbit g).trans (if_neg hg), by rw [hu]; rfl, by rw [hu]; rfl, rfl, rfl, hfunc⟩
  · obtain ⟨u, r, n, heq, hu⟩ := State.freset_reset_eq htransit hf hempty req
    refine ⟨_, rfl, ?_⟩
    rw [heq]
    by_cases hset : u.fenced f.toNat = true
    · rw [if_pos hset]
      exact ⟨hset, by rw [hu], by rw [hu], _, by rw [hu], rfl, rfl, rfl, rfl⟩
    · obtain ⟨hacc, hcomp, hqueue⟩ := u.fenceFunc_counts f.toNat r
      rw [if_neg hset]
      exact ⟨u.fenceFunc_fenced (by omega) r, by rw [hacc, hu], by rw [hcomp, hu], _, by rw [hqueue, hu], rfl, rfl, rfl, rfl⟩
  · rw [State.freset_of_range htransit hrange, State.freseted_fence, State.fresetTaken_fence]
    exact ⟨rfl, rfl, rfl, rfl⟩
  · rw [State.freset_of_full htransit hf haction hfull, State.freseted_fence, State.fresetTaken_fence]
    exact ⟨rfl, rfl, rfl, rfl⟩
  · have hpassed : (true && (s.resetBase c.func us).passesCheck c.func) = true := by
      have hsec : (s.resetBase c.func us).sec = s.sec := s.resetBase_same c.func us .sec (by decide)
      rw [Bool.true_and, State.passesCheck, hsec]
      by_cases h : c.func = 0x72
      · simp [hpass h]
      · simp [h]
    obtain ⟨hbit, hempty, hcomp, hlast, hcc⟩ := State.resetEnds hqueue haction hstarted htransit hpassed
    exact ⟨_, rfl, hbit, hempty, hcomp, hlast, hcc⟩
  · obtain ⟨hbit, hempty, hcomp, hlast, hcc⟩ := State.resetEnds hqueue haction hstarted htransit (ok := false) (us := us) rfl
    exact ⟨_, rfl, hbit, hempty, hcomp, hlast, hcc⟩
  · have hrun : exec .heartwoodWatchdog s = .next (if s.power.transit then s else
      ((s.record { kind := 11, func := 0x72 }).raise 36).freset 0x72 0 .ranger 0).settle := rfl
    rw [hrun, if_neg (by rw [htransit]; exact Bool.false_ne_true)]

end Sys2Proof.Machine

/-! PROOFS. The completion of a mailbox command (R464). -/

namespace Sys2Proof.Machine

/-! ### Blocks of a memory -/

theorem leBytes_length (n v : Nat) : (leBytes n v).length = n := by
  induction n generalizing v with
  | zero => rfl
  | succ n ih => rw [leBytes, List.length_cons, ih]

section
variable {V : Type} [DecidableEq V] {d : V} {m : List (Nat × V)} (h : Cells.wf d m = true)
include h

/-- The start of a block is read where it is written. -/
theorem getBlock_putBlock_prefix (a : Nat) (vs ws : List V) : getBlock d a vs.length (putBlock d a (vs ++ ws) m) = vs := by
  rw [getBlock_cellAt d a _ _ (Cells.wf_putBlock d a _ m h)]
  refine List.ext_getElem (by simp) fun i h1 h2 => ?_
  rw [List.getElem_map, List.getElem_range, cellAt_putBlock d a _ _ m h, if_pos (by rw [List.length_append]; omega), Nat.add_sub_cancel_left,
    List.getD_append _ _ _ _ h2, List.getD_eq_getElem _ _ h2]

/-- A block away from the one written reads as before. -/
theorem getBlock_putBlock_apart {a b n : Nat} {vs : List V} (hab : a + n ≤ b ∨ b + vs.length ≤ a) :
    getBlock d a n (putBlock d b vs m) = getBlock d a n m := by
  rw [getBlock_cellAt d a _ _ (Cells.wf_putBlock d b vs m h), getBlock_cellAt d a _ _ h]
  refine List.map_congr_left fun i hi => ?_
  have hi := List.mem_range.1 hi
  rw [cellAt_putBlock d b _ vs m h, if_neg (by omega)]

end

/-! ### What a vector leaves of the host unit -/

/-- The mailboxes, their commands and transfers are as they were. -/
def HostUnit.sameBoxes (a b : HostUnit) : Prop :=
  b.mailbox = a.mailbox ∧ b.post = a.post ∧ b.accepted = a.accepted ∧ b.long = a.long ∧ b.xfers = a.xfers

theorem HostUnit.sameBoxes.refl (a : HostUnit) : a.sameBoxes a := ⟨rfl, rfl, rfl, rfl, rfl⟩

theorem State.sendVector_host (s : State) (v : Nat) : s.host.sameBoxes (s.sendVector v).host ∧
    (s.sendVector v).host.irqStatus = s.host.irqStatus := by
  unfold State.sendVector
  split
  · exact ⟨.refl _, rfl⟩
  · exact ⟨⟨rfl, rfl, rfl, rfl, rfl⟩, rfl⟩

theorem State.raise_sameBoxes (s : State) (v : Nat) : s.host.sameBoxes (s.raise v).host := by
  obtain ⟨hmailbox, hpost, haccepted, hlong, hxfers⟩ := (State.sendVector_host (s.setHost { s.host with
    irqStatus := s.host.irqStatus ||| BitVec.twoPow 38 v
    fresh := { s.hostFresh with irq := s.hostFresh.irq ||| BitVec.twoPow 38 v } }) v).1
  exact ⟨hmailbox, hpost, haccepted, hlong, hxfers⟩

/-- A vector that is raised stands in `IRQ_STATUS`. -/
theorem State.raise_irqStatus (s : State) {v : Nat} (hv : v < 38) : (s.raise v).host.irqStatus.getLsbD v = true := by
  have hirq := (State.sendVector_host (s.setHost { s.host with
    irqStatus := s.host.irqStatus ||| BitVec.twoPow 38 v
    fresh := { s.hostFresh with irq := s.hostFresh.irq ||| BitVec.twoPow 38 v } }) v).2
  refine (congrArg (fun b : BitVec 38 => b.getLsbD v) hirq).trans ?_
  simp [hv]

theorem State.stateBack_sameBoxes (s : State) (a : Accepted) : s.host.sameBoxes (s.stateBack a).host := by
  unfold State.stateBack
  split
  · unfold State.setJobState
    split
    · exact .refl _
    · exact (State.raise_sameBoxes (State.addTrace (s.setJob { s.job with state := s.job.before }) 4 0 _) 33)
  · exact .refl _

/-! ### The completion -/

/-- R464: the words that a completion leaves in the mailboxes. -/
def completedMailbox (m : List Host.Cell) (a : Accepted) (status detail time : Nat) (result : List Byte) : List Host.Cell :=
  putBlock zeroByte (mbBase a.mb + 16) (leBytes 4 a.seq ++ leBytes 2 status ++ leBytes 2 result.length)
    (putBlock zeroByte (mbBase a.mb + 24) (leBytes 8 detail ++ leBytes 8 time) (putBlock zeroByte (mbBase a.mb + 0x840) result m))

/-- R464: the host unit after a completion, but for the vector. -/
theorem State.complete_host (s : State) (a : Accepted) (status detail : Nat) (result : List Byte) : ∃ time,
    (s.complete a status detail result).host.mailbox = completedMailbox s.host.mailbox a status detail time result ∧
    (s.complete a status detail result).host.post = s.host.post &&& ~~~ BitVec.twoPow 32 a.mb ∧
    (s.complete a status detail result).host.accepted = s.host.accepted.filter (fun b => b.mb ≠ a.mb) ∧
    (s.complete a status detail result).host.long = s.host.long.filter (fun l => l.req.mb ≠ a.mb) ∧
    (s.complete a status detail result).host.xfers = s.host.xfers.filter (fun x => x.req.mb ≠ a.mb) := by
  obtain ⟨hmailbox, hpost, haccepted, hlong, hxfers⟩ := s.stateBack_sameBoxes a
  rw [← hmailbox, ← hpost, ← haccepted, ← hlong, ← hxfers]
  unfold State.complete
  exact ⟨_, State.raise_sameBoxes _ _⟩

theorem State.complete_irqStatus (s : State) {a : Accepted} (hmb : a.mb < 32) (status detail : Nat) (result : List Byte) :
    (s.complete a status detail result).host.irqStatus.getLsbD a.mb = true := by
  unfold State.complete
  exact State.raise_irqStatus _ (by omega)

theorem State.complete_inProgress (s : State) (a : Accepted) (status detail : Nat) (result : List Byte) :
    (s.complete a status detail result).inProgress a.mb = false := by
  obtain ⟨time, -, -, haccepted, hlong, hxfers⟩ := s.complete_host a status detail result
  simp only [State.inProgress, haccepted, hlong, hxfers, Bool.or_eq_false_iff, List.any_eq_false, List.mem_filter, decide_eq_true_eq]
  refine ⟨⟨fun b hb => hb.2, ?_⟩, fun x hx => hx.2⟩
  cases hl : s.host.long with
  | none => rfl
  | some l => by_cases h : l.req.mb = a.mb <;> simp [Option.filter, h]

section
variable {m : List Host.Cell} (h : Memory.wf m = true) (a : Accepted) (status detail time : Nat) {result : List Byte}
include h

theorem completedMailbox_result : getBlock zeroByte (mbBase a.mb + 0x840) result.length
    (completedMailbox m a status detail time result) = result := by
  have hresult := Memory.wf_putBlock (mbBase a.mb + 0x840) result m h
  have hdetail := Memory.wf_putBlock (mbBase a.mb + 24) (leBytes 8 detail ++ leBytes 8 time) _ hresult
  rw [completedMailbox, getBlock_putBlock_apart hdetail (.inr (by simp only [List.length_append, leBytes_length]; omega)),
    getBlock_putBlock_apart hresult (.inr (by simp only [List.length_append, leBytes_length]; omega)), getBlock_putBlock _ _ _ _ h]

theorem completedMailbox_status : getBlock zeroByte (mbBase a.mb + 16) 8 (completedMailbox m a status detail time result) =
    leBytes 4 a.seq ++ leBytes 2 status ++ leBytes 2 result.length := by
  have hresult := Memory.wf_putBlock (mbBase a.mb + 0x840) result m h
  have hdetail := Memory.wf_putBlock (mbBase a.mb + 24) (leBytes 8 detail ++ leBytes 8 time) _ hresult
  exact getBlock_putBlock zeroByte (mbBase a.mb + 16) (leBytes 4 a.seq ++ leBytes 2 status ++ leBytes 2 result.length) _ hdetail

theorem completedMailbox_detail : getBlock zeroByte (mbBase a.mb + 24) 8 (completedMailbox m a status detail time result) =
    leBytes 8 detail := by
  have hresult := Memory.wf_putBlock (mbBase a.mb + 0x840) result m h
  have hdetail := Memory.wf_putBlock (mbBase a.mb + 24) (leBytes 8 detail ++ leBytes 8 time) _ hresult
  rw [completedMailbox, getBlock_putBlock_apart hdetail (.inr (by simp only [List.length_append, leBytes_length]; omega))]
  have hprefix := getBlock_putBlock_prefix hresult (mbBase a.mb + 24) (leBytes 8 detail) (leBytes 8 time)
  rwa [leBytes_length] at hprefix

/-- The words of another mailbox stay. -/
theorem completedMailbox_other (hresult : result.length ≤ 1984) {mb off n : Nat} (hmb : mb ≠ a.mb) (hoff : off + n ≤ 4096) :
    getBlock zeroByte (mbBase mb + off) n (completedMailbox m a status detail time result) = getBlock zeroByte (mbBase mb + off) n m := by
  have hwf := Memory.wf_putBlock (mbBase a.mb + 0x840) result m h
  have hdetail := Memory.wf_putBlock (mbBase a.mb + 24) (leBytes 8 detail ++ leBytes 8 time) _ hwf
  have hapart (o k : Nat) (ho : o + k ≤ 4096) : mbBase mb + off + n ≤ mbBase a.mb + o ∨ mbBase a.mb + o + k ≤ mbBase mb + off := by
    simp only [mbBase]
    omega
  rw [completedMailbox, getBlock_putBlock_apart hdetail (hapart _ _ (by simp only [List.length_append, leBytes_length]; omega)),
    getBlock_putBlock_apart hwf (hapart _ _ (by simp only [List.length_append, leBytes_length]; omega)),
    getBlock_putBlock_apart h (hapart _ _ (by omega))]

end

/-- Settles O51: the words of the mailbox from what the completion writes (`completedMailbox`), the rest from `complete_host`. -/
theorem commandsComplete : Obligations.CommandsComplete := by
  intro s a status detail result hmb hlen hwf
  obtain ⟨time, hmailbox, hpost, -⟩ := s.complete_host a status detail result
  refine ⟨_, rfl, ?_, ?_, ?_, hpost, s.complete_inProgress _ _ _ _, s.complete_irqStatus hmb _ _ _, fun mb off n hne hlt hoff => ?_,
    s.complete_same _ _ _ _⟩
  · rw [State.mbBytes, hmailbox, completedMailbox_result hwf]
  · rw [State.mbBytes, hmailbox, completedMailbox_status hwf]
  · rw [State.mbBytes, hmailbox, completedMailbox_detail hwf]
  · rw [State.mbBytes, hmailbox, completedMailbox_other hwf a _ _ _ hlen hne hoff]
    rfl

end Sys2Proof.Machine

/-! PROOFS. Packets on their way, packets without an answer (R361, R389, R410, R418), and the root of a pass-through (R441). -/

namespace Sys2Proof.Machine

theorem State.linked_addressed (s : State) (p q : Pkt) : (s.linked q).addressed p = s.addressed p := by
  obtain ⟨c, v, h⟩ := s.exists_linked_eq q
  rw [h]
  rfl

/-- A command's answer, from what its meaning makes of the state. -/
theorem next_settle {a b : State} (h : a = b) : (.next a.settle : Result) = .next b.settle := h ▸ rfl

section
variable {s : State} {p q : Pkt} {port : Fin 8} (hq : q = { p with via := some port })
include hq

theorem exec_packetForward_of_down (hdown : s.fab.up.getLsbD port = false) :
    exec (.packetForward port p) s = .next (s.count cLdDiscard 1).settle := by
  have hrun : exec (.packetForward port p) s =
    .next (s.fromLink q (fun s => if s.addressed q then s else s.forwardFrom port q)).settle := by rw [hq]; rfl
  rw [hrun]
  subst hq
  exact next_settle (if_pos (by rw [hdown]; rfl))

theorem exec_packetForward_of_up (hup : s.fab.up.getLsbD port = true) : exec (.packetForward port p) s =
    .next (if s.addressed q then s.linked q else (s.linked q).forwardFrom port q).settle := by
  have harrives : s.arrives q := by
    intro r hr
    rw [hq] at hr
    exact Option.some.inj hr ▸ hup
  have hrun : exec (.packetForward port p) s =
    .next (s.fromLink q (fun s => if s.addressed q then s else s.forwardFrom port q)).settle := by rw [hq]; rfl
  rw [hrun, State.fromLink_of_arrives harrives, State.linked_addressed]

end

theorem State.forwardFrom_of_blocked {s : State} {port : Nat} {p : Pkt} (hport : s.nextPort p < 8)
    (hcross : s.crosses (portDie port) (portDie (s.nextPort p)) = false) : s.forwardFrom port p = s := by
  simp [State.forwardFrom, hport, hcross]

theorem State.forwardFrom_of_open {s : State} {port : Nat} {p : Pkt}
    (h : 8 ≤ s.nextPort p ∨ s.crosses (portDie port) (portDie (s.nextPort p)) = true) : s.forwardFrom port p = s.forward p := by
  unfold State.forwardFrom
  refine if_neg fun hblocked => ?_
  rw [Bool.and_eq_true, decide_eq_true_eq, Bool.not_eq_true'] at hblocked
  rcases h with h | h
  · exact absurd hblocked.1 (Nat.not_lt.2 h)
  · exact absurd hblocked.2 (by rw [h]; decide)

theorem exec_hdrDrop_of_arrives {s : State} {p : Pkt} (h : s.arrives p) : exec (.hdrDrop p) s = .next
    (if !s.addressed p then (s.linked p).forward p
      else if !p.hcrcOk || !knownTypes.contains p.typ.toNat then (s.linked p).count cHdrDrop 1 else s.linked p).settle := by
  have hrun : exec (.hdrDrop p) s = .next (s.fromLink p (fun s => if !s.addressed p then s.forward p
      else if !p.hcrcOk || !knownTypes.contains p.typ.toNat then s.count cHdrDrop 1 else s)).settle := rfl
  rw [hrun, State.fromLink_of_arrives h, State.linked_addressed]

section
variable {s : State} {k : Nat} {x : Kept} (h : s.openKept k = some x)
include h

theorem State.resend_of_due (hbusy : x.busy = none) (hless : x.resends < 4)
    (hearly : isRequest x.pkt.typ.toNat = true → x.last + usCc 200 < x.first + s.loadLimit) :
    s.resend k = ((s.reach (x.last + usCc 200)).count cE2eResend 1).sendAgain x (x.resends + 1) := by
  unfold State.resend
  rw [h]
  refine if_neg fun hlate => ?_
  simp only [hbusy, Option.isSome_none, Bool.false_or, Bool.or_eq_true, decide_eq_true_eq, Bool.and_eq_true] at hlate
  rcases hlate with hmany | ⟨hreq, hlimit⟩
  · exact absurd hmany (Nat.not_le.2 hless)
  · exact absurd hlimit (Nat.not_le.2 (hearly hreq))

theorem State.e2eLost_of_last (hbusy : x.busy = none) (hmany : 4 ≤ x.resends) :
    s.e2eLost k = ((s.reach (x.last + usCc 200)).losePacket x).pump := by
  unfold State.e2eLost
  rw [h]
  exact if_neg (by simp [hbusy, Nat.not_lt.2 hmany])

theorem State.loadLate_of_request (hreq : isRequest x.pkt.typ.toNat = true) :
    s.loadLate k = ((s.reach (x.first + s.loadLimit)).losePacket x).pump := by
  unfold State.loadLate
  rw [h]
  exact if_neg (by simp [hreq])

theorem State.resendBusy_of_busy {t : Nat} (hbusy : x.busy = some t) :
    s.resendBusy k = (s.reach (t + usCc 20)).sendAgain x x.resends := by
  simp only [State.resendBusy, h, hbusy]

end

/-- Settles O39: each row from what its meaning finds of the port, of the packet that is kept, or of the one that waits. -/
theorem packetsGoOn : Obligations.PacketsGoOn := by
  intro s t port p q k hq ht
  refine ⟨exec_packetForward_of_down hq, fun hup => ⟨fun ha => ?_, fun ha => ⟨fun hport hcross => ?_, fun hopen => ?_⟩⟩,
    fun harr ha hbad => ?_, fun harr ha => ?_, fun x hx hbusy hless hearly => next_settle (State.resend_of_due hx hbusy hless hearly),
    fun x hx hbusy hmany => next_settle (State.e2eLost_of_last hx hbusy hmany), fun x hx hreq => next_settle (State.loadLate_of_request hx hreq),
    fun x t hx hbusy => next_settle (State.resendBusy_of_busy hx hbusy), fun x hx hanswered => ?_, fun w hw => ⟨_, rfl, ?_⟩⟩
  · rw [exec_packetForward_of_up hq hup, if_pos ha, ht]
  · rw [exec_packetForward_of_up hq hup, if_neg (by rw [ha]; exact Bool.false_ne_true), ← ht, State.forwardFrom_of_blocked hport hcross]
  · rw [exec_packetForward_of_up hq hup, if_neg (by rw [ha]; exact Bool.false_ne_true), ← ht, State.forwardFrom_of_open hopen]
  · rw [exec_hdrDrop_of_arrives harr, if_neg (by simp [ha]), if_pos]
    rcases hbad with h | h
    · rw [h]; rfl
    · rw [h]; exact Bool.or_true _
  · rw [exec_hdrDrop_of_arrives harr, if_pos (by simp [ha])]
  · have hrun : exec (.overlapHoldEnd k) s = .next (match s.fab.kept[k]? with
      | none => s
      | some x => if x.answered then (s.reach (x.first + msCc 12)).forget.pump else s).settle := rfl
    rw [hrun, hx]
    exact next_settle (if_pos hanswered)
  · have hrun : exec (.escWaitExpiry k) s = .next (match s.fab.escWaits[k]? with
      | none => s
      | some w =>
        let limit := if w.pkt.typ.toNat = tAtomicReq then msCc 1 else msCc 10
        let s := s.reach (w.since + limit)
        (s.setFab { s.fab with escWaits := s.fab.escWaits.eraseIdx k }).count cEscDiscard 1).settle := rfl
    rw [hrun, hw]

/-! ### The root of a pass-through -/

section
variable {s : State} {d : Fin 4} {cdesc chunk trees : Nat} {n : Node} {i : TreeInfo}
  (htrees : trees = ((s.collDesc d cdesc).map (·.trees)).getD 1)
  (hnode : s.coll.nodes.find? (fun n => n.die = d.val && n.cdesc = cdesc && n.tree = chunk % trees) = some n)
  (hinfo : s.treeInfo d cdesc n.tree = some i)
include htrees hnode hinfo

theorem State.completePass_of_open (hroot : i.isRoot = true) (hpasses : i.rootPasses n chunk = true) (hlow : s.lowestOpen i n = some chunk)
    {v : List Val} (hrebuild : i.rebuild n chunk i.tree.length i.me = some v) {mine : List (Nat × List Byte)}
    (hmine : mine = n.held.filter (fun p => keyChunk p.1 = chunk)) {x : List Val}
    (hx : x = if i.desc.windfall = true then reduceAll i.desc.rop (i.desc.dfmt = 14) (mine.map (fun p => pieceVals i.desc p.1 p.2)) else v)
    {cycles : Nat} (hcycles : cycles = ceilDiv (mine.length * x.length) 2048 + 12) {t u : State}
    (ht : t = (s.reach (s.cc + cycles)).count (cPtRootCc d) cycles)
    (hu : u = (if n.passAll = true then t.count (cCollPt d) 1 else t).updInst d cdesc n.inst
      (fun y => { y with flags := y.flags ||| (2 + b2n n.passAll) })) :
    s.completePass d cdesc chunk = ((u.finishRoot i n chunk x).1.setNode (u.finishRoot i n chunk x).2).wakeColl := by
  subst hu ht hcycles hx hmine htrees
  unfold State.completePass
  dsimp only
  rw [hnode]
  dsimp only
  rw [hinfo]
  dsimp only
  rw [if_neg (by simp [hroot, hpasses, hlow]), hrebuild]

theorem State.completePass_of_waiting (h : s.lowestOpen i n ≠ some chunk ∨ i.rebuild n chunk i.tree.length i.me = none) :
    s.completePass d cdesc chunk = s := by
  subst htrees
  unfold State.completePass
  dsimp only
  rw [hnode]
  dsimp only
  rw [hinfo]
  dsimp only
  split
  · rfl
  · next hgoes =>
    rcases h with hlow | hrebuild
    · exact absurd (by simp [hlow]) hgoes
    · rw [hrebuild]

end

/-- Settles O40. -/
theorem passThroughCompletes : Obligations.PassThroughCompletes := by
  intro s d cdesc chunk trees n i htrees hnode hinfo hroot hpasses
  refine ⟨fun v mine hlow hrebuild hmine => ⟨_, _, _, _, rfl, rfl, rfl, rfl, next_settle ?_⟩, fun h => next_settle ?_⟩
  · exact State.completePass_of_open htrees hnode hinfo hroot hpasses hlow hrebuild hmine rfl rfl rfl rfl
  · exact State.completePass_of_waiting htrees hnode hinfo h

end Sys2Proof.Machine

/-! PROOFS. Links that come up, fail and go down (R361, R363 to R366, R383), and the registers of the fabric (R378 to R381, R391, R399). -/

namespace Sys2Proof.Machine

theorem State.port_setPort_same (s : State) (p : Nat) (v : Port) : (s.setPort p v).port p = v := Tab.get_put_same _ _ _ _

theorem State.port_setPort_other (s : State) {p q : Nat} (v : Port) (h : q ≠ p) : (s.setPort p v).port q = s.port q :=
  Tab.get_put_other _ _ _ _ _ h

/-! ### Bring-up -/

section
variable {s : State} {port : Fin 8} {b : BringUp}

theorem exec_linkBringup_of_held (h : (s.portHeld port || s.fab.up.getLsbD port || s.power.transit) = true) :
    exec (.linkBringup port b) s = .next s.settle := by
  have hrun : exec (.linkBringup port b) s = execLinkBringup port b s := rfl
  rw [hrun, execLinkBringup]
  dsimp only
  rw [if_pos h, if_pos h]
  rfl

/-- A link whose attempt is due: the attempt's stages in their order. -/
theorem exec_linkBringup_of_free (h : (s.portHeld port || s.fab.up.getLsbD port || s.power.transit) = false) {u w : State} {v : Port}
    (hu : u = s.reach (s.port port).retryAt) (hv : v = { s.port port with peer := b.peer, peerPort := b.peerPort, delay := linkDelay b.samples })
    (hw : w = (u.send (.identity port (BitVec.ofNat 32 s.fabCoord) 0x4816 s.fab.epoch.toNat)).setPower
      { s.power with brefLost := s.power.brefLost &&& ~~~ BitVec.twoPow 4 (portDie port) }) :
    exec (.linkBringup port b) s = .next
      (if !b.electricalOk then u.setPort port { s.port port with state := 1, fail := 1, retryAt := u.cc + 120000000 }
      else if !b.lockOk then u.setPort port { s.port port with state := 2, fail := 2, retryAt := u.cc + 120000000 }
      else if !knownPart b.peerPart then
        w.setPort port { v with delay := (s.port port).delay, state := 3, fail := 3, retryAt := u.cc + 120000000 }
      else if v.delay.toNat > 11520 then w.setPort port { v with state := 4, fail := 4, retryAt := u.cc + 120000000 }
      else (((w.setPort port v).linkUp port).drainEscape port).pump).settle := by
  have hrun : exec (.linkBringup port b) s = execLinkBringup port b s := rfl
  have hfree : ¬ (s.portHeld port || s.fab.up.getLsbD port || s.power.transit) = true := by rw [h]; exact Bool.false_ne_true
  subst hu hv hw
  rw [hrun, execLinkBringup]
  dsimp only
  rw [if_neg hfree, if_neg hfree]
  rfl

end

theorem State.linkUp_port (s : State) (p : Nat) : (s.linkUp p).port p = { s.port p with state := 6 } := State.port_setPort_same _ _ _

/-! ### Links that go down -/

/-- The fields that count the flits that leave, and the packets without a way (R400). -/
def leaveFields : List Nat := [5, 7, 14]

section
variable {key : Nat} (hkey : key % 2 ^ 16 ∉ leaveFields)
include hkey

theorem State.count_leave_counter (s : State) {kind index field : Nat} (k : Nat) (hf : field % 2 ^ 16 ∈ leaveFields) :
    (s.count (ctrKey kind index field) k).counter key = s.counter key := by
  refine s.counter_count_other k fun he => hkey ?_
  rwa [he, ctrKey_field]

theorem State.transmit_counter (s : State) (p : Nat) (esc : Bool) (k : Pkt) : (s.transmit p esc k).counter key = s.counter key := by
  have hflits (n : Nat) : (s.count (cFlitTx p) n).counter key = s.counter key := State.count_leave_counter hkey _ _ (by decide)
  have hesc (b : Bool) (u : State) (n : Nat) : (if b then u.count (cEscFlit p) n else u).counter key = u.counter key := by
    split
    · exact State.count_leave_counter hkey _ _ (by decide)
    · rfl
  exact (hesc _ _ _).trans (hflits _)

theorem State.inject_counter (s : State) (k : Pkt) : (s.inject k).counter key = s.counter key := by
  unfold State.inject
  split
  · rfl
  · split
    · exact State.transmit_counter hkey _ _ _ _
    · exact State.transmit_counter hkey _ _ _ _
    · rfl
    · exact State.count_leave_counter hkey _ _ (by decide)
    · rfl

theorem State.linkEvent_counter (s : State) (p fail : Nat) : (s.linkEvent p fail).counter key = s.counter key :=
  foldl_keeps (State.counter · key) (fun u _ => State.inject_counter hkey u _) _ s

end

theorem State.transmit_up (s : State) (p : Nat) (esc : Bool) (k : Pkt) : (s.transmit p esc k).fab.up = s.fab.up := by
  have hcount (b : Bool) (u : State) (key n : Nat) : (if b then u.count key n else u).fab.up = u.fab.up := by
    split
    · exact congrArg FabricUnit.up (u.count_same _ _ .fab (by decide))
    · rfl
  exact (hcount _ _ _ _).trans (congrArg FabricUnit.up (s.count_same _ _ .fab (by decide)))

theorem State.inject_up (s : State) (k : Pkt) : (s.inject k).fab.up = s.fab.up := by
  unfold State.inject
  split
  · rfl
  · split
    · exact s.transmit_up _ _ _
    · exact s.transmit_up _ _ _
    · rfl
    · exact congrArg FabricUnit.up (s.count_same _ _ .fab (by decide))
    · rfl

theorem State.linkEvent_up (s : State) (p fail : Nat) : (s.linkEvent p fail).fab.up = s.fab.up :=
  foldl_keeps (fun u : State => u.fab.up) (fun u _ => u.inject_up _) _ s

/-- The port and the link's bit once a link is down, before it is counted. -/
def State.linkCut (s : State) (p fail : Nat) : State :=
  let v := s.port p
  let s := s.count cLdDiscard (v.wire.filter (fun t => t > s.cc)).length
  let s := s.setPort p { v with fail := if fail = 0 then v.fail else BitVec.ofNat 5 fail, replays := [], waitReplay := none
                                retryAt := s.cc, txSeq := 0, sent := [], lineFree := 0, wire := [] }
  let s := s.setFab { s.fab with up := s.fab.up &&& ~~~ BitVec.twoPow 8 p }
  s.setPort p { s.port p with state := s.downState p }

theorem State.linkDown_of_up {s : State} {p : Nat} (hup : s.fab.up.getLsbD p = true) (fail : Nat) : s.linkDown p fail =
    (((s.linkCut p fail).count (cPort p 4) 1).linkEvent p fail).record
      { kind := 14, func := 0x5C + p, check := fail, die := portDie p, detail := leBytes 1 p } := by
  rw [State.linkDown]
  dsimp only
  rw [if_pos hup]
  rfl

theorem State.linkCut_up (s : State) (p fail : Nat) : (s.linkCut p fail).fab.up = s.fab.up &&& ~~~ BitVec.twoPow 8 p :=
  congrArg (fun u : BitVec 8 => u &&& ~~~ BitVec.twoPow 8 p) (congrArg FabricUnit.up (s.count_same cLdDiscard _ .fab (by decide)) :)

theorem cPort_ne_cLdDiscard (p : Nat) : cPort p 4 ≠ cLdDiscard := by
  intro h
  have hfield := congrArg (· % 2 ^ 16) h
  simp only [cPort, cLdDiscard, cDevice, ctrKey_field] at hfield
  exact absurd hfield (by decide)

theorem State.linkCut_counter (s : State) (p fail : Nat) : (s.linkCut p fail).counter (cPort p 4) = s.counter (cPort p 4) := by
  have hctr : (s.linkCut p fail).ctr = (s.count cLdDiscard ((s.port p).wire.filter (fun t => t > s.cc)).length).ctr :=
    ((State.setPort_same _ _ _ .ctr (by decide)).trans (State.setFab_same _ _ .ctr (by decide))).trans
      (State.setPort_same _ _ _ .ctr (by decide))
  rw [State.counter, hctr]
  exact s.counter_count_other (i := cLdDiscard) (key := cPort p 4) _ (cPort_ne_cLdDiscard p)

theorem State.linkDown_up {s : State} {p : Nat} (hup : s.fab.up.getLsbD p = true) (fail : Nat) :
    (s.linkDown p fail).fab.up = s.fab.up &&& ~~~ BitVec.twoPow 8 p := by
  have hrec (u : State) (r : FaultRec) : (u.record r).fab.up = u.fab.up := congrArg FabricUnit.up (u.record_same r .fab (by decide))
  rw [State.linkDown_of_up hup, hrec, State.linkEvent_up, ← State.linkCut_up s p fail]
  exact congrArg FabricUnit.up (State.count_same _ _ _ .fab (by decide))

/-- R363: a link that goes down is counted once. -/
theorem State.linkDown_counter {s : State} {p : Nat} (hup : s.fab.up.getLsbD p = true) (fail : Nat) :
    (s.linkDown p fail).counter (cPort p 4) = satAdd 32 (s.counter (cPort p 4)) 1 := by
  have hkey : cPort p 4 % 2 ^ 16 ∉ leaveFields := by rw [cPort, ctrKey_field]; decide
  rw [State.linkDown_of_up hup, State.counter_of_same (State.record_same _ _) (by decide), State.linkEvent_counter hkey,
    State.counter_count_same _ _ (by decide), State.linkCut_counter]

section
variable {s : State} {port : Fin 8} {word : BitVec 12}

theorem exec_linkDown_of_up (h : s.fab.up.getLsbD port = true) (why : LinkLoss) : exec (.linkDown port why) s =
    .next ((s.linkDown port (match why with | .lockLost => 6 | .retryLimit => 5)).pump).settle := by
  have hrun : exec (.linkDown port why) s = .next (if s.fab.up.getLsbD port then
    (s.linkDown port (match why with | .lockLost => 6 | .retryLimit => 5)).pump else s).settle := rfl
  rw [hrun, if_pos h]

theorem exec_linkWordFailure_of_ignored (h : (!s.fab.up.getLsbD port || (s.port port).waitReplay.any (fun w => w ≠ word.toNat)) = true) :
    exec (.linkWordFailure port word) s = .next s.settle := next_settle (if_pos h)

theorem exec_linkWordFailure_of_new (h : ¬ (!s.fab.up.getLsbD port || (s.port port).waitReplay.any (fun w => w ≠ word.toNat)) = true) :
    exec (.linkWordFailure port word) s = .next (((s.count (cPort port (if Config.failsFec s.free then 1 else 2)) 1).spend.setPort port
      { s.port port with waitReplay := some word.toNat }).send (.linkCtl port 0 word.toNat)).settle := next_settle (if_neg h)

theorem exec_linkRetry_of_down (h : s.fab.up.getLsbD port = false) : exec (.linkRetry port word) s = .next s.settle :=
  next_settle (if_pos (by rw [h]; rfl))

/-- R363: retries of one word within 1 ms are counted; the ninth takes the link down. -/
theorem exec_linkRetry_of_up (h : s.fab.up.getLsbD port = true) {old n : Nat × Nat}
    (hold : old = Tab.get (0, s.cc) word.toNat (s.port port).replays) (hn : n = if s.cc > old.2 + msCc 1 then (0, s.cc) else old) :
    exec (.linkRetry port word) s = .next (if n.1 ≥ 8 then s.linkDown port 5
      else ((s.count (cPort port 3) 1).setPort port
        { s.port port with replays := Tab.put word.toNat (n.1 + 1, n.2) (s.port port).replays }).send
          (.linkWords port word.toNat ((s.port port).wordsFrom word))).settle := by
  subst hold hn
  exact next_settle (if_neg (by rw [h]; decide))

end

/-- A link that comes up changes its port and its bit alone. -/
theorem State.portUp_same (s : State) (p : Nat) (v : Port) : sameBut [.fab] s ((s.setPort p v).linkUp p) :=
  (s.setPort_same p v).trans ((State.setFab_same _ _).trans (State.setPort_same _ _ _))

theorem State.portUp_other (s : State) {p q : Nat} (v : Port) (h : q ≠ p) : ((s.setPort p v).linkUp p).port q = s.port q :=
  (State.port_setPort_other _ _ h).trans (s.port_setPort_other v h)

/-- Settles O41: a bring-up by its stages (`exec_linkBringup_of_free`), a link that goes down by `linkDown_up` and `linkDown_counter`. -/
theorem linksChange : Obligations.LinksChange := by
  intro s port b word why
  refine ⟨exec_linkBringup_of_held, fun hfree u w v hu hv hw => ?_, fun hdown => ⟨?_, ?_, ?_⟩, fun hup =>
    ⟨⟨_, exec_linkDown_of_up hup why, rfl, State.linkDown_up hup _, State.linkDown_counter hup _⟩, fun hwait => ?_, fun x hx hne => ?_,
      fun old n hold hn => ⟨fun hmany => ?_, fun hfew => ?_⟩⟩⟩
  · have hrun := exec_linkBringup_of_free (b := b) hfree hu hv hw
    refine ⟨fun he => ?_, fun he hl => ?_, fun he hl => ⟨fun hk => ?_, fun hk hfar => ?_, fun hk hnear => ?_⟩⟩
    · rw [hrun, if_pos (by simp [he])]
    · rw [hrun, if_neg (by simp [he]), if_pos (by simp [hl])]
    · rw [hrun, if_neg (by simp [he]), if_neg (by simp [hl]), if_pos (by simp [hk])]
    · rw [hrun, if_neg (by simp [he]), if_neg (by simp [hl]), if_neg (by simp [hk]), if_pos hfar]
    · rw [hrun, if_neg (by simp [he]), if_neg (by simp [hl]), if_neg (by simp [hk]), if_neg (Nat.not_lt.2 hnear)]
      have hwsame : sameBut [.clk, .power, .tx] s w := hw ▸ hu ▸ ((s.reach_same _).weaken (by decide)).trans
        (((State.send_same _ _).weaken (by decide)).trans ((State.setPower_same _ _).weaken (by decide)))
      have hfab : w.fab = s.fab := hwsame .fab (by decide)
      have hports (q : Nat) : w.port q = s.port q := by rw [State.port, hfab]; rfl
      refine ⟨_, _, rfl, rfl, ?_, ?_, fun q hq => ?_, ?_, ?_⟩
      · rw [← hfab]
        rfl
      · rw [State.linkUp_port, State.port_setPort_same]
      · rw [State.portUp_other _ _ hq, hports]
      · exact State.portUp_same _ _ _ .tx (by decide)
      · exact (hwsame.weaken (by decide)).trans ((State.portUp_same _ _ _).weaken (by decide))
  · exact next_settle (if_neg (by rw [hdown]; exact Bool.false_ne_true))
  · exact exec_linkWordFailure_of_ignored (by rw [hdown]; rfl)
  · exact exec_linkRetry_of_down hdown
  · refine exec_linkWordFailure_of_new ?_
    rcases hwait with hnone | hsome
    · rw [hup, hnone]; exact Bool.false_ne_true
    · rw [hup, hsome]; simp
  · exact exec_linkWordFailure_of_ignored (by rw [hx]; simp [hne])
  · rw [exec_linkRetry_of_up hup hold hn, if_pos hmany]
  · rw [exec_linkRetry_of_up hup hold hn, if_neg (Nat.not_le.2 hfew)]

/-! ### Registers of the fabric -/

/-- The registers and tables of the fabric unit that packets on their way do not change. -/
structure FabRegs where
  coord : BitVec 16
  extent : BitVec 16
  jobTag : BitVec 16
  teardown : BitVec 32
  epoch : BitVec 8
  escShadow : EscTable
  escActive : EscTable
  substActive : List Host.Cell
  pending : Bool
  commitAt : Option Nat
  escOld : EscTable
  substOld : List Host.Cell

/-- Those of a state. -/
def State.fabRegs (s : State) : FabRegs where
  coord := s.fab.coord
  extent := s.fab.extent
  jobTag := s.fab.jobTag
  teardown := s.fab.teardown
  epoch := s.fab.epoch
  escShadow := s.fab.escShadow
  escActive := s.fab.escActive
  substActive := s.fab.substActive
  pending := s.fab.pending
  commitAt := s.fab.commitAt
  escOld := s.fab.escOld
  substOld := s.fab.substOld

theorem State.fabRegs_of_same {s t : State} {fs : List Field} (h : sameBut fs s t) (hfab : Field.fab ∉ fs) : t.fabRegs = s.fabRegs := by
  have hf : t.fab = s.fab := h .fab hfab
  simp only [State.fabRegs, hf]

theorem State.count_fabRegs (s : State) (key k : Nat) : (s.count key k).fabRegs = s.fabRegs :=
  State.fabRegs_of_same (s.count_same key k) (by decide)

theorem State.transmit_fabRegs (s : State) (p : Nat) (esc : Bool) (k : Pkt) : (s.transmit p esc k).fabRegs = s.fabRegs := by
  have hcount (b : Bool) (u : State) (key n : Nat) : (if b then u.count key n else u).fabRegs = u.fabRegs := by
    split
    · exact u.count_fabRegs _ _
    · rfl
  exact (hcount _ _ _ _).trans (s.count_fabRegs _ _)

theorem State.inject_fabRegs (s : State) (k : Pkt) : (s.inject k).fabRegs = s.fabRegs := by
  unfold State.inject
  split
  · rfl
  · split
    · exact s.transmit_fabRegs _ _ _
    · exact s.transmit_fabRegs _ _ _
    · rfl
    · exact s.count_fabRegs _ _
    · rfl

theorem State.linkDown_fabRegs (s : State) (p fail : Nat) : (s.linkDown p fail).fabRegs = s.fabRegs := by
  have hrec (u : State) (r : FaultRec) : (u.record r).fabRegs = u.fabRegs := State.fabRegs_of_same (u.record_same r) (by decide)
  have hevent (u : State) : (u.linkEvent p fail).fabRegs = u.fabRegs := foldl_keeps State.fabRegs (fun v _ => v.inject_fabRegs _) _ u
  have hport (u : State) (v w : Port) (b : BitVec 8) :
      (((u.setPort p v).setFab { (u.setPort p v).fab with up := b }).setPort p w).fabRegs = u.fabRegs := rfl
  have hcut : (s.linkCut p fail).fabRegs = s.fabRegs := by
    unfold State.linkCut
    exact (hport _ _ _ _).trans (s.count_fabRegs cLdDiscard _)
  by_cases hup : s.fab.up.getLsbD p = true
  · rw [State.linkDown_of_up hup, hrec, hevent, State.count_fabRegs, hcut]
  · have hcutOnly : s.linkDown p fail = s.linkCut p fail := by
      rw [State.linkDown]
      exact if_neg hup
    rw [hcutOnly, hcut]

/-- A packet of a fence is no fault of the job: it waits, or it leaves. -/
theorem State.post_fabRegs (s : State) (d : Nat) (p : Pkt) (dest port : Nat) : (s.post d p (.blaze dest port)).fabRegs = s.fabRegs := by
  have hleave (u : State) (o : Origin) (k : Pkt) : (u.leave o k).fabRegs = u.fabRegs := by
    unfold State.leave
    split
    · split
      · exact u.transmit_fabRegs _ _ _
      · exact u.inject_fabRegs _
    · exact u.inject_fabRegs _
  have hpump (u : State) (q : Queued) (h : q.origin = .blaze dest port) : (u.pumpOne q).fabRegs = u.fabRegs := by
    unfold State.pumpOne
    split
    · have hroute : u.unreachable q = none := by
        simp only [State.unreachable, h]
        split <;> rfl
      simp only [State.launch, hroute]
      exact (hleave _ _ _).trans rfl
    · rfl
  exact hpump _ _ rfl

theorem State.sendBlazes_fabRegs (s : State) (d : Nat) : (s.sendBlazes d).fabRegs = s.fabRegs := by
  unfold State.sendBlazes
  split
  · rfl
  · refine foldl_keeps State.fabRegs (fun u _ => ?_) _ s
    dsimp only
    rw [State.post_fabRegs, State.count_fabRegs]
    rfl

theorem State.sendBlazes_cc (s : State) (d : Nat) : (s.sendBlazes d).clk = s.clk := by
  unfold State.sendBlazes
  split
  · rfl
  · refine foldl_keeps State.clk (fun u _ => ?_) _ s
    dsimp only
    refine (State.post_same _ _ _ _ .clk (by decide)).trans ?_
    exact (State.count_same _ _ _ .clk (by decide)).trans rfl

/-! ### The commit -/

/-- R381: the tables at a commit, with what then goes by them still to be routed. -/
def State.committed (s : State) : State := s.setFab { s.fab with
  escActive := s.fab.escShadow, substActive := s.fab.substShadow, epoch := s.fab.epoch + 1, escWaits := [], pending := false
  commitAt := none }

/-- R383: a packet that waited for a port is routed again. -/
def State.waitRouted (s : State) (w : EscWait) : State :=
  if w.pkt.flag 4 then s.setFab { s.fab with escWaits := s.fab.escWaits ++ [w] }
  else match s.escRoute (((s.substOf w.pkt.dest.toNat).map (·.1)).getD w.pkt.dest.toNat) with
    | .waits p => s.setFab { s.fab with escWaits := s.fab.escWaits ++ [{ w with port := p }] }
    | .escape p => s.transmit p true w.pkt
    | .unreachable => s.count cUnreach 1
    | _ => s.inject w.pkt

theorem State.waitRouted_fabRegs (s : State) (w : EscWait) : (s.waitRouted w).fabRegs = s.fabRegs := by
  unfold State.waitRouted
  split
  · rfl
  · split
    · rfl
    · exact s.transmit_fabRegs _ _ _
    · exact s.count_fabRegs _ _
    · exact s.inject_fabRegs _

theorem State.waitRouted_clk (s : State) (w : EscWait) : (s.waitRouted w).clk = s.clk := by
  unfold State.waitRouted
  split
  · rfl
  · split
    · rfl
    · exact s.transmit_same _ _ _ .clk (by decide)
    · exact s.count_same _ _ .clk (by decide)
    · exact s.inject_same _ .clk (by decide)

/-- R381: the tables of before still route the heads of the commit's cycle. -/
def State.headsRouted (u : State) (s : State) : State :=
  u.setFab { u.fab with commitAt := some u.cc, escOld := s.fab.escActive, substOld := s.fab.substActive }

theorem State.commitTables_eq (s : State) : s.commitTables =
    ([0, 1, 2, 3] : List Nat).foldl State.sendBlazes ((s.fab.escWaits.foldl State.waitRouted s.committed).headsRouted s) := rfl

theorem State.commitTables_clk (s : State) : s.commitTables.clk = s.clk := by
  rw [State.commitTables_eq]
  exact (foldl_keeps State.clk State.sendBlazes_cc _ _).trans (foldl_keeps State.clk State.waitRouted_clk _ _)

theorem State.commitTables_fabRegs (s : State) : s.commitTables.fabRegs =
    { s.committed.fabRegs with commitAt := some s.cc, escOld := s.fab.escActive, substOld := s.fab.substActive } := by
  have hwaits := foldl_keeps State.fabRegs State.waitRouted_fabRegs s.fab.escWaits s.committed
  have hcc : (s.fab.escWaits.foldl State.waitRouted s.committed).cc = s.cc :=
    congrArg Clock.cc (foldl_keeps State.clk State.waitRouted_clk s.fab.escWaits s.committed)
  rw [State.commitTables_eq, foldl_keeps State.fabRegs State.sendBlazes_fabRegs, ← hwaits, ← hcc]
  rfl

/-! ### Coordinate and teardown -/

/-- The device once its coordinate is written, before its ports take it. -/
def State.coordSet (s : State) (v : BitVec 32) : State :=
  (s.setFab { s.fab with
    coord := v.setWidth 16, extent := (v >>> 16).setWidth 16, coordSet := true
    escShadow := { base := v, written := [] } }).setSeed
      { s.seed with buddy := (defaultHomes v.toNat).1, hosts := (defaultHomes v.toNat).2 }

/-- What a port's state becomes once the coordinate is known. -/
def State.portCoord (s : State) (p : Nat) : State :=
  if s.portDead p && s.fab.up.getLsbD p then s.linkDown p 0
  else if s.fab.up.getLsbD p then s else s.setPort p { s.port p with state := s.downState p }

theorem State.writeCoord_eq (s : State) (v : BitVec 32) : s.writeCoord v = (List.range 8).foldl State.portCoord (s.coordSet v) := rfl

theorem State.portCoord_kept (s : State) (p : Nat) : (s.portCoord p).fabRegs = s.fabRegs ∧ (s.portCoord p).seed = s.seed := by
  unfold State.portCoord
  split
  · exact ⟨s.linkDown_fabRegs p 0, s.linkDown_same p 0 .seed (by decide)⟩
  split
  · exact ⟨rfl, rfl⟩
  · exact ⟨rfl, rfl⟩

theorem State.writeCoord_kept (s : State) (v : BitVec 32) :
    (s.writeCoord v).fabRegs = (s.coordSet v).fabRegs ∧ (s.writeCoord v).seed = (s.coordSet v).seed := by
  rw [State.writeCoord_eq]
  exact ⟨foldl_keeps State.fabRegs (fun u p => (u.portCoord_kept p).1) _ _, foldl_keeps State.seed (fun u p => (u.portCoord_kept p).2) _ _⟩

theorem State.tryReady_fabRegs (s : State) : s.tryReady.fabRegs = s.fabRegs := by
  unfold State.tryReady
  split
  · split
    · exact State.inject_fabRegs _ _
    · rfl
  · rfl

theorem State.tryReady_job (s : State) : s.tryReady.job = s.job := by
  unfold State.tryReady
  split
  · split
    · exact State.inject_same _ _ .job (by decide)
    · rfl
  · rfl

/-- R391: a `READY` that waits for its epoch leaves once the epoch is there. -/
theorem State.tryReady_pendingReady {s : State} (hstate : s.job.state = .waitArm) (hepoch : s.tick.armEpoch ≤ s.fab.teardown) :
    s.tryReady.tick.pendingReady = none := by
  unfold State.tryReady
  split
  · rw [if_pos (by simp [hstate, hepoch])]
    rfl
  · assumption

/-- R391: the teardown epoch and the tag once it has risen. -/
def State.tornDown (s : State) (v : BitVec 32) : State := s.setFab { s.fab with
  teardown := v
  jobTag := if (s.job.state == .waitArm && s.tick.pendingReady.isSome) || v = s.fab.teardown then s.fab.jobTag else 0 }

theorem State.writeTeardown_of_ge {s : State} {v : BitVec 32} (h : s.fab.teardown ≤ v) : s.writeTeardown v =
    if s.job.state == .waitArm && s.tick.pendingReady.isSome && v ≥ s.tick.armEpoch then
      ((s.tornDown v).reach (s.cc + 1)).tryReady
    else s.tornDown v := by
  rw [State.writeTeardown, if_neg (BitVec.not_lt.2 h)]
  rfl

theorem State.writeTeardown_kept {s : State} {v : BitVec 32} (h : s.fab.teardown ≤ v) :
    (s.writeTeardown v).fabRegs = (s.tornDown v).fabRegs ∧ (s.writeTeardown v).job = s.job := by
  rw [State.writeTeardown_of_ge h]
  split
  · exact ⟨State.tryReady_fabRegs _, State.tryReady_job _⟩
  · exact ⟨rfl, rfl⟩

theorem State.writeTeardown_pendingReady {s : State} {v : BitVec 32} (h : s.fab.teardown ≤ v) (hstate : s.job.state = .waitArm)
    (hepoch : s.tick.armEpoch ≤ v) : (s.writeTeardown v).tick.pendingReady = none := by
  rw [State.writeTeardown_of_ge h]
  split
  · exact State.tryReady_pendingReady (s := (s.tornDown v).reach (s.cc + 1)) hstate hepoch
  · next hnot =>
    show s.tick.pendingReady = none
    simpa [hstate, hepoch] using hnot

/-- Settles O42: the registers by what keeps them (`FabRegs`). -/
theorem fabricRegistersChange : Obligations.FabricRegistersChange := by
  intro s v
  refine ⟨fun htransit => ⟨s.commitTables, next_settle (if_neg (by rw [htransit]; exact Bool.false_ne_true)), ?_⟩,
    fun htransit => next_settle (if_pos htransit), ⟨s.writeCoord v, rfl, ?_⟩, fun hless => next_settle (if_pos hless),
    fun hge => ⟨s.writeTeardown v, rfl, ?_⟩⟩
  · have hregs := s.commitTables_fabRegs
    have hcc : s.commitTables.cc = s.cc := congrArg Clock.cc s.commitTables_clk
    have hat : s.commitTables.fab.commitAt = some s.cc := congrArg FabRegs.commitAt hregs
    refine ⟨congrArg FabRegs.epoch hregs, congrArg FabRegs.escActive hregs, congrArg FabRegs.substActive hregs, congrArg FabRegs.coord hregs,
      congrArg FabRegs.pending hregs, ?_, ?_⟩
    · rw [State.escTable, if_pos (by rw [hat, hcc]; exact beq_self_eq_true _)]
      exact congrArg FabRegs.escOld hregs
    · rw [State.substTable, if_pos (by rw [hat, hcc]; exact beq_self_eq_true _)]
      exact congrArg FabRegs.substOld hregs
  · obtain ⟨hregs, hseed⟩ := s.writeCoord_kept v
    exact ⟨congrArg FabRegs.coord hregs, congrArg FabRegs.extent hregs, congrArg FabRegs.escShadow hregs, congrArg FabRegs.epoch hregs,
      hseed⟩
  · obtain ⟨hregs, hjob⟩ := State.writeTeardown_kept hge
    refine ⟨congrArg FabRegs.teardown hregs, hjob, (congrArg FabRegs.jobTag hregs).trans ?_, State.writeTeardown_pendingReady hge⟩
    show (if ((s.job.state == .waitArm && s.tick.pendingReady.isSome) || v = s.fab.teardown) = true then s.fab.jobTag else 0) = _
    refine if_congr ?_ rfl rfl
    simp only [Bool.or_eq_true, Bool.and_eq_true, beq_iff_eq, decide_eq_true_eq]
    exact or_comm

end Sys2Proof.Machine

/-! PROOFS. Records of the beacon tree that arrive (R66 to R68, R71 to R79, R391). -/

namespace Sys2Proof.Machine

theorem State.linked_same (s : State) (p : Pkt) : sameBut [.ctr, .fab] s (s.linked p) := by
  obtain ⟨c, v, h⟩ := s.exists_linked_eq p
  rw [h]
  intro f hf
  cases f <;> simp [Field.same] at hf ⊢

/-! ### ARM -/

theorem State.armStatus_of_same {s t : State} {fs : List Field} (h : sameBut fs s t) (hjob : Field.job ∉ fs) (htick : Field.tick ∉ fs)
    (b : List Byte) : t.armStatus b = s.armStatus b := by
  have hj : t.job = s.job := h .job hjob
  have ht : t.tick = s.tick := h .tick htick
  simp only [State.armStatus, hj, ht]

theorem State.takeArm_of_ok {s : State} {p : Pkt} (h : s.armStatus p.body = 0) : s.takeArm p = s.accept73 p.src.toNat p.body := by
  simp only [State.takeArm, h]

theorem State.takeArm_of_bad {s : State} {p : Pkt} (h : s.armStatus p.body ≠ 0) :
    s.takeArm p = s.sendReady p.src.toNat (field p.body 0 2) (s.armStatus p.body) := by
  unfold State.takeArm
  split
  · next h0 => exact absurd h0 h
  · rfl

/-- R66, R73: the tick unit that an `ARM` sets. -/
def TickUnit.armed (t : TickUnit) (src : Nat) (b : List Byte) : TickUnit :=
  let role := field b 28 1 % 4
  { t with
    armTag := BitVec.ofNat 16 (field b 0 2), armEpoch := BitVec.ofNat 32 (field b 2 4), armStart := BitVec.ofNat 48 (field b 6 6)
    delay := field b 12 4, delayM := field b 16 4, delayB1 := field b 20 4, delayB2 := field b 24 4
    master := role = 3, backup := if role = 3 then 0 else BitVec.ofNat 2 role
    release := .armed, pendingReady := some src }

/-- A `READY` that may leave changes of the tick unit that it waits no longer. -/
theorem State.tryReady_tick (s : State) : s.tryReady.tick = s.tick ∨ s.tryReady.tick = { s.tick with pendingReady := none } := by
  unfold State.tryReady
  split
  · split
    · exact .inr rfl
    · exact .inl rfl
  · exact .inl rfl

/-- R66, R73: what an accepted `ARM` leaves in the tick unit, but for a `READY` that waits. -/
theorem State.accept73_tick (s : State) (src : Nat) (b : List Byte) : ∃ r,
    (s.accept73 src b).tick = { s.tick.armed src b with pendingReady := r } := by
  rcases State.tryReady_tick ((((s.setTick (s.tick.armed src b)).setJob { s.job with tag := BitVec.ofNat 16 (field b 0 2) }).setFab
    { s.fab with jobTag := BitVec.ofNat 16 (field b 0 2) }).usePorts) with h | h
  · exact ⟨_, h⟩
  · exact ⟨_, h⟩

theorem State.accept73_tags (s : State) (src : Nat) (b : List Byte) : (s.accept73 src b).job.tag = BitVec.ofNat 16 (field b 0 2) ∧
    (s.accept73 src b).fab.jobTag = BitVec.ofNat 16 (field b 0 2) := by
  exact ⟨congrArg Job.tag (State.tryReady_job _), congrArg FabRegs.jobTag (State.tryReady_fabRegs _)⟩

/-! ### GO and beacons -/

theorem State.passBeacon_same (s : State) (p : Pkt) : sameBut [.ctr, .tx, .fab, .free] s (s.passBeacon p) :=
  sameBut.fold (fun u _ => ((u.sendTree_same _ _ _).weaken (by decide)).trans ((State.spend_same _).weaken (by decide))) _ s

/-- A record is passed on in the cycle of its arrival: the job and the tick unit stay. -/
theorem State.passed_same (s : State) (p q : Pkt) (n : Nat) :
    sameBut [.clk, .ctr, .tx, .fab, .free] s (((s.linked q).reach n).passBeacon p) :=
  (((s.linked_same q).weaken (by decide)).trans ((State.reach_same _ _).weaken (by decide))).trans
    ((State.passBeacon_same _ _).weaken (by decide))

theorem State.passed_cc (s : State) (p q : Pkt) (n : Nat) : (((s.linked q).reach n).passBeacon p).cc = max s.cc n := by
  have hclk : (((s.linked q).reach n).passBeacon p).clk = ((s.linked q).reach n).clk := State.passBeacon_same _ _ .clk (by decide)
  have hlinked : (s.linked q).clk = s.clk := s.linked_same q .clk (by decide)
  rw [State.cc, hclk]
  exact congrArg (fun c : Clock => max c.cc n) hlinked

theorem State.takeGo_of_armed {s u : State} {p : Pkt} {at64 : Nat} (hu : (s.reach (at64 / 64)).passBeacon p = u) (hgo : beaconGo p = true)
    (hjob : u.job.state = .waitArm) (hrelease : u.tick.release = .armed) (hmaster : u.tick.master = false) :
    s.takeGo p at64 = (u.setTick { u.tick with sender := field p.body 9 1 }).goAt
      (at64 - beaconCorr p + u.tick.delay - u.delayFrom (field p.body 9 1)) := by
  subst hu
  unfold State.takeGo
  rw [if_neg (by simp [hgo])]
  exact if_neg (by simp [hjob, hrelease, hmaster])

/-- A beacon of the last edge's tick aligns the next edge; the notes of the tick unit that follow it do not depend on that. -/
theorem State.alignTo_tick (s : State) (p : Pkt) (at64 : Nat) : ∃ e a,
    (s.alignTo p at64).tick = { s.tick with nextEdge := e, align := a } := ⟨_, _, rfl⟩

/-- R71 to R79: what a beacon leaves in a tick unit. -/
def TickUnit.heard (x : TickUnit) (p : Pkt) : TickUnit :=
  let t := field p.body 0 6
  let flags := field p.body 8 1
  let now := t + 1 = x.nextNo
  let from1 (k : Nat) (old : Option Nat) : Option Nat := if bitsOf flags 5 2 = k && old.isNone then some (t + 1) else old
  { x with
    sender := field p.body 9 1, missed := 0, beaconOk := true, lastBeacon := some t
    strNext := if now && x.missedFor ≠ some t then BitVec.ofNat 16 (field p.body 6 2) else x.strNext
    strCause := if now && x.missedFor ≠ some t then BitVec.ofNat 4 flags else x.strCause
    repro := x.repro && !flags.testBit 4
    stopFrom := from1 1 x.stopFrom, snapFrom := from1 2 x.snapFrom }

theorem State.takeBeacon_of_edges {s u : State} {p : Pkt} {at64 : Nat} (hu : (s.reach (at64 / 64)).passBeacon p = u)
    (hgo : beaconGo p = false) (hedges : u.tick.edges = true) (hmulti : u.job.multi = true) :
    ∃ e a, s.takeBeacon p at64 = u.setTick { u.tick.heard p with nextEdge := e, align := a } := by
  subst hu
  unfold State.takeBeacon
  rw [if_neg (by simp [hgo])]
  dsimp only
  rw [if_neg (by simp [hedges, hmulti])]
  by_cases hnow : field p.body 0 6 + 1 = ((s.reach (at64 / 64)).passBeacon p).tick.nextNo
  · rw [if_pos hnow]
    exact ⟨_, _, rfl⟩
  · rw [if_neg hnow]
    exact ⟨_, _, rfl⟩

theorem State.missBeacon_of_missed {s : State} (h : s.tick.missedFor = some (s.tick.nextNo - 1)) : s.missBeacon = s := by
  unfold State.missBeacon
  exact if_pos (by simp [h])

theorem State.missBeacon_of_due {s : State} (hedges : s.tick.edges = true) (hmulti : s.job.multi = true) (hmaster : s.tick.master = false)
    (hlast : s.tick.lastBeacon ≠ some (s.tick.nextNo - 1)) (hmissed : s.tick.missedFor ≠ some (s.tick.nextNo - 1)) :
    s.missBeacon = (s.reach (s.tick.edge + ceilDiv s.tick.delayM 64 + 2400)).setTick { s.tick with
      missed := BitVec.ofNat 8 (satAdd 8 s.tick.missed.toNat 1), beaconOk := false, strNext := 0, strCause := 0
      missedFor := some (s.tick.nextNo - 1) } := by
  unfold State.missBeacon
  exact if_neg (by simp [hedges, hmulti, hmaster, hlast, hmissed])

theorem satAdd_eight_toNat (v : BitVec 8) : (BitVec.ofNat 8 (satAdd 8 v.toNat 1)).toNat = min 255 (v.toNat + 1) := by
  have hlt := v.isLt
  simp only [satAdd, BitVec.toNat_ofNat]
  omega

/-- Settles O46: each record by what is taken of it (`accept73_tick`, `takeGo_of_armed`, `takeBeacon_of_edges`). -/
theorem beaconRecordsArrive : Obligations.BeaconRecordsArrive := by
  intro s t port p q at64 hq ht
  have hsame : sameBut [.ctr, .fab] s t := ht ▸ s.linked_same q
  have hstatus := State.armStatus_of_same hsame (by decide) (by decide) p.body
  refine ⟨fun hd => ?_, fun hd hgo hjob hrelease hmaster => ?_, fun hd hgo hedges hmulti => ?_, fun hd hchild => ?_,
    fun hedges hmulti hmaster hlast => ⟨fun hnew => ?_, fun hmissed => next_settle (State.missBeacon_of_missed hmissed)⟩⟩
  · have hrun : exec (.arm port p) s = .next (t.takeArm p).settle := by
      subst hq ht
      exact next_settle (State.deliver_of_delivers hd _)
    refine ⟨fun hok => ?_, fun hbad => ?_⟩
    · obtain ⟨r, htick⟩ := t.accept73_tick p.src.toNat p.body
      obtain ⟨htag, hfab⟩ := t.accept73_tags p.src.toNat p.body
      refine ⟨_, by rw [hrun, State.takeArm_of_ok (hstatus.trans hok)], rfl, ?_⟩
      rw [htick]
      exact ⟨rfl, htag, hfab, rfl, rfl, rfl, decide_eq_true_iff⟩
    · rw [hrun, State.takeArm_of_bad (by rw [hstatus]; exact hbad), hstatus]
  · have hpass := s.passed_same p q (at64 / 64)
    have htick : (((s.linked q).reach (at64 / 64)).passBeacon p).tick = s.tick := hpass .tick (by decide)
    have hj : (((s.linked q).reach (at64 / 64)).passBeacon p).job = s.job := hpass .job (by decide)
    have hrun : exec (.go port p at64) s = .next (t.takeGo p at64).settle := by
      subst hq ht
      exact next_settle (State.deliver_of_delivers hd _)
    refine ⟨_, hrun, ?_⟩
    rw [ht, State.takeGo_of_armed rfl hgo (by rw [hj, hjob]) (by rw [htick, hrelease]) (by rw [htick, hmaster])]
    refine ⟨s.passed_cc p q _, ?_⟩
    rw [State.delayFrom, htick]
    rfl
  · have hpass := s.passed_same p q (at64 / 64)
    have htick : (((s.linked q).reach (at64 / 64)).passBeacon p).tick = s.tick := hpass .tick (by decide)
    have hj : (((s.linked q).reach (at64 / 64)).passBeacon p).job = s.job := hpass .job (by decide)
    have hrun : exec (.beacon port p at64) s = .next (t.takeBeacon p at64).settle := by
      subst hq ht
      exact next_settle (State.deliver_of_delivers hd _)
    obtain ⟨e, a, htaken⟩ := State.takeBeacon_of_edges (s := s.linked q) (p := p) (at64 := at64) rfl hgo (by rw [htick, hedges])
      (by rw [hj, hmulti])
    refine ⟨_, hrun, ?_⟩
    rw [ht, htaken, htick]
    refine ⟨s.passed_cc p q _, rfl, rfl, rfl, rfl, ?_, fun hmark hnone => ?_, fun hmark hnone => ?_⟩
    · show (if (decide (field p.body 0 6 + 1 = s.tick.nextNo) && decide (s.tick.missedFor ≠ some (field p.body 0 6))) = true then _ else _) = _
      refine if_congr ?_ rfl rfl
      rw [Bool.and_eq_true, decide_eq_true_iff, decide_eq_true_iff]
    · exact if_pos (by rw [hmark, hnone]; rfl)
    · exact if_pos (by rw [hmark, hnone]; rfl)
  · subst hq ht
    refine next_settle ((State.deliver_of_delivers hd _).trans ?_)
    obtain ⟨c, v, heq⟩ := s.exists_linked_eq { p with via := some port }
    rw [heq]
    exact if_pos hchild
  · refine ⟨_, next_settle (State.missBeacon_of_due hedges hmulti hmaster hlast hnew), satAdd_eight_toNat _, rfl, rfl, rfl, ?_⟩
    exact ((s.reach_same _).weaken (by decide)).trans ((State.setTick_same _ _).weaken (by decide))

end Sys2Proof.Machine

/-! PROOFS. Snapshots (R320, R497, R499), Seedbank packets (R513) and restores (R516 to R518). -/

namespace Sys2Proof.Machine

/-! ### The cut -/

theorem State.snapshotCut_of_due {s : State} (hrun : s.job.state = .running) (hwait : s.allWait = true) (hidle : s.queuesIdle = true)
    (hdue : s.cutDue = true) (hready : s.tick.started = true ∨ s.seed.pending = true) : s.snapshotCut =
      if s.seed.pending then s.takeCut.startTick (s.takeCut.tick.count.toNat + 1) s.takeCut.nextBodyOf else s.takeCut := by
  have hgoes : (s.job.state == .running && s.allWait && s.queuesIdle && s.cutDue && (s.tick.started || s.seed.pending)) = true := by
    rw [hrun, hwait, hidle, hdue]
    rcases hready with h | h
    · rw [h]; rfl
    · rw [h, Bool.or_true]; rfl
  rw [State.snapshotCut, if_pos hgoes]

/-! ### Copies before a write -/

/-- What is noted of units that are copied ahead, with the time that it takes. -/
def State.copied (s : State) (unread bounce : List Nat) (n : Nat) : State :=
  let s := s.setCopyUnits unread bounce
  let s := (s.count cSbCbwUnits n).count cSbCbwWait (Config.holdCycles s.free % 2401)
  (s.setCount cSbBounce (max (s.counter cSbBounce) (bounce.length * unitBytes))).spend

section
variable {s : State} {addr : Nat} {data : List Byte} {unread held hit : List Nat} (hunits : s.copyUnits = (unread, held))
  (hhit : hit = unread.filter (fun a => a < addr + data.length && addr < a + unitBytes))
include hunits hhit

theorem State.copyAhead_of_hit (hsome : hit ≠ []) (hroom : held.length + hit.length ≤ bounceUnits) : s.copyAhead addr data =
    (s.copied (unread.filter (fun a => !hit.contains a)) (held ++ hit) hit.length).writeLocal addr 0 data := by
  subst hhit
  unfold State.copyAhead
  simp only [hunits]
  exact if_neg (by simpa [hroom] using hsome)

theorem State.copyAhead_of_none (hnone : hit = [] ∨ bounceUnits < held.length + hit.length) : s.copyAhead addr data = s := by
  subst hhit
  unfold State.copyAhead
  simp only [hunits]
  refine if_pos ?_
  rw [Bool.or_eq_true, List.isEmpty_iff, decide_eq_true_eq]
  exact hnone

end

theorem State.setCopyUnits_same (s : State) (unread bounce : List Nat) : sameBut [.seed, .host] s (s.setCopyUnits unread bounce) := by
  unfold State.setCopyUnits
  split
  · exact (s.setSeed_same _).weaken (by decide)
  · split
    · exact (s.setLong_same _).weaken (by decide)
    · exact sameBut.refl _ _

theorem State.setCount_same (s : State) (key v : Nat) : sameBut [.ctr] s (s.setCount key v) := by
  intro f hf; cases f <;> simp [Field.same, State.setCount] at hf ⊢

theorem State.copied_counted (s : State) (unread bounce : List Nat) (n : Nat) :
    sameBut [.ctr, .free] (s.setCopyUnits unread bounce) (s.copied unread bounce n) :=
  (((State.count_same _ _ _).weaken (by decide)).trans ((State.count_same _ _ _).weaken (by decide))).trans
    (((State.setCount_same _ _ _).weaken (by decide)).trans ((State.spend_same _).weaken (by decide)))

theorem State.copied_same (s : State) (unread bounce : List Nat) (n : Nat) :
    sameBut [.seed, .host, .ctr, .free] s (s.copied unread bounce n) :=
  ((s.setCopyUnits_same _ _).weaken (by decide)).trans ((s.copied_counted _ _ _).weaken (by decide))

theorem State.copyUnits_of_same {s t : State} {fs : List Field} (h : sameBut fs s t) (hseed : Field.seed ∉ fs) (hhost : Field.host ∉ fs) :
    t.copyUnits = s.copyUnits := by
  have hs : t.seed = s.seed := h .seed hseed
  have hh : t.host = s.host := h .host hhost
  simp only [State.copyUnits, State.longIs, hs, hh]

/-- The units of the snapshot, or of the checkpoint, that is being copied are the ones set. -/
theorem State.copyUnits_setCopyUnits {s : State} (h : s.copyUnits.1 ≠ []) (unread bounce : List Nat) :
    (s.setCopyUnits unread bounce).copyUnits = (unread, bounce) := by
  cases hcopying : s.seed.copying with
  | some c => simp [State.setCopyUnits, hcopying, State.setCopying, State.copyUnits]
  | none =>
    cases hlong : s.longIs 0x42 with
    | some l =>
      have hcmd : l.req.cmd = 0x42 := by
        have hl : s.host.long.filter (fun l => l.req.cmd = 0x42) = some l := hlong
        simpa using (Option.filter_eq_some_iff.1 hl).2
      have hset : s.setCopyUnits unread bounce = s.setLong { l with unread := unread, bounce := bounce } := by
        simp only [State.setCopyUnits, hcopying, hlong]
      rw [hset]
      simp [State.setLong, State.copyUnits, State.longIs, Option.filter, hcmd, hcopying]
    | none => exact absurd (by simp only [State.copyUnits, hcopying, hlong]) h

theorem State.copied_units {s : State} (h : s.copyUnits.1 ≠ []) (unread bounce : List Nat) (n : Nat) :
    (s.copied unread bounce n).copyUnits = (unread, bounce) :=
  (State.copyUnits_of_same (s.copied_counted unread bounce n) (by decide) (by decide)).trans (State.copyUnits_setCopyUnits h _ _)

/-- R499: the units that were copied are counted. -/
theorem State.copied_counter (s : State) (unread bounce : List Nat) {n : Nat} (hn : n ≠ 0) :
    (s.copied unread bounce n).counter cSbCbwUnits = satAdd 32 (s.counter cSbCbwUnits) n := by
  have hbounce (u : State) (v : Nat) : (u.setCount cSbBounce v).counter cSbCbwUnits = u.counter cSbCbwUnits :=
    Tab.get_put_other 0 _ _ v _ (by decide)
  have hbefore : (s.setCopyUnits unread bounce).counter cSbCbwUnits = s.counter cSbCbwUnits :=
    State.counter_of_same (s.setCopyUnits_same _ _) (by decide) _
  show ((((s.setCopyUnits unread bounce).count cSbCbwUnits n).count cSbCbwWait _).setCount cSbBounce _).counter cSbCbwUnits = _
  rw [hbounce, State.counter_count_other _ _ (by decide), State.counter_count_same _ _ hn, hbefore]

/-- Settles O47: the cut by `snapshotCut_of_due`, the units that are copied ahead by what is noted of them (`copied`). -/
theorem cutsAreTaken : Obligations.CutsAreTaken := by
  intro s addr data
  refine ⟨fun hrun hwait hidle hdue => ⟨fun hpending => ?_, fun hpending hstarted => ?_⟩, fun unread held hit hunits hhit =>
    ⟨fun hsome hroom => ?_, fun hnone => next_settle (State.copyAhead_of_none hunits hhit hnone)⟩⟩
  · refine next_settle ((State.snapshotCut_of_due hrun hwait hidle hdue (.inr hpending)).trans (if_pos hpending))
  · refine next_settle ((State.snapshotCut_of_due hrun hwait hidle hdue (.inl hstarted)).trans (if_neg ?_))
    rw [hpending]
    exact Bool.false_ne_true
  · have hunread : s.copyUnits.1 ≠ [] := by
      rw [hunits]
      rintro rfl
      exact hsome hhit
    exact ⟨_, _, next_settle (State.copyAhead_of_hit hunits hhit hsome hroom), rfl, s.copied_same _ _ _, State.copied_units hunread _ _ _,
      s.copied_counter _ _ (fun h => hsome (List.length_eq_zero_iff.1 h))⟩

/-! ### Packets at the home -/

theorem State.takeSnap_of_delivers {s t : State} {p : Pkt} {kind : Nat} (hd : s.delivers p tSnap 1 true) (hkind : snapKind p = kind)
    (ht : t = (s.linked p).countRetry p) (f : State → Nat → State) :
    s.takeSnap p kind f = match t.snapArea p with | none => t.sendAck p 1 | some a => f t a := by
  subst ht
  rw [State.takeSnap, State.deliver_of_delivers hd]
  exact if_neg (by simp [hkind])

/-- Each packet of the home's side is taken by its own meaning. -/
theorem snapDeliveries_run : ∀ m ∈ snapDeliveries, ∀ (p : Pkt) (s : State),
    exec (m.1 p) s = .next (s.takeSnap p m.2.1 (fun u a => m.2.2 u a p)).settle := by
  simp only [snapDeliveries, List.forall_mem_cons, List.not_mem_nil, false_imp_iff, implies_true, and_true]
  repeat' apply And.intro
  all_goals exact fun _ _ => rfl

/-- Settles O48. -/
theorem seedbankPacketsAreTaken : Obligations.SeedbankPacketsAreTaken := by
  intro m hm s t p hd hkind ht
  rw [snapDeliveries_run m hm, State.takeSnap_of_delivers hd hkind ht]
  refine ⟨fun a ha => ?_, fun ha => ?_⟩
  · rw [ha]
  · rw [ha]

/-! ### Data that are pulled -/

section
variable {s t : State} {p : Pkt} {u : Pulling}

/-- What of a pulled packet is taken depends on the header, on the offset and on the command that pulls. -/
theorem exec_pullData_of_asked (hd : s.delivers p tSnap 1 true) (hkind : snapKind p = 4) (hpull : s.seed.pulling = some u)
    (hbuddy : s.fromBuddy p = true) (hhome : p.src.toNat = u.home) (ht : t = ((s.linked p).countRetry p).count cSbPull p.len.toNat) :
    exec (.pullData p) s = .next (match u.header with
      | none =>
        if snapOff p ≠ 0 || p.data.length ≠ setHeaderSize || !t.headerTaken p.data then (t.sendAck p 1).nextHome
        else (t.setSeed { t.seed with pulling := some { u with header := some p.data } }).sendAck p 0
      | some h =>
        if snapOff p = 0 then t.sendAck p 0
        else if snapOff p = t.tagPlace then
          if !tagFits p.data h then (t.sendAck p 1).nextHome
          else match t.longIs 0x42 with
            | some l => ((t.sendAck p 0).setSeed { t.seed with pulling := none }).beginCheckpoint { l with
                phase := 1
                data := checkpointFrom l.data (getBlock zeroByte 0 (field h 32 8) (putBlock zeroByte 0 h u.cells)) }
            | none => (t.sendAck p 0).restoreDone h false
        else if (t.longIs 0x42).isSome then
          (t.setSeed { t.seed with pulling := some { u with cells := putBlock zeroByte (snapOff p) p.data u.cells } }).sendAck p 0
        else (t.writeRanges h (snapOff p) p.data).sendAck p 0).settle := by
  have hseed : (s.linked p).seed = s.seed := s.linked_same p .seed (by decide)
  have hbuddy' : (s.linked p).fromBuddy p = true := by simpa only [State.fromBuddy, hseed] using hbuddy
  subst ht
  refine next_settle ((State.deliver_of_delivers hd _).trans ((if_neg (by simp [hkind])).trans ?_))
  unfold State.takePull
  rw [hseed, hpull]
  exact if_neg (by simp [hbuddy', hhome])

end

theorem State.countRetry_same (s : State) (p : Pkt) : sameBut [.ctr] s (s.countRetry p) := by
  unfold State.countRetry
  split
  · exact s.count_same _ _
  · exact sameBut.refl _ _

/-- R464: a command that ends while no load or restore runs leaves the job. -/
theorem State.finishLong_job {s : State} (hload : s.job.state ≠ .loading) (hrestore : s.job.state ≠ .restoring) (st dt : Nat)
    (r : List Byte) : (s.finishLong st dt r).job = s.job := by
  unfold State.finishLong
  split
  · rfl
  · next l _ =>
    have hback : s.stateBack l.req = s := by
      rw [State.stateBack, if_neg]
      simp [hload, hrestore]
    simp only [State.complete, hback, State.raise_job, State.addTrace_job, State.putMb_job, State.setHost_job]

section
variable {s : State} {h : List Byte} (hjob : s.job.state = .restoring)

/-- R518: the device at the end of a restore, before its command completes. -/
def State.restored (s : State) (h : List Byte) : State :=
  ((s.setTick { s.tick with
    period := BitVec.ofNat 24 (field h 56 4), guard := BitVec.ofNat 8 (field h 60 1), edges := false, master := false }).setJob
    { s.job with
      stepNo := BitVec.ofNat 48 (field h 24 6), seed := BitVec.ofNat 64 (field h 40 8), nextBody := field h 20 4
      resumeTick := field h 48 6, replayTo := some s.replayLimit }).setSeed { s.seed with pulling := none, counter := field h 8 8 }

theorem State.restoreDone_eq (s : State) (h : List Byte) : s.restoreDone h false =
    ((s.restored h).setJobState .stopped).finishLong sOk 0 (leBytes 8 0 ++ leBytes 8 (field h 24 6)) := rfl

theorem State.restoreDone_same (s : State) (h : List Byte) : sameBut [.job, .ranger, .host, .tx] (s.restored h) (s.restoreDone h false) :=
  (State.setJobState_same _ _).trans (State.finishLong_same _ _ _ _)

include hjob in
theorem State.restoreDone_job : (s.restoreDone h false).job = { (s.restored h).job with state := .stopped } := by
  have hstate : (s.restored h).job.state ≠ .stopped := by
    show s.job.state ≠ .stopped
    rw [hjob]
    decide
  have hset := State.setJobState_job hstate
  rw [State.restoreDone_eq, State.finishLong_job (by rw [hset]; exact nofun) (by rw [hset]; exact nofun), hset]

end

/-- Settles O49: a pulled packet by `exec_pullData_of_asked`, the end of a restore by `restoreDone_job`. -/
theorem restoresPullTheirSet : Obligations.RestoresPullTheirSet := by
  refine ⟨fun s t p u hd hkind hpull hbuddy hhome ht => ?_, fun s h hjob => ?_⟩
  · have hrun := exec_pullData_of_asked hd hkind hpull hbuddy hhome ht
    have hlong : t.longIs 0x42 = s.longIs 0x42 := by
      have hhost : t.host = s.host := ht ▸ (State.count_same _ _ _ .host (by decide)).trans
        ((State.countRetry_same _ _ .host (by decide)).trans (s.linked_same p .host (by decide)))
      rw [State.longIs, hhost]
      rfl
    refine ⟨fun hheader => ⟨fun hok => ?_, fun hbad => ?_⟩, fun h hheader hoff => ⟨fun hrange => ⟨fun hnone => ?_, fun l hl => ?_⟩,
      fun htag => ⟨fun hfits => ?_, fun hfits => ⟨fun hnone => ?_, fun l hl => ?_⟩⟩⟩⟩
    · obtain ⟨hzero, hlen, htaken⟩ := hok
      rw [hrun, hheader]
      exact next_settle (if_neg (by simp [hzero, hlen, htaken]))
    · rw [hrun, hheader]
      refine next_settle (if_pos ?_)
      by_contra hgood
      simp only [Bool.or_eq_true, decide_eq_true_eq, Bool.not_eq_true', not_or, not_not, Bool.not_eq_false] at hgood
      exact hbad ⟨hgood.1.1, hgood.1.2, hgood.2⟩
    all_goals rw [hrun, hheader]
    · refine next_settle ((if_neg hoff).trans ((if_neg hrange).trans (if_neg ?_)))
      rw [hlong, hnone]
      exact Bool.false_ne_true
    · refine next_settle ((if_neg hoff).trans ((if_neg hrange).trans (if_pos ?_)))
      rw [hlong, hl]
      rfl
    · exact next_settle ((if_neg hoff).trans ((if_pos htag).trans (if_pos (by rw [hfits]; rfl))))
    · refine next_settle ((if_neg hoff).trans ((if_pos htag).trans ((if_neg (by rw [hfits]; exact Bool.false_ne_true)).trans ?_)))
      rw [hlong, hnone]
    · refine next_settle ((if_neg hoff).trans ((if_pos htag).trans ((if_neg (by rw [hfits]; exact Bool.false_ne_true)).trans ?_)))
      rw [hlong, hl]
  · have hsame := s.restoreDone_same h
    have hj := State.restoreDone_job (h := h) hjob
    have hseed : (s.restoreDone h false).seed = (s.restored h).seed := hsame .seed (by decide)
    refine ⟨_, rfl, ?_⟩
    rw [hj, hseed]
    exact ⟨rfl, rfl, rfl, rfl, rfl, hsame .tick (by decide), rfl, rfl⟩

end Sys2Proof.Machine

/-! PROOFS. What the host reads and writes itself (R11, R401, R408, R457 to R463). -/

namespace Sys2Proof.Machine

/-! ### Registers in pieces -/

theorem byteField_all {bs : List Byte} {n : Nat} (h : bs.length = n) : byteField bs 0 n = bs := by
  subst h
  simp [byteField]

theorem byteField_inside {bs : List Byte} {off n : Nat} (h : off + n ≤ bs.length) : byteField bs off n = (bs.drop off).take n := by
  simp [byteField, List.length_drop]
  omega

/-- Four words of four bytes are the register. -/
theorem byteField_words {bs : List Byte} (h : bs.length = 16) :
    byteField bs 0 4 ++ byteField bs 4 4 ++ (byteField bs 8 4 ++ byteField bs 12 4) = bs := by
  rw [byteField_inside (by omega), byteField_inside (by omega), byteField_inside (by omega), byteField_inside (by omega)]
  match bs, h with
  | [_, _, _, _, _, _, _, _, _, _, _, _, _, _, _, _], _ => rfl

theorem State.releaseHeld_of_none {s : State} {req : Requester} (h : (s.access req).held = none) : s.releaseHeld req = s := by
  unfold State.releaseHeld
  rw [h]

theorem State.registerAt_ovrCount (s : State) : s.registerAt 0x40020 = some (0x40020, 4, s.tick.ovrCount.toNat) := by
  simp [State.registerAt, State.registers]

theorem State.registerAt_hostErr (s : State) : s.registerAt 0x1018 = some (0x1018, 16, s.hostErr) ∧
    s.registerAt 0x101C = some (0x1018, 16, s.hostErr) ∧ s.registerAt 0x1020 = some (0x1018, 16, s.hostErr) ∧
    s.registerAt 0x1024 = some (0x1018, 16, s.hostErr) := by
  simp [State.registerAt, State.registers]

theorem State.readSpan_ovrCount {s : State} (h : (s.access .host).held = none) :
    s.readSpan .host 0x40020 4 = (s, leBytes 4 s.tick.ovrCount.toNat) := by
  unfold State.readSpan
  rw [State.releaseHeld_of_none h]
  have hword : s.readWord .host 0x40020 = (s, leBytes 4 s.tick.ovrCount.toNat) := by
    unfold State.readWord
    rw [s.registerAt_ovrCount]
    simp [byteField_all (leBytes_length 4 _)]
  simp [hword]

/-- The first access to `HOST_ERR` captures all of it. -/
def State.errCaptured (s : State) : State :=
  s.setAccess .host { s.access .host with captured := Tab.put 0x1018 (leBytes 16 s.hostErr) (s.access .host).captured }

theorem State.access_setAccess (s : State) (req : Requester) (a : Access) : (s.setAccess req a).access req = a := by
  simp [State.setAccess, State.access]

theorem State.readSpan_hostErr_low {s : State} (h : (s.access .host).held = none) : s.readSpan .host 0x1018 8 =
    (s.errCaptured, byteField (leBytes 16 s.hostErr) 0 4 ++ byteField (leBytes 16 s.hostErr) 4 4) := by
  obtain ⟨hat, hat4, -, -⟩ := s.registerAt_hostErr
  obtain ⟨-, hcat4, -, -⟩ := s.errCaptured.registerAt_hostErr
  have hlow : s.readWord .host 0x1018 = (s.errCaptured, byteField (leBytes 16 s.hostErr) 0 4) := by
    simp [State.readWord, hat, State.errCaptured]
  have hhigh : s.errCaptured.readWord .host 0x101C = (s.errCaptured, byteField (leBytes 16 s.hostErr) 4 4) := by
    have hcaptured := s.access_setAccess .host
      { s.access .host with captured := Tab.put 0x1018 (leBytes 16 s.hostErr) (s.access .host).captured }
    rw [← State.errCaptured] at hcaptured
    simp [State.readWord, hcat4, hcaptured]
  unfold State.readSpan
  rw [State.releaseHeld_of_none h]
  simp [hlow, hhigh]

/-- The second access reads what the first one captured. -/
theorem State.readSpan_hostErr_high {s : State} {bs : List Byte} (h : (s.access .host).held = none)
    (hcaptured : Tab.find 0x1018 (s.access .host).captured = some bs) :
    s.readSpan .host 0x1020 8 = (s, byteField bs 8 4 ++ byteField bs 12 4) := by
  obtain ⟨-, -, hat, hat4⟩ := s.registerAt_hostErr
  have hlow : s.readWord .host 0x1020 = (s, byteField bs 8 4) := by
    simp [State.readWord, hat, hcaptured]
  have hhigh : s.readWord .host 0x1024 = (s, byteField bs 12 4) := by
    simp [State.readWord, hat4, hcaptured]
  unfold State.readSpan
  rw [State.releaseHeld_of_none h]
  simp [hlow, hhigh]

/-! ### Reads of the host that clear -/

theorem State.readOverruns_of_open {s : State} (hopen : s.fenced 0x73 = false) (hheld : (s.access .host).held = none) :
    s.readOverruns = (s.send (.readData .host (leBytes 4 (BitVec.ofNat 32 s.ovrAtRead.1).toNat))).setTick
      { s.tick with ovrCount := BitVec.ofNat 32 s.ovrAtRead.2, ovrFresh := (s.cc, 0, s.ovrAtRead.2) } := by
  unfold State.readOverruns
  rw [if_neg (by rw [hopen]; exact Bool.false_ne_true)]
  dsimp only
  rw [State.readSpan_ovrCount (s := s.setTick { s.tick with ovrCount := BitVec.ofNat 32 s.ovrAtRead.1 }) hheld]
  rfl

/-- The device whose `HOST_ERR` the host reads: its count is what the read finds. -/
def State.errRead (s : State) : State := s.setHost { s.host with errCount := BitVec.ofNat 32 s.errAtRead }

/-- The device between the two accesses of the read. -/
def State.errCleared (s : State) : State :=
  s.errRead.errCaptured.setHost
    { s.errRead.errCaptured.host with errCount := BitVec.ofNat 32 s.hostFresh.counted, fresh := { s.hostFresh with before := 0 } }

theorem State.readHostErr_of_open {s : State} (hopen : s.fenced 0x73 = false) (hheld : (s.access .host).held = none) :
    s.readHostErr = s.errCleared.send (.readData .host (leBytes 16 s.errRead.hostErr)) := by
  have haccess : s.errCleared.access .host = { s.access .host with
      captured := Tab.put 0x1018 (leBytes 16 s.errRead.hostErr) (s.access .host).captured } :=
    s.errRead.access_setAccess .host _
  have hlow := State.readSpan_hostErr_low (s := s.errRead) hheld
  have hhigh := State.readSpan_hostErr_high (s := s.errCleared) (bs := leBytes 16 s.errRead.hostErr)
    (by rw [haccess]; exact hheld) (by rw [haccess]; exact Tab.find_put_same _ _ _)
  have heq : s.readHostErr = (s.errCleared.readSpan .host 0x1020 8).1.send (.readData .host
      ((s.errRead.readSpan .host 0x1018 8).2 ++ (s.errCleared.readSpan .host 0x1020 8).2)) := by
    unfold State.readHostErr
    rw [if_neg (by rw [hopen]; exact Bool.false_ne_true)]
    dsimp only
    rw [State.errCleared, ← show (s.errRead.readSpan .host 0x1018 8).1 = s.errRead.errCaptured by rw [hlow]]
    rfl
  rw [heq, hhigh, hlow, byteField_words (leBytes_length 16 _)]

theorem State.errCleared_same (s : State) : sameBut [.host] s s.errCleared :=
  ((s.setHost_same _).trans (State.setHost_same _ _)).trans (State.setHost_same _ _)

/-! ### Errors of the host's accesses -/

/-- What `HOST_ERR` holds, but for its count. -/
def HostUnit.sameError (a b : HostUnit) : Prop :=
  b.errOffset = a.errOffset ∧ b.errStatus = a.errStatus ∧ b.errWrite = a.errWrite ∧ b.errValid = a.errValid ∧ b.errCount = a.errCount

theorem State.raise_sameError (s : State) (v : Nat) : s.host.sameError (s.raise v).host := by
  unfold State.raise State.sendVector
  dsimp only
  split
  · exact ⟨rfl, rfl, rfl, rfl, rfl⟩
  · exact ⟨rfl, rfl, rfl, rfl, rfl⟩

/-- R11: a failed access is counted. -/
def State.errCounted (s : State) : State := s.setHost { s.host with
  errCount := BitVec.ofNat 32 (satAdd 32 s.host.errCount.toNat 1)
  fresh := { s.hostFresh with
    before := if s.hostFresh.counted = 0 then s.host.errCount.toNat else s.hostFresh.before, counted := s.hostFresh.counted + 1 } }

theorem State.hostError_of_valid {s : State} (h : s.host.errValid = true) (w st : Nat) (write : Bool) :
    s.hostError w st write = s.errCounted := if_pos h

/-- R11: the first failed access is recorded. -/
theorem State.hostError_of_invalid {s : State} (h : s.host.errValid = false) (w st : Nat) (write : Bool) :
    s.hostError w st write = (s.errCounted.setHost { s.errCounted.host with
      errOffset := BitVec.ofNat 40 (w / 64), errStatus := BitVec.ofNat 3 st, errWrite := write, errValid := true
      fresh := { s.errCounted.host.fresh with errValid := true } }).raise 35 :=
  if_neg (show ¬ s.host.errValid = true by rw [h]; exact Bool.false_ne_true)

theorem satAdd_word_toNat (v : BitVec 32) (k : Nat) : (BitVec.ofNat 32 (satAdd 32 v.toNat k)).toNat = satAdd 32 v.toNat k := by
  simp only [satAdd, BitVec.toNat_ofNat]
  omega

theorem State.hostError_same (s : State) (w st : Nat) (write : Bool) : sameBut [.host, .tx] s (s.hostError w st write) := by
  have hcounted : sameBut [.host, .tx] s s.errCounted := (s.setHost_same _).weaken (by decide)
  cases h : s.host.errValid with
  | true => rw [State.hostError_of_valid h]; exact hcounted
  | false =>
    rw [State.hostError_of_invalid h]
    exact (hcounted.trans ((State.setHost_same _ _).weaken (by decide))).trans (State.raise_same _ _)

/-! ### CXL.mem -/

/-- What a write of the host touches before it is performed or refused. -/
def State.hostTouched (s : State) (w : Nat) (data : List Byte) : State :=
  let a := s.job.hostWin + w
  let st := s.hostStatus .hostWrite w data.length
  let s := if st = 1 || st = 2 then s else s.lookOwners (s.deliveryDie a) .hostWrite (a / 32 * 32) (alignUp 32 (a % 32 + data.length))
  if st = 0 then s.wakeRanges [(a, data.length)] else s.countAccess (s.deliveryDie a) st

theorem State.hostTouched_same (s : State) (w : Nat) (data : List Byte) :
    sameBut [.ctr, .fab, .parts, .und, .power, .hbmStacks] s (s.hostTouched w data) := by
  unfold State.hostTouched
  exact sameBut.ite
    (sameBut.after (State.wakeRanges_same _ _) (by decide) (sameBut.ite (sameBut.refl _ s) ((s.lookOwners_same _ _ _ _).weaken (by decide))))
    (sameBut.after (State.countAccess_same _ _ _) (by decide) (sameBut.ite (sameBut.refl _ s) ((s.lookOwners_same _ _ _ _).weaken (by decide))))

theorem State.hostWrite_of_open {s : State} (hopen : s.fenced 0x73 = false) (w : Nat) (data : List Byte) : s.hostWrite w data =
    if s.hostStatus .hostWrite w data.length = 0 then ((s.hostTouched w data).writeLocal (s.job.hostWin + w) 0 data).send (.cxl [])
    else ((s.hostTouched w data).hostError w (s.hostStatus .hostWrite w data.length) true).send (.cxl []) := by
  unfold State.hostWrite
  rw [if_neg (by rw [hopen]; exact Bool.false_ne_true)]
  unfold State.hostTouched
  by_cases hst : s.hostStatus .hostWrite w data.length = 0
  · simp only [hst, if_true]
  · simp only [hst, if_false]

theorem State.hostRead_of_open {s : State} (hopen : s.fenced 0x73 = false) (w len : Nat) : s.hostRead w len =
    if s.hostStatus .hostRead w len = 0 then
      ((s.wakeRanges [(s.job.hostWin + w, len)]).noteRead (s.job.hostWin + w) len 0).send (.cxl (s.readLocal (s.job.hostWin + w) len))
    else ((s.countAccess (s.deliveryDie (s.job.hostWin + w)) (s.hostStatus .hostRead w len)).hostError w
      (s.hostStatus .hostRead w len) false).send (.cxl (List.replicate len (if s.hostStatus .hostRead w len = 4 then 0 else 0xFF))) :=
  if_neg (by rw [hopen]; exact Bool.false_ne_true)

/-- Settles O50: each access by what it finds of the fence and of its status; the reads that clear by `readOverruns_of_open` and
`readHostErr_of_open`. -/
theorem hostReadsAndWrites : Obligations.HostReadsAndWrites := by
  rintro s w len data off width v bits a rfl
  have hno : s.fenced 0x73 = false → ¬ s.fenced 0x73 = true := fun h => by rw [h]; exact Bool.false_ne_true
  refine ⟨fun hopen => ⟨?_, ?_, next_settle (if_neg (hno hopen)), fun hheld => ⟨next_settle (State.readOverruns_of_open hopen hheld),
    fun hold => ?_, _, next_settle (State.readHostErr_of_open hopen hheld), rfl, fun hold => ?_, rfl, rfl, rfl, rfl, ?_⟩,
    next_settle (if_neg (hno hopen))⟩, fun hfence => ⟨next_settle (if_pos hfence), next_settle (if_pos hfence), next_settle (if_pos hfence),
    next_settle (if_pos hfence), next_settle (if_pos hfence), next_settle (if_pos hfence)⟩, fun st write => ⟨_, rfl, ?_, fun hvalid => ?_,
      fun hinvalid => ?_, s.hostError_same _ _ _⟩⟩
  · rintro st rfl
    have hrun : exec (.cxlMemRead w len) s = .next (s.hostRead w.toNat len).settle := rfl
    rw [hrun, State.hostRead_of_open hopen]
    exact ⟨fun h0 => next_settle (if_pos h0), fun h0 => next_settle (if_neg h0)⟩
  · rintro st rfl
    have hrun : exec (.cxlMemWrite w data) s = .next (s.hostWrite w.toNat data).settle := rfl
    rw [hrun, State.hostWrite_of_open hopen]
    exact ⟨_, s.hostTouched_same _ _, fun h0 => next_settle (if_pos h0), fun h0 => next_settle (if_neg h0)⟩
  · simp [State.ovrAtRead, hold]
  · have hcounted : s.hostFresh.counted = 0 := by rw [State.hostFresh, if_neg hold]
    exact ⟨congrArg (BitVec.ofNat 32) hcounted, if_pos hcounted⟩
  · exact (s.errCleared_same.weaken (by decide)).trans ((State.send_same _ _).weaken (by decide))
  · cases h : s.host.errValid with
    | true => rw [State.hostError_of_valid h]; exact satAdd_word_toNat _ _
    | false =>
      rw [State.hostError_of_invalid h]
      obtain ⟨-, -, -, -, hcount⟩ := State.raise_sameError (s.errCounted.setHost { s.errCounted.host with
        errOffset := BitVec.ofNat 40 (w.toNat / 64), errStatus := BitVec.ofNat 3 st, errWrite := write, errValid := true
        fresh := { s.errCounted.host.fresh with errValid := true } }) 35
      exact (congrArg BitVec.toNat hcount).trans (satAdd_word_toNat _ _)
  · rw [State.hostError_of_valid hvalid]
    exact ⟨rfl, rfl⟩
  · rw [State.hostError_of_invalid hinvalid]
    obtain ⟨hoffset, hstatus, hwrite, hset, -⟩ := State.raise_sameError (s.errCounted.setHost { s.errCounted.host with
      errOffset := BitVec.ofNat 40 (w.toNat / 64), errStatus := BitVec.ofNat 3 st, errWrite := write, errValid := true
      fresh := { s.errCounted.host.fresh with errValid := true } }) 35
    exact ⟨hset, hoffset, hstatus, hwrite, State.raise_irqStatus _ (by decide)⟩

end Sys2Proof.Machine

/-! PROOFS. Mailbox commands: their acceptance (R464, R466) and their effect (R467). -/

namespace Sys2Proof.Machine

/-! ### Acceptance -/

/-- Each command of the table is taken by its row and runs its own meaning. -/
theorem mailboxCommands_run : ∀ m ∈ mailboxCommands, ∀ (mb : Fin 32) (s : State),
    exec (m.command mb) s = .next (s.command mb m.row m.run).settle := by
  simp only [mailboxCommands, List.forall_mem_append, List.forall_mem_cons, List.not_mem_nil, false_imp_iff, implies_true, and_true]
  repeat' apply And.intro
  all_goals exact fun _ _ => rfl

section
variable {s u : State} {mb : Fin 32} {c : Cmd} {a : Accepted} (h : s.takesCommand mb c a u)
include h

/-- A command that is taken is refused, or it runs, by the rows of R466 in their order. -/
theorem State.command_taken (run : Accepted → State → State) : s.command mb c run =
    if c.long && s.host.long.isSome then u.complete a sBusy ((s.host.long.map (·.req.cmd)).getD 0) []
    else if !c.lenOk a.len then u.complete a sBadLen c.lenWant []
    else if !c.states.contains s.job.state then u.complete a sBadState s.job.state.code []
    else run a (if c.long then u.setLong { req := a } else u) := by
  obtain ⟨rest, haccepted, hmb, hcmd, hfence, hbusy, rfl⟩ := h
  unfold State.command
  rw [haccepted]
  dsimp only
  rw [if_neg (by simp [hmb, hcmd, hfence, hbusy])]
  rfl

theorem State.command_of_busy {l : LongCmd} (hlong : c.long = true) (hl : s.host.long = some l) (run : Accepted → State → State) :
    s.command mb c run = u.complete a sBusy l.req.cmd [] := by
  rw [State.command_taken h, if_pos (by simp [hlong, hl]), hl]
  rfl

theorem State.command_of_badLen (hfree : c.long = true → s.host.long = none) (hlen : c.lenOk a.len = false)
    (run : Accepted → State → State) : s.command mb c run = u.complete a sBadLen c.lenWant [] := by
  rw [State.command_taken h, if_neg (by simpa using hfree), if_pos (by simp [hlen])]

theorem State.command_of_badState (hfree : c.long = true → s.host.long = none) (hlen : c.lenOk a.len = true)
    (hstate : c.states.contains s.job.state = false) (run : Accepted → State → State) :
    s.command mb c run = u.complete a sBadState s.job.state.code [] := by
  rw [State.command_taken h, if_neg (by simpa using hfree), if_neg (by simp [hlen]), if_pos (by rw [hstate]; rfl)]

end

theorem State.acceptOne_host {s : State} {mb : Nat} (hseq : (s.requestOf mb).seq ≠ leNat (s.mbBytes mb 16 4))
    (hknown : knownCommands.contains (s.requestOf mb).cmd = true) (hlen : (s.requestOf mb).len ≤ 2048) :
    (s.acceptOne mb).host = { s.host with accepted := s.host.accepted ++ [s.requestOf mb] } := by
  have htrace (k c : Nat) (d : List Byte) : (s.addTrace k c d).host = s.host := s.addTrace_same k c d .host (by decide)
  have hbytes (k c : Nat) (d : List Byte) : (s.addTrace k c d).mbBytes mb 16 4 = s.mbBytes mb 16 4 := by rw [State.mbBytes, htrace]; rfl
  unfold State.acceptOne
  dsimp only
  rw [hbytes, if_neg hseq, if_neg (by rw [hknown]; exact Bool.false_ne_true), if_neg (Nat.not_lt.2 hlen), htrace]
  rfl

/-- Settles O52. -/
theorem commandsAreTaken : Obligations.CommandsAreTaken := by
  refine ⟨fun s hopen => next_settle (if_neg (by rw [hopen]; exact Bool.false_ne_true)), fun s mb hseq hknown hlen =>
    ⟨_, rfl, State.acceptOne_host hseq hknown hlen⟩, fun m hm s u mb a htakes => ?_⟩
  rw [mailboxCommands_run m hm]
  exact ⟨fun l hlong hl => next_settle (State.command_of_busy htakes hlong hl _), fun hfree =>
    ⟨fun hlen => next_settle (State.command_of_badLen htakes hfree hlen _),
      fun hlen hstate => next_settle (State.command_of_badState htakes hfree hlen hstate _),
      fun t hruns => next_settle (State.command_runs hruns _)⟩⟩

/-! ### The effect of a command whose request is in range -/

theorem firstBad_none {l : List (Nat × Bool)} (h : ∀ p ∈ l, p.2 = false) : firstBad l = none := by
  rw [firstBad, List.find?_eq_none.2 fun p hp => by rw [h p hp]; exact Bool.false_ne_true]
  rfl

section
variable {t : State} {a : Accepted}

theorem State.startLoad_of_ok (hload : loadFieldBad a.request = none) : State.startLoad a t =
    ((t.setJob { t.job with before := t.job.state }).setJobState .loading).readHost a true (field a.request 0 8) (field a.request 8 8) := by
  unfold State.startLoad
  rw [hload]

/-- A start of one device: its job is released at once, on the next aligned cycle. -/
theorem State.startJob_solo (h9 : field a.request 9 1 = 0) (h12 : field a.request 12 4 = 0) (hrefusal : t.startRefusal = none)
    {u v w : State} (hu : u = t.prepareStart) {seed : Word}
    (hseed : seed = if u.job.state = .stopped then u.job.seed else BitVec.ofNat 64 (field a.request 0 8))
    (hmode : field a.request 8 1 = 0) (htag : field a.request 10 2 ≠ 0)
    (hv : v = u.setJob { u.job with seed := seed, multi := false, tag := BitVec.ofNat 16 (field a.request 10 2) })
    (hw : w = v.setFab { v.fab with jobTag := BitVec.ofNat 16 (field a.request 10 2) }) : State.startJob a t =
      ((w.reach w.soloRelease).release w.job.resumeTick).complete a sOk 0
        (leBytes 8 ((w.reach w.soloRelease).release w.job.resumeTick).tick.count.toNat ++ leBytes 8 0) := by
  have hok : firstBad [(8, decide (field a.request 8 1 > 1)), (9, decide (field a.request 9 1 ≠ 0)),
      (10, decide ((field a.request 8 1 = 0) ≠ (field a.request 10 2 ≠ 0))), (12, decide (field a.request 12 4 ≠ 0))] = none :=
    firstBad_none (by simp [h9, h12, hmode, htag])
  unfold State.startJob
  simp only [hok, hrefusal, beq_iff_eq]
  simp only [hmode, if_true, ← hu, ← hseed, ← hv, ← hw]

/-- A start of several devices: the job waits for its `ARM`. -/
theorem State.startJob_multi (h9 : field a.request 9 1 = 0) (h12 : field a.request 12 4 = 0) (hrefusal : t.startRefusal = none)
    {u v w : State} (hu : u = t.prepareStart) {seed : Word}
    (hseed : seed = if u.job.state = .stopped then u.job.seed else BitVec.ofNat 64 (field a.request 0 8))
    (hmode : field a.request 8 1 = 1) (htag : field a.request 10 2 = 0)
    (hv : v = u.setJob { u.job with seed := seed, multi := true })
    (hw : w = v.setFence { v.fence with used := v.fence.used ||| BitVec.twoPow 116 0x69 }) : State.startJob a t =
      ((w.setTick { w.tick with release := .idle, pendingReady := none }).setJobState .waitArm).complete a sOk 0 (leBytes 16 0) := by
  have hok : firstBad [(8, decide (field a.request 8 1 > 1)), (9, decide (field a.request 9 1 ≠ 0)),
      (10, decide ((field a.request 8 1 = 0) ≠ (field a.request 10 2 ≠ 0))), (12, decide (field a.request 12 4 ≠ 0))] = none :=
    firstBad_none (by simp [h9, h12, hmode, htag])
  unfold State.startJob
  simp only [hok, hrefusal, beq_iff_eq]
  simp only [hmode, one_ne_zero, if_false, ← hu, ← hseed, ← hv, ← hw]

/-- What a stop is depends on the job's state alone. -/
theorem State.stopCommand_of_ok (hzero : zeroField a.request 1 7 = true) (hflags : field a.request 0 1 ≤ 3) : State.stopCommand a t =
    match t.job.state with
    | .running => (t.setLong { req := a, phase := 1 }).askMark 1 1 0x12
    | .waitArm =>
      let s := t.setTick { t.tick with release := .idle, pendingReady := none, master := false }
      let s := (s.setFab { s.fab with jobTag := 0 }).setJobState .loaded
      if (field a.request 0 1).testBit 1 then s.setLong { req := a, phase := 2 } else s.complete a sOk 0 s.stopResult
    | _ => if (field a.request 0 1).testBit 1 then t.setLong { req := a, phase := 2 } else t.complete a sOk 0 t.stopResult := by
  have hok : firstBad [(0, decide (field a.request 0 1 > 3)), (1, !zeroField a.request 1 7)] = none :=
    firstBad_none (by simp [hzero, hflags])
  unfold State.stopCommand
  simp only [hok] <;> rfl

theorem State.setPeriod_of_ok (hzero : zeroField a.request 5 3 = true)
    (hallowed : t.tickAllowed (field a.request 0 4) (if field a.request 4 1 = 0 then 30 else field a.request 4 1) = true) :
    State.setPeriod a t = (t.setTick { t.tick with
      period := BitVec.ofNat 24 (field a.request 0 4)
      guard := BitVec.ofNat 8 (if field a.request 4 1 = 0 then 30 else field a.request 4 1) }).complete a sOk 0 [] := by
  unfold State.setPeriod
  simp only [hzero, hallowed, Bool.not_true, Bool.false_eq_true, if_false]

theorem State.lookahead_of_ok (hpos : 0 < field a.request 0 2) (hmax : field a.request 0 2 ≤ 127)
    (hlen : a.len = 16 + 16 * field a.request 0 2) (hzero : field a.request 2 14 = 0) : State.lookahead a t =
      ((chunks 16 (byteField a.request 16 (16 * field a.request 0 2))).foldl State.listEntry (t, [0, 0, 0, 0, 0, 0])).1.serveTier.complete a
        sOk 0 (byteField (((chunks 16 (byteField a.request 16 (16 * field a.request 0 2))).foldl State.listEntry
          (t, [0, 0, 0, 0, 0, 0])).2.flatMap (leBytes 4)) 0 32) := by
  unfold State.lookahead
  dsimp only
  rw [if_neg (by simp; omega), if_neg (by omega), if_neg (by omega)]

theorem State.tableRegister_drop (hpos : 0 < field a.request 0 2) (hmax : field a.request 0 2 ≤ 1023) (h3 : field a.request 3 1 = 0)
    (hdrop : field a.request 2 1 = 1) : State.tableRegister a t =
      (t.setUnd { t.und with tablesNext := Tab.put (field a.request 0 2) none t.und.tablesNext }).complete a sOk 0 [] := by
  unfold State.tableRegister
  dsimp only
  rw [if_neg (by simp; omega), if_neg (by omega), if_neg (by omega), if_pos hdrop]

/-- R355: the table that a request registers. -/
def requestedTable (q : List Byte) : TableReg :=
  { base := field q 8 8, rows := field q 16 4, rowBytes := field q 4 2, dflt := field q 24 8 }

theorem State.tableRegister_set (hpos : 0 < field a.request 0 2) (hmax : field a.request 0 2 ≤ 1023) (h3 : field a.request 3 1 = 0)
    (hset : field a.request 2 1 = 0) (hlow : 32 ≤ field a.request 4 2) (hhigh : field a.request 4 2 ≤ 4096)
    (hrow : field a.request 4 2 % 32 = 0) (h6 : field a.request 6 2 = 0) (h20 : field a.request 20 4 = 0)
    (hbase : (t.segmentAt (field a.request 8 8)).isSome = true)
    (hdefault : (t.segmentAt (field a.request 24 8)).any
      (fun g => g.cls = 1 && field a.request 24 8 + field a.request 4 2 ≤ g.base + g.size) = true) : State.tableRegister a t =
      (t.setUnd { t.und with tablesNext := Tab.put (field a.request 0 2) (some (requestedTable a.request)) t.und.tablesNext }).complete
        a sOk 0 [] := by
  unfold State.tableRegister
  dsimp only
  rw [if_neg (by simp; omega), if_neg (by omega), if_neg (by omega), if_neg (by omega), if_neg (by simp; omega), if_neg (by omega),
    if_neg (by rw [Option.isNone_iff_eq_none, ← Option.not_isSome_iff_eq_none, not_not]; exact hbase), if_neg (by omega),
    if_neg (by rw [hdefault]; exact Bool.false_ne_true)]
  rfl

theorem State.quotaSet_of_ok (hfields : ∀ r ∈ chunks 32 a.request, quotaBad r = none) {u : State}
    (hu : t.applyQuotas none 0 (chunks 32 a.request) = .ok u) : State.quotaSet a t = u.serveTier.complete a sOk 0 [] := by
  have hok : (chunks 32 a.request).zipIdx.findSome? (fun p => (quotaBad p.1).map (fun o => 32 * p.2 + o)) = none := by
    rw [List.findSome?_eq_none_iff]
    intro p hp
    rw [hfields p.1 (List.fst_mem_of_mem_zipIdx hp)]
    rfl
  unfold State.quotaSet
  simp only [hok, hu]

theorem State.resetFunction_of_ok (hfunc : field a.request 0 1 < 0x72) (haction : field a.request 1 1 ≤ 2)
    (hzero : field a.request 2 6 = 0) :
    State.resetFunction a t = t.freset (field a.request 0 1) (field a.request 1 1) .heartwood a.owner := by
  unfold State.resetFunction
  dsimp only
  rw [if_neg (by omega), if_neg (by omega), if_neg (by omega), if_neg (by simp; omega)]

theorem State.snapshotCommand_of_ok (hzero : zeroField a.request 0 8 = true) (hmode : t.job.cmdlist = false) :
    State.snapshotCommand a t = t.askMark 2 2 0x40 := by
  simp only [State.snapshotCommand, hzero, hmode, Bool.not_true, Bool.false_eq_true, if_false]

/-- A restore whose steps are done asks a home, or reads its own set. -/
theorem State.restoreCommand_of_ok (hsource : field a.request 0 1 ≤ 1) (hzero : zeroField a.request 1 15 = true)
    (hfence : (t.fence.fenced &&& t.fence.used) = 0) (hpools : t.poolsRefusal = none) {v : State}
    (hsteps : ((t.setJob { t.job with before := t.job.state }).setJobState .restoring).restoreSteps = (v, true)) {w : State}
    (hw : w = v.setLong { req := a, phase := 1, note := v.seed.restoreStep.toNat }) : State.restoreCommand a t =
      if field a.request 0 1 = 0 && w.seed.mode = 2 then w.askHome w.seed.restoreStep.toNat w.pullHomes
      else if field a.request 0 1 = 0 && w.seed.mode = 0 then w.restoreFailed
      else w := by
  have hok : firstBad [(0, decide (field a.request 0 1 > 1)), (1, !zeroField a.request 1 15)] = none :=
    firstBad_none (by simp [hzero, hsource])
  subst hw
  unfold State.restoreCommand
  simp only [hok, hfence, hpools, hsteps, ne_eq, not_true, if_false]

theorem State.checkpointCommand_running (hzero : zeroField a.request 0 8 = true) (hwrite : t.und.readOnly = false)
    (hjob : t.job.state = .running) : State.checkpointCommand a t = t.askMark 2 3 0x42 := by
  unfold State.checkpointCommand
  simp only [hzero, hwrite, hjob, Bool.not_true, Bool.false_eq_true, if_false]
  rfl

theorem State.checkpointCommand_stopped (hzero : zeroField a.request 0 8 = true) (hwrite : t.und.readOnly = false)
    (hjob : t.job.state = .stopped) {rs : List LiveRange} (hrs : t.rangesAt t.job.nextBody = some rs) :
    State.checkpointCommand a t = t.haveCheckpoint { req := a }
      { gen := 0, body := t.job.nextBody, step := t.job.stepNo.toNat, tick := t.job.resumeTick } rs 1 := by
  unfold State.checkpointCommand
  simp only [hzero, hwrite, hjob, hrs, Bool.not_true, Bool.false_eq_true, if_false, beq_self_eq_true, if_true]

theorem State.readTelemetry_of_ok {bs : List Byte} (hbs : t.telemetryObject a.request = .ok bs)
    (hroom : bs.length ≤ field a.request 24 4) : State.readTelemetry a t =
      if bs.isEmpty = true then t.complete a sOk 0 (t.telemetryResult a.request 0) else t.writeHost a (field a.request 16 8) bs := by
  unfold State.readTelemetry
  rw [hbs]
  exact if_neg (Nat.not_lt.2 hroom)

theorem firmwareFields_ok (htarget : field a.request 0 1 ≤ 1) (hzero : zeroField a.request 1 7 = true) :
    firstBad [(0, decide (field a.request 0 1 > 1)), (1, !zeroField a.request 1 7)] = none := firstBad_none (by simp [hzero, htarget])

theorem State.startStage_of_ok (htarget : field a.request 0 1 ≤ 1) (hzero : zeroField a.request 1 7 = true) {k : Nat} {b : BootRec}
    (hk : k = fwKind (field a.request 0 1)) (hb : b = t.sec.boot k) : State.startStage a t =
      ((t.setSec ((t.sec.setBoot k { b with staged := none }).setImage k (1 - b.running) [])).noteStaged.readHost a true
        (field a.request 8 8) (field a.request 16 8)) := by
  subst hb hk
  unfold State.startStage
  simp only [firmwareFields_ok htarget hzero]

theorem State.activate_of_staged (htarget : field a.request 0 1 ≤ 1) (hzero : zeroField a.request 1 7 = true) {k slot : Nat} {b : BootRec}
    (hk : k = fwKind (field a.request 0 1)) (hb : b = t.sec.boot k) (hslot : b.staged = some slot) : State.activate a t =
      (t.setSec (t.sec.setBoot k { b with active := slot, tries := 3 })).complete a sOk 0 (leBytes 8 (fwVersion (t.sec.image k slot))) := by
  subst hb hk
  unfold State.activate
  simp only [firmwareFields_ok htarget hzero, hslot]

section
variable (hmax : field a.request 6 2 ≤ 63) (hzero : zeroField a.request 20 12 = true) (hlen : a.len = 32 + 32 * field a.request 6 2)
  (hmode : t.job.cmdlist = true) (htick : t.tickPassed (field a.request 0 6) = false)
  (hnew : (Tab.find (field a.request 0 6) t.job.lists).isSome = false)
include hmax hzero hlen hmode htick hnew

/-- A command list whose header is in range comes with the request, or is read from the host. -/
theorem State.submitList_of_ok (hrange : 0 < field a.request 6 2 ∨ (0 < field a.request 16 4 ∧ field a.request 16 4 ≤ 65536)) :
    State.submitList a t = if field a.request 6 2 = 0 then t.readHost a false (field a.request 8 8) (32 * field a.request 16 4)
      else t.acceptList a (byteField a.request 32 (32 * field a.request 6 2)) := by
  have hok : firstBad [(6, decide (field a.request 6 2 > 63)),
      (16, decide (field a.request 6 2 = 0) && (decide (field a.request 16 4 = 0) || decide (field a.request 16 4 > 65536))),
      (20, !zeroField a.request 20 12)] = none := firstBad_none (by simp [hzero, hmax]; omega)
  unfold State.submitList
  simp only [hok, hlen, hmode, htick, hnew, ne_eq, not_true, Bool.not_true, Bool.false_eq_true, if_false]

end

end

/-- A command that runs leaves all but the host unit as it finds it. -/
theorem State.runsCommand_kept {s t : State} {mb : Fin 32} {c : Cmd} {a : Accepted} (h : s.runsCommand mb c a t) :
    t.job = s.job ∧ t.und = s.und ∧ t.fence = s.fence :=
  ⟨s.runsCommand_same h .job (by decide), s.runsCommand_same h .und (by decide), s.runsCommand_same h .fence (by decide)⟩

/-- Settles O53: each command runs its meaning (`command_runs`), whose request is in range. -/
theorem commandsHaveTheirEffect : Obligations.CommandsHaveTheirEffect := by
  rintro s t mb a q rfl
  refine ⟨fun h => next_settle (State.command_runs h _), fun h hload _ => next_settle ((State.command_runs h _).trans
    (State.startLoad_of_ok hload)), fun h h9 h12 hrefusal u seed hu hseed => ⟨fun hmode htag => ⟨_, _, rfl, rfl, ?_⟩,
    fun hmode htag => ⟨_, _, rfl, rfl, ?_⟩⟩, fun h hzero hflags => ?_, fun h hzero hallowed => next_settle ((State.command_runs h _).trans
    (State.setPeriod_of_ok hzero hallowed)), fun h hpos hmax hlen hzero => ⟨_, rfl, next_settle ((State.command_runs h _).trans
    (State.lookahead_of_ok hpos hmax hlen hzero))⟩, fun h hpos hmax h3 => ⟨fun hdrop => next_settle ((State.command_runs h _).trans
    (State.tableRegister_drop hpos hmax h3 hdrop)), fun hset hlow hhigh hrow h6 h20 hbase hdefault => ⟨_, rfl,
    next_settle ((State.command_runs h _).trans (State.tableRegister_set hpos hmax h3 hset hlow hhigh hrow h6 h20 hbase hdefault))⟩⟩,
    fun h hfields u hu => next_settle ((State.command_runs h _).trans (State.quotaSet_of_ok hfields hu)),
    fun h => next_settle (State.command_runs h _), fun h hfunc haction hzero => next_settle ((State.command_runs h _).trans
    (State.resetFunction_of_ok hfunc haction hzero)), fun h hzero hmode => ?_, fun h hsource hzero hfence hpools v hsteps => ?_,
    fun h hzero hwrite => ?_, fun h bs hbs hroom => next_settle ((State.command_runs h _).trans (State.readTelemetry_of_ok hbs hroom)),
    fun h htarget hzero => ⟨_, _, rfl, rfl, next_settle ((State.command_runs h _).trans (State.startStage_of_ok htarget hzero rfl rfl))⟩,
    fun h htarget hzero k b slot hk hb hslot => next_settle ((State.command_runs h _).trans
      (State.activate_of_staged htarget hzero hk hb hslot)), fun h hmax hzero hlen hmode htick hnew => ?_⟩
  · exact next_settle ((State.command_runs h _).trans (State.startJob_solo h9 h12 hrefusal hu hseed hmode htag rfl rfl))
  · exact next_settle ((State.command_runs h _).trans (State.startJob_multi h9 h12 hrefusal hu hseed hmode htag rfl rfl))
  · obtain ⟨hjob, -, -⟩ := State.runsCommand_kept h
    have hrun := (State.command_runs h State.stopCommand).trans (State.stopCommand_of_ok hzero hflags)
    rw [hjob] at hrun
    refine ⟨fun hstate => ?_, fun hstate => ⟨_, _, rfl, rfl, ?_⟩, fun hrunning hwaiting => ?_⟩
    · rw [hstate] at hrun
      exact next_settle hrun
    · rw [hstate] at hrun
      exact next_settle hrun
    · refine next_settle (hrun.trans ?_)
      split
      · next hstate => exact absurd hstate hrunning
      · next hstate => exact absurd hstate hwaiting
      · rfl
  · obtain ⟨hjob, -, -⟩ := State.runsCommand_kept h
    exact next_settle ((State.command_runs h _).trans (State.snapshotCommand_of_ok hzero (by rw [hjob]; exact hmode)))
  · obtain ⟨-, -, hsame⟩ := State.runsCommand_kept h
    have hrun := (State.command_runs h State.restoreCommand).trans
      (State.restoreCommand_of_ok hsource hzero (by rw [hsame]; exact hfence) hpools hsteps rfl)
    refine ⟨_, rfl, fun hread => ?_, fun hask hmode => ?_, fun hask hmode => ?_⟩
    · refine next_settle (hrun.trans ((if_neg ?_).trans (if_neg ?_)))
      · rcases hread with h1 | h1
        · simp [h1]
        · simp [h1]
      · rcases hread with h1 | h1
        · simp [h1]
        · simp [h1]
    · exact next_settle (hrun.trans (if_pos (by simp [hask, hmode])))
    · exact next_settle (hrun.trans ((if_neg (by simp [hmode])).trans (if_pos (by simp [hask, hmode]))))
  · obtain ⟨hjob, hund, -⟩ := State.runsCommand_kept h
    have hwritable : t.und.readOnly = false := by rw [hund]; exact hwrite
    exact ⟨fun hstate => next_settle ((State.command_runs h _).trans
      (State.checkpointCommand_running hzero hwritable (by rw [hjob]; exact hstate))), fun rs hstate hrs =>
      next_settle ((State.command_runs h _).trans (State.checkpointCommand_stopped hzero hwritable (by rw [hjob]; exact hstate) hrs))⟩
  · obtain ⟨hjob, -, -⟩ := State.runsCommand_kept h
    have hrun (hrange) := (State.command_runs h State.submitList).trans
      (State.submitList_of_ok hmax hzero hlen (by rw [hjob]; exact hmode) htick (by rw [hjob]; exact hnew) hrange)
    exact ⟨fun hmany => next_settle ((hrun (.inl hmany)).trans (if_neg (Nat.ne_of_gt hmany))),
      fun hnone hpos hle => next_settle ((hrun (.inr ⟨hpos, hle⟩)).trans (if_pos hnone))⟩

end Sys2Proof.Machine

/-! PROOFS. What mailbox commands wait for (R256, R466, R469, R471). -/

namespace Sys2Proof.Machine

section
variable {s : State} {x : Xfer} {rest : List Xfer} (h : s.host.xfers = x :: rest)
include h

/-- The oldest transfer's completion: an error of the host, a write that is done, or data that were read. -/
theorem State.hostXferDone_of_oldest (ok : Bool) (data : List Byte) : s.hostXferDone ok data =
    if !ok then s.complete x.req sHostXferFail x.addr []
    else if x.write then (s.setHost { s.host with xfers := rest }).complete x.req sOk 0 (s.telemetryResult x.req.request x.len)
    else (s.setHost { s.host with xfers := rest }).haveHostData x (byteField data 0 x.len) := by
  unfold State.hostXferDone
  rw [h]
  rfl

theorem exec_hostXferTimeout_of_oldest :
    exec .hostXferTimeout s = .next ((s.reach (x.since + 60000000)).complete x.req sHostXferFail x.addr []).settle := by
  have hrun : exec .hostXferTimeout s = .next (match s.host.xfers with
    | [] => s
    | x :: _ => (s.reach (x.since + 60000000)).complete x.req sHostXferFail x.addr []).settle := rfl
  rw [hrun, h]

end

/-- A long command ends by its code and its phase. -/
theorem State.endLong_of_long {s : State} {l : LongCmd} (hl : s.host.long = some l) (hopen : s.fenced 0x72 = false) : s.endLong =
    match l.req.cmd, l.phase with
    | 0x10, 2 => s.performJobLoad l
    | 0x12, 2 => s.endUnload l
    | 0x41, 1 => if s.seed.pulling.isSome then s else s.endRestore l
    | 0x42, 1 => s.endCheckpoint l
    | 0x60, 1 => s.endStage l
    | _, _ => s := by
  unfold State.endLong
  rw [hl]
  exact if_neg (by rw [hopen]; exact Bool.false_ne_true)

theorem State.buildBody_of_due {s : State} {d t : Nat} {entries : List Byte} (hlist : Tab.find t s.job.lists = some entries)
    (hmode : s.job.cmdlist = true) (hopen : s.fenced 0x72 = false) (hnow : s.buildsNow t = true)
    (hnew : (Tab.find (bodyKey d t) s.job.built).any (fun b => b.1 = t) = false)
    (hroom : 128 * (s.bodyBundles d entries).length ≤ 0x400000) {u : State}
    (hu : s.writeLocal (windowBase d + 0x100010000 + t % 2 * 0x400000) 0 (s.bodyBundles d entries).flatten = u) : s.buildBody d t =
      u.setJob { u.job with built := Tab.put (bodyKey d t) (t, (s.bodyBundles d entries).length) u.job.built } := by
  unfold State.buildBody
  rw [hlist]
  dsimp only
  rw [if_neg (by rw [hmode, hopen, hnow, hnew]; exact Bool.false_ne_true), if_neg (Nat.not_lt.2 hroom), hu]

/-- Settles O54. -/
theorem waitsEnd : Obligations.WaitsEnd := by
  intro s data d tick
  refine ⟨fun x rest h => ⟨?_, fun hwrite => ?_, fun hread => ?_, exec_hostXferTimeout_of_oldest h⟩, fun l hl hopen => ?_,
    fun entries hlist hmode hopen hnow hnew hroom => ?_, fun p rest h => ?_⟩
  · exact next_settle (State.hostXferDone_of_oldest h false data)
  · exact next_settle ((State.hostXferDone_of_oldest h true data).trans (if_pos hwrite))
  · exact next_settle ((State.hostXferDone_of_oldest h true data).trans (if_neg (show ¬ x.write = true by rw [hread]; exact Bool.false_ne_true)))
  · have hend := State.endLong_of_long hl hopen
    refine ⟨fun hcmd hphase => ?_, fun hcmd hphase => ?_, fun hcmd hphase hpull => ?_, fun hcmd hphase => ?_, fun hcmd hphase => ?_⟩
    all_goals rw [hcmd, hphase] at hend
    · exact next_settle hend
    · exact next_settle hend
    · exact next_settle (hend.trans (if_neg (by rw [hpull]; exact Bool.false_ne_true)))
    · exact next_settle hend
    · exact next_settle hend
  · obtain ⟨u, hu⟩ : ∃ u, s.writeLocal (windowBase d + 0x100010000 + tick.toNat % 2 * 0x400000) 0 (s.bodyBundles d entries).flatten = u :=
      ⟨_, rfl⟩
    have hjob : u.job = s.job := hu ▸ s.writeLocal_same _ _ _ .job (by decide)
    refine ⟨_, next_settle (State.buildBody_of_due hlist hmode hopen hnow hnew hroom hu), ?_, ?_⟩
    · rw [State.setJob_job, hjob]
    · rw [State.setJob_sram, hu]
  · refine ⟨_, _, rfl, rfl, ?_⟩
    have hrun : exec .outputPublicationDone s = .next s.endPublication.settle := rfl
    rw [hrun, State.endPublication, h]
    refine next_settle (if_congr ?_ rfl rfl)
    rw [Bool.and_eq_true, decide_eq_true_iff, decide_eq_true_iff]
    exact Iff.rfl

end Sys2Proof.Machine

/-! PROOFS. Upkeep of stacked SRAM, HBM and flash (R312 to R315, R327, R333 to R335, R341 to R347). -/

namespace Sys2Proof.Machine

/-! ### What is found in a memory, and temperatures -/

theorem exec_scrubRead_eq (s : State) (loc : MemLoc) (addr : Nat) (find : EccFind) :
    exec (.scrubRead loc addr find) s = .next (s.foundError loc addr find).settle := rfl

theorem State.foundError_of_fence {s : State} {loc : MemLoc} (htransit : s.power.transit = false) (hloc : ∀ j, loc ≠ .hbm j) (addr : Nat) :
    s.foundError loc addr .uncorrectable = s.fenceFunc (errorTarget loc addr).1
      { kind := 6, unit := errorUnit loc, check := (errorTarget loc addr).2.1, die := (errorTarget loc addr).2.2
        detail := leBytes 8 addr } := by
  unfold State.foundError
  dsimp only
  rw [if_neg (by rw [htransit]; exact Bool.false_ne_true)]
  split
  · next j => exact absurd rfl (hloc j)
  · rfl

theorem State.foundError_of_hbm {s : State} (htransit : s.power.transit = false) (k : Fin 8) (addr : Nat) :
    s.foundError (.hbm k) addr .uncorrectable = s.hbmLost k addr :=
  if_neg (show ¬ s.power.transit = true by rw [htransit]; exact Bool.false_ne_true)

theorem State.stack_setStack_same (s : State) (k : Nat) (v : Stack) : (s.setStack k v).stack k = v := Tab.get_put_same _ _ _ _

theorem State.stack_setStack_other (s : State) {k j : Nat} (v : Stack) (h : j ≠ k) : (s.setStack k v).stack j = s.stack j :=
  Tab.get_put_other _ _ _ _ _ h

theorem exec_hbmTempRead_of_cool {s : State} {k : Fin 8} {temp : BitVec 8} (h : temp.toNat < 105) :
    exec (.hbmTempRead k temp) s = .next (s.readTemp k temp).settle := next_settle (if_neg (Nat.not_le.2 h))

/-! ### Pages that flash reads -/

theorem State.page_setPage_same (s : State) (p : Nat) (v : Page) : (s.setPage p v).page p = v := Tab.get_put_same _ _ _ _

/-- What work on flash may change. -/
def flashFields : List Field := [.und, .parts, .ctr, .free]

theorem State.eraseFlash_same (s : State) (c b : Nat) : sameBut flashFields s (s.eraseFlash c b) := by
  have hset (u : State) (v : Channel) : sameBut flashFields u (u.setChannel c v) := (u.setChannel_same c v).weaken (by decide)
  unfold State.eraseFlash
  dsimp only
  split
  · exact ((hset _ _).trans ((State.count_same _ _ _).weaken (by decide))).trans ((State.spend_same _).weaken (by decide))
  · exact (hset _ _).trans ((State.spend_same _).weaken (by decide))

theorem State.reprogram_same (s : State) (key : Nat) (bs : List Byte) : sameBut flashFields s ((s.programPage key bs).getD s) := by
  cases h : s.programPage key bs with
  | none => exact sameBut.refl _ _
  | some t => exact State.programPage_same h

theorem State.relocate_same (s : State) (c b : Nat) (retire : Bool) : sameBut flashFields s (s.relocate c b retire) := by
  have hmoved (u : State) (l : List (Nat × Nat)) :
      sameBut flashFields u (l.foldl (fun (s : State) p => (s.programPage p.2 (Tab.get [] p.2 s.und.content)).getD s) u) :=
    sameBut.fold (fun v _ => v.reprogram_same _ _) l u
  unfold State.relocate
  exact sameBut.after (State.checkReadOnly_same _) (by decide) (sameBut.trans
    (((s.setChannel_same _ _).weaken (by decide)).trans ((hmoved _ _).trans ((State.count_same _ _ _).weaken (by decide))))
    (sameBut.ite (sameBut.refl _ _) (State.eraseFlash_same _ _ _)))

theorem State.readFlash_same (s : State) (key : Nat) : sameBut flashFields s (s.readFlash key) := by
  unfold State.readFlash
  split
  · exact sameBut.refl _ _
  · exact sameBut.ite (((s.setChannel_same _ _).weaken (by decide)).trans (State.relocate_same _ _ _ _))
      ((s.setChannel_same _ _).weaken (by decide))

theorem State.loseFlash_same (s : State) (key : Nat) : sameBut flashFields s (s.loseFlash key) := by
  have hlost (v : Understory) (n : Nat) : sameBut flashFields s ((((s.unmapPage key).setUnd v).journalMap key).count n 1) :=
    ((((s.unmapPage_same key).weaken (by decide)).trans ((State.setUnd_same _ _).weaken (by decide))).trans
      ((State.journalMap_same _ _).weaken (by decide))).trans ((State.count_same _ _ _).weaken (by decide))
  unfold State.loseFlash
  dsimp only
  split
  · exact hlost _ _
  · exact (hlost _ _).trans (State.relocate_same _ _ _ _)

/-- The Canopy's pages and their states. -/
def State.pageTable (s : State) : Tab Page := s.und.pages

theorem State.pageTable_of_same {s t : State} {fs : List Field} (h : sameBut fs s t) (hund : Field.und ∉ fs) : t.pageTable = s.pageTable :=
  congrArg Understory.pages (h .und hund)

theorem State.count_pageTable (s : State) (key k : Nat) : (s.count key k).pageTable = s.pageTable :=
  State.pageTable_of_same (s.count_same key k) (by decide)

theorem State.unmapPage_pageTable (s : State) (key : Nat) : (s.unmapPage key).pageTable = s.pageTable := by
  unfold State.unmapPage
  dsimp only
  split <;> rfl

theorem State.journalMap_pageTable (s : State) (key : Nat) : (s.journalMap key).pageTable = s.pageTable := by
  unfold State.journalMap
  exact (State.pageTable_of_same (State.touchWrite_same _ _ _ _) (by decide)).trans rfl

theorem State.programPage_pageTable {s t : State} {key : Nat} {bs : List Byte} (h : s.programPage key bs = some t) :
    t.pageTable = s.pageTable := by
  unfold State.programPage at h
  dsimp only at h
  split at h
  · cases h
  · obtain rfl := Option.some.inj h
    exact (State.journalMap_pageTable _ _).trans (s.unmapPage_pageTable key)

theorem State.checkReadOnly_pageTable (s : State) : s.checkReadOnly.pageTable = s.pageTable := by
  unfold State.checkReadOnly
  split <;> rfl

theorem State.eraseFlash_pageTable (s : State) (c b : Nat) : (s.eraseFlash c b).pageTable = s.pageTable := by
  unfold State.eraseFlash
  dsimp only
  split
  · exact State.count_pageTable (s.setChannel c _) _ _
  · rfl

/-- Blocks are moved and erased without a change of any page's state. -/
theorem State.relocate_pageTable (s : State) (c b : Nat) (retire : Bool) : (s.relocate c b retire).pageTable = s.pageTable := by
  have hstep (u : State) (p : Nat × Nat) : ((u.programPage p.2 (Tab.get [] p.2 u.und.content)).getD u).pageTable = u.pageTable := by
    cases h : u.programPage p.2 (Tab.get [] p.2 u.und.content) with
    | none => rfl
    | some t => exact State.programPage_pageTable h
  have herase (u : State) (k : Bool) : (if k then u else u.eraseFlash c b).pageTable = u.pageTable := by
    split
    · rfl
    · exact u.eraseFlash_pageTable c b
  unfold State.relocate
  dsimp only
  rw [State.checkReadOnly_pageTable, herase, State.count_pageTable, foldl_keeps State.pageTable hstep]
  rfl

theorem State.loseFlash_pageTable (s : State) (key : Nat) : (s.loseFlash key).pageTable = s.pageTable := by
  have hlost (v : Understory) (n : Nat) (hv : v.pages = (s.unmapPage key).und.pages) :
      ((((s.unmapPage key).setUnd v).journalMap key).count n 1).pageTable = s.pageTable := by
    rw [State.count_pageTable, State.journalMap_pageTable, ← s.unmapPage_pageTable key]
    exact hv
  unfold State.loseFlash
  dsimp only
  split
  · exact hlost _ _ rfl
  · rw [State.relocate_pageTable]
    exact hlost _ _ rfl

section
variable {s : State} {page f key : Nat} (hstaging : (s.page page).state = .staging) (hframe : (s.page page).frame = some f)
  (hkey : s.pageKey page = some key)
include hstaging hframe hkey

/-- R327: zeros that are staged are the page's bytes. -/
theorem State.stageDone_of_fill (hfill : (s.page page).fill = true) (r : FlashRead) : s.stageDone page r =
    (s.writeHbm f 0 (List.replicate pageSize 0)).setPage page { s.page page with
      state := .clean, used := (s.writeHbm f 0 (List.replicate pageSize 0)).und.order, fill := false
      fresh := some (s.writeHbm f 0 (List.replicate pageSize 0)).cc } := by
  unfold State.stageDone
  simp only [hstaging, hframe, hkey, hfill, if_true]

/-- R343: a page that flash has read, and whose record fits. -/
theorem State.stageDone_of_good (hfill : (s.page page).fill = false) (hfits : s.recordFits key = true) : ∃ v : Page,
    v.state = .clean ∧ v.frame = some f ∧ s.stageDone page .good =
      ((((s.readFlash key).writeHbm f 0 (byteField (Tab.get [] key (s.readFlash key).und.content) 0 pageSize)).setPage page v).count
        (cStaged (s.pageChannel page)) 1) := by
  unfold State.stageDone
  simp only [hstaging, hframe, hkey, hfill, hfits, Bool.not_true, Bool.false_eq_true, if_false]
  exact ⟨_, rfl, rfl, rfl⟩

/-- R342: a page whose read has failed. -/
theorem State.stageDone_of_failed (hfill : (s.page page).fill = false) (n : Nat) : ∃ v : Page, v.state = .lost ∧ v.frame = none ∧
    s.stageDone page (.failed n) =
      (((((s.count (cUndRetry (s.pageChannel page)) n).setPage page v).freeFrame
        ((s.count (cUndRetry (s.pageChannel page)) n).pageAccount page) f).count cStageFail 1).loseFlash key) := by
  unfold State.stageDone
  simp only [hstaging, hframe, hkey, hfill, Bool.false_eq_true, if_true, if_false]
  exact ⟨_, rfl, rfl, rfl⟩

end

theorem State.page_of_pageTable {s t : State} (h : t.pageTable = s.pageTable) (p : Nat) : t.page p = s.page p := by
  unfold State.page
  exact congrArg (Tab.get {} p) h

theorem State.writeHbm_hbm (s : State) (h hint : Nat) (bs : List Byte) : (s.writeHbm h hint bs).hbm = putBlock zeroByte h bs s.hbm :=
  congrArg (putBlock zeroByte h bs) (s.touchWrite_same h hint bs .hbm (by decide) :)

section
variable {s : State} {page : Nat} {r : FlashRead}

theorem exec_stageComplete_eq (h : s.channelWorks (s.pageChannel page) = true ∨ (s.page page).fill = true) :
    exec (.stageComplete page r) s = .next (((s.stageDone page r).setUnd
      { (s.stageDone page r).und with order := (s.stageDone page r).und.order + 1 }).serveTier).settle := by
  refine next_settle (if_neg ?_)
  rcases h with h | h
  · simp [h]
  · simp [h]

end

/-! ### Settled -/

theorem channelWorks_goes {s : State} {c : Nat} (h : s.channelWorks c = true) : ¬ (!s.channelWorks c) = true := by simp [h]

/-- R346: a channel that trains again, at the time that it is due. -/
def State.retrained (s : State) (c : Nat) : State :=
  let u := s.reach ((s.channel c).lastTrain + 120000000)
  u.setChannel c { s.channel c with lastTrain := u.cc }

/-- R349: the map's copy, at the time that it is due. -/
def State.mapCopied (s : State) : State :=
  let u := if s.und.journal ≥ 2 ^ 20 then s else s.reach (s.und.lastCopy + 60 * 1200000000)
  u.setUnd { u.und with
    journal := 0, journalLog := [], lastCopy := u.cc
    mapCopy := u.und.lost.foldl (fun (m : Tab Nat) k => Tab.put k lostEntry m) u.und.map }

theorem State.mapCopied_same (s : State) : sameBut [.clk, .und] s s.mapCopied := by
  unfold State.mapCopied
  exact sameBut.after (State.setUnd_same _ _) (by decide) (sameBut.ite (sameBut.refl _ s) ((s.reach_same _).weaken (by decide)))

theorem State.mapCopied_cc {s : State} (h : s.und.journal < 2 ^ 20) :
    s.mapCopied.cc = max s.cc (s.und.lastCopy + 60 * 1200000000) := by
  unfold State.mapCopied
  rw [if_neg (Nat.not_le.2 h)]
  rfl

/-- Settles O56: a page that is staged by `stageDone_of_good`, `stageDone_of_failed` and `stageDone_of_fill`. -/
theorem storageIsKept : Obligations.StorageIsKept := by
  intro s loc addr k temp c page r
  refine ⟨rfl, rfl, fun htransit => ⟨fun hloc => ?_, ?_⟩, fun hcool => ⟨_, exec_hbmTempRead_of_cool hcool, ?_⟩,
    fun f key hworks hstaging hframe hkey hfill => ⟨fun hr hfits => ?_, fun n hr => ?_⟩, fun f key hstaging hframe hkey hfill =>
      ⟨_, exec_stageComplete_eq (.inr hfill), ?_⟩, fun hworks => ⟨?_, ?_⟩, fun hsome hready => next_settle (if_neg (by simp [hsome, hready])),
    fun hopen => ⟨s.mapCopied, next_settle (if_neg (by rw [hopen]; exact Bool.false_ne_true)), rfl, rfl, State.mapCopied_cc,
      s.mapCopied_same⟩, fun hworks => ⟨⟨s.retrained c, next_settle (if_neg (channelWorks_goes hworks)), ?_, rfl, fun j hj => ?_, ?_⟩,
      next_settle (if_pos hworks), next_settle (if_pos hworks)⟩⟩
  · rw [exec_scrubRead_eq, State.foundError_of_fence htransit hloc]
  · rw [exec_scrubRead_eq, State.foundError_of_hbm htransit]
  · unfold State.readTemp
    refine ⟨?_, ?_, fun j hj => s.stack_setStack_other _ hj, s.setStack_same _ _⟩
    · rw [State.stack_setStack_same]
    · rw [State.stack_setStack_same]
  · subst hr
    obtain ⟨v, hclean, hsame, hdone⟩ := State.stageDone_of_good hstaging hframe hkey hfill hfits
    have hpage : (s.stageDone page .good).page page = v := by
      rw [hdone, State.page_of_pageTable (State.count_pageTable _ _ _), State.page_setPage_same]
    refine ⟨_, _, exec_stageComplete_eq (.inl hworks), rfl, by rw [hpage, hclean], by rw [hpage, hsame], ?_⟩
    rw [hdone]
    exact ((State.count_same _ _ _ .hbm (by decide)).trans (State.setPage_same _ _ _ .hbm (by decide))).trans (State.writeHbm_hbm _ _ _ _)
  · subst hr
    obtain ⟨v, hlost, hnone, hdone⟩ := State.stageDone_of_failed hstaging hframe hkey hfill n
    have hpage : (s.stageDone page (.failed n)).page page = v := by
      rw [hdone, State.page_of_pageTable (State.loseFlash_pageTable _ _), State.page_of_pageTable (State.count_pageTable _ _ _)]
      exact State.page_setPage_same _ _ _
    refine ⟨_, exec_stageComplete_eq (.inl hworks), ?_, by rw [hpage, hlost], by rw [hpage, hnone]⟩
    rw [hdone]
    refine (State.loseFlash_same _ _ .hbm (by decide)).trans ((State.count_same _ _ _ .hbm (by decide)).trans ?_)
    exact (State.freeFrame_same _ _ _ .hbm (by decide)).trans ((State.setPage_same _ _ _ .hbm (by decide)).trans
      (State.count_same _ _ _ .hbm (by decide)))
  · rw [State.stageDone_of_fill hstaging hframe hkey hfill]
    refine ⟨?_, ?_, (State.setPage_same _ _ _ .hbm (by decide)).trans (State.writeHbm_hbm _ _ _ _)⟩
    · rw [State.page_setPage_same]
    · rw [State.page_setPage_same]
      exact hframe
  · exact next_settle ((if_neg (channelWorks_goes hworks)).trans (if_pos rfl))
  · exact next_settle ((if_neg (channelWorks_goes hworks)).trans (if_neg Bool.false_ne_true))
  · show (Tab.get {} c.val (Tab.put c.val _ s.und.channels) : Channel).lastTrain = _
    rw [Tab.get_put_same]
    rfl
  · exact Tab.get_put_other _ _ _ _ _ hj
  · exact ((s.reach_same _).weaken (by decide)).trans ((State.setChannel_same _ _ _).weaken (by decide))

end Sys2Proof.Machine

/-! PROOFS. Power states, Drydown, heat and the references (R33 to R35, R39, R530 to R543, R585, R587). -/

namespace Sys2Proof.Machine

/-! ### The largest of a list -/

theorem foldl_max_mem (l : List Nat) (a : Nat) : l.foldl max a = a ∨ l.foldl max a ∈ l := by
  induction l generalizing a with
  | nil => exact .inl rfl
  | cons b l ih =>
    rw [List.foldl_cons]
    rcases ih (max a b) with h | h
    · rcases Nat.le_total a b with hab | hab
      · exact .inr (by rw [h, Nat.max_eq_right hab]; exact List.mem_cons_self)
      · exact .inl (by rw [h, Nat.max_eq_left hab])
    · exact .inr (List.mem_cons_of_mem _ h)

/-- A bound of what a maximum starts with and of its items is one of the maximum. -/
theorem foldl_max_lt {α : Type} {f : α → Nat} {l : List α} {n a : Nat} (ha : a < n) (hl : ∀ x ∈ l, f x < n) :
    l.foldl (fun m x => max m (f x)) a < n :=
  List.foldlRecOn (motive := (· < n)) l _ ha fun _ hm x hx => Nat.max_lt.2 ⟨hm, hl x hx⟩

/-! ### Power states -/

theorem State.choose_spec {s : State} {p : Part} {gap : Nat} (h : 0 < s.choose p gap) :
    s.choose p gap ≤ deepest p ∧ s.choose p gap ≤ s.depthCap (stateDie (partKeyOf p)) ∧ wakeCycles (s.choose p gap) ≤ gap ∧
      (1 < s.choose p gap → breakEven (s.choose p gap) < gap) := by
  have hmem : s.choose p gap ∈ ((List.range (deepest p)).map (· + 1)).filter (fun t =>
      t ≤ s.depthCap (stateDie (partKeyOf p)) && gap ≥ wakeCycles t && (t = 1 || gap > breakEven t) && s.partsAllow p t) := by
    rcases foldl_max_mem (((List.range (deepest p)).map (· + 1)).filter (fun t =>
      t ≤ s.depthCap (stateDie (partKeyOf p)) && gap ≥ wakeCycles t && (t = 1 || gap > breakEven t) && s.partsAllow p t)) 0 with h0 | hm
    · exact absurd h0 (Nat.ne_of_gt h)
    · exact hm
  generalize s.choose p gap = t at h hmem ⊢
  obtain ⟨hrange, hok⟩ := List.mem_filter.1 hmem
  simp only [List.mem_map, List.mem_range, Bool.and_eq_true, Bool.or_eq_true, decide_eq_true_eq] at hrange hok
  obtain ⟨m, hm, rfl⟩ := hrange
  obtain ⟨⟨⟨hcap, hwake⟩, hgain⟩, -⟩ := hok
  refine ⟨by omega, hcap, hwake, fun h1 => hgain.resolve_left (by omega)⟩

theorem State.countState_same (s : State) (key t since now : Nat) : sameBut [.ctr] s (s.countState key t since now) := s.count_same _ _

/-- R530: the part's state once it is entered. -/
theorem State.enterState_of_deeper {s : State} {p : Part} {k : Nat} (hidle : s.partIdle p = true) (hawake : s.partState (partKeyOf p) < 2)
    (hdeeper : s.partState (partKeyOf p) < s.choose p (s.nextEvent p k - s.cc)) : ∃ u : State, sameBut [.ctr] s u ∧
      sameBut [.hbmStacks] (u.putState (partKeyOf p) (s.choose p (s.nextEvent p k - s.cc)) (s.nextEvent p k)) (s.enterState p k) := by
  have hgoes : ¬ (!s.partIdle p || decide (s.partState (partKeyOf p) ≥ 2) ||
      decide (s.choose p (s.nextEvent p k - s.cc) ≤ s.partState (partKeyOf p))) = true := by
    simp [hidle]; omega
  refine ⟨_, sameBut.ite (c := s.partState (partKeyOf p) = 0) (sameBut.refl _ s) (s.countState_same (partKeyOf p)
    (s.partState (partKeyOf p)) ((Tab.get (0, 0) (partKeyOf p) s.power.states).2) s.cc), ?_⟩
  unfold State.enterState
  dsimp only
  rw [if_neg hgoes]
  cases p with
  | die d => exact sameBut.ite (State.refreshAlone_same _ _ _) (sameBut.refl _ _)
  | _ => exact sameBut.refl _ _

theorem State.enterState_of_busy {s : State} {p : Part} (h : s.partIdle p = false) (k : Nat) : s.enterState p k = s :=
  if_pos (by simp [h])

theorem State.wakeKey_of_state {s : State} {key t since : Nat} (h : Tab.find key s.power.states = some (t, since)) :
    (s.wakeKey key).power.states = Tab.drop key s.power.states ∧ (s.wakeKey key).readyAt key = s.wakeStart key + wakeCycles t ∧
      (s.wakeKey key).cc = s.cc := by
  have hcount : (s.countState key t since (s.wakeStart key)).power = s.power := State.countState_same _ _ _ _ _ .power (by decide)
  have hclk : (s.countState key t since (s.wakeStart key)).clk = s.clk := State.countState_same _ _ _ _ _ .clk (by decide)
  unfold State.wakeKey
  rw [h]
  dsimp only
  rw [hcount]
  refine ⟨rfl, ?_, congrArg Clock.cc hclk⟩
  rw [State.readyAt]
  exact Tab.get_put_same _ _ _ _

theorem stateKey_kind {kind i : Nat} (h : i < 2 ^ 16) : stateKey kind i / 2 ^ 16 = kind ∧ stateKey kind i % 2 ^ 16 = i := by
  unfold stateKey
  omega

/-- A cluster whose region is awake wakes alone. -/
theorem State.wakePart_cluster {s : State} (n : Fin 64) (h : s.partState (stateKey 2 (n / 4)) < 3) :
    s.wakePart (.cluster n) = s.wakeKey (stateKey 1 n) := by
  obtain ⟨hkind, hindex⟩ := stateKey_kind (kind := 1) (i := n) (by omega)
  have hup : s.wakeUp (stateKey 1 n) = s.wakeCluster n := by
    unfold State.wakeUp
    simp only [hkind, hindex]
  exact hup.trans (congrArg (fun u : State => u.wakeKey (stateKey 1 n)) (if_neg (Nat.not_le.2 h)))

theorem State.partState_of_two {s : State} {key : Nat} (h : s.partState key = 2) :
    ∃ since, Tab.find key s.power.states = some (2, since) := by
  unfold State.partState at h
  cases hfind : Tab.find key s.power.states with
  | none => rw [hfind] at h; exact absurd h (by decide)
  | some v =>
    rw [hfind] at h
    exact ⟨v.2, by rw [show v = (2, v.2) from Prod.ext h rfl]⟩

/-- R533: a sleeping cluster that is accessed wakes up; the wake is counted. -/
theorem State.accessWakes_cluster {s : State} (n : Fin 64) (hstate : s.partState (stateKey 1 n) = 2)
    (hregion : s.partState (stateKey 2 (n / 4)) < 3) (hplanned : Tab.find (stateKey 1 n) s.power.wakeAt = none) :
    s.accessWakes (.cluster n) = (s.wakePart (.cluster n)).count (cRegionWake (n / 4)) 1 ∧
      (s.wakePart (.cluster n)).readyAt (stateKey 1 n) = s.cc + 1800 := by
  obtain ⟨hkind, hindex⟩ := stateKey_kind (kind := 1) (i := n) (by omega)
  obtain ⟨since, hfind⟩ := State.partState_of_two hstate
  obtain ⟨-, hready, hcc⟩ := State.wakeKey_of_state hfind
  have hstart : s.wakeStart (stateKey 1 n) = s.cc := by simp [State.wakeStart, hplanned]
  have hwake := State.wakePart_cluster n hregion
  have hend : (s.wakeKey (stateKey 1 n)).readyAt (stateKey 1 n) ≤ (s.wakeKey (stateKey 1 n)).wakeEnd (stateKey 1 n) := by
    unfold State.wakeEnd
    simp only [hkind, hindex]
    exact Nat.le_max_left _ _
  rw [hwake, hready, hstart]
  rw [hready, hstart] at hend
  refine ⟨?_, rfl⟩
  have hcounted : wakeCounter (stateKey 1 n) = cRegionWake (n / 4) := by
    unfold wakeCounter
    simp only [hkind, hindex]
  have hsleep : sleepState (stateKey 1 n) = 2 := by
    unfold sleepState
    simp only [hkind]
  have hasleep : s.asleep (stateKey 1 n) = true := decide_eq_true (by rw [hstate, hsleep])
  have hup : s.wakeUp (stateKey 1 n) = s.wakeKey (stateKey 1 n) := hwake
  show s.accessKey (stateKey 1 n) = _
  unfold State.accessKey
  rw [if_pos hasleep, hup]
  dsimp only
  rw [hcounted, if_pos]
  rw [hcc]
  exact Nat.lt_of_lt_of_le (Nat.lt_add_of_pos_right (by decide)) hend

/-! ### Drydown -/

theorem State.countHolds_same (s : State) : sameBut [.seqs, .ctr] s s.countHolds := sameBut.fold (fun u _ => u.countHeld_same _ _) _ s

theorem State.powerEvent_same (s : State) (b : Bool) : sameBut [.host, .tx] s (s.powerEvent b) :=
  sameBut.ite (s.raise_same 37) (sameBut.refl _ s)

theorem State.target_le (s : State) : s.target ≤ s.power.capW.toNat * 1000 := Nat.min_le_left _ _

/-- R540: what the device holds follows its target by at most the ramp. -/
theorem State.nextHeld_near (s : State) (target downFrom : Nat) : s.nextHeld target downFrom ≤ s.power.heldMw + s.power.ramp.toNat * 10 ∧
    s.power.heldMw ≤ s.nextHeld target downFrom + s.power.ramp.toNat * 10 := by
  have hdown (b : Bool) (n : Nat) : (if b then min (s.power.ramp.toNat * 10) n else s.power.ramp.toNat * 10) ≤ s.power.ramp.toNat * 10 := by
    split
    · exact Nat.min_le_left _ _
    · exact Nat.le_refl _
  have hstep := hdown (s.endRamp target) (max 1 ((downFrom - target) / (max 1 s.power.downMs.toNat * 100)))
  unfold State.nextHeld
  dsimp only
  split
  · omega
  · omega

/-- The samples of a step are taken in. -/
def State.sampled (s : State) : State :=
  let input := (([0, 1, 2, 3] : List Nat).map s.dieAverage).sum
  s.setPower { s.power with samples := [], window := (input :: s.power.window).take 10, tickPeak := max s.power.tickPeak (input - s.power.ballastMw) }

/-- R540: the step of Drydown, by what it sets. -/
theorem State.drydown_of_power {s : State} (h : s.power.transit = false) : ∃ (v : Power) (u : State) (downFrom : Nat) (b : Bool),
    s.drydown = (u.setPower v).powerEvent b ∧ sameBut [.power, .seqs, .ctr, .free] s u ∧ v.steps = s.power.steps + 1 ∧
    v.targetMw = s.sampled.target ∧ v.heldMw = s.sampled.nextHeld s.sampled.target downFrom := by
  unfold State.drydown
  rw [if_neg (by rw [h]; exact Bool.false_ne_true)]
  refine ⟨_, _, _, _, rfl, ?_, rfl, rfl, rfl⟩
  exact sameBut.ite
    (sameBut.after (State.spend_same _) (by decide) (sameBut.after (State.countHolds_same _) (by decide) ((s.setPower_same _).weaken (by decide))))
    (sameBut.after (State.countHolds_same _) (by decide) ((s.setPower_same _).weaken (by decide)))

/-! ### Heat -/

/-- R543: the temperatures of a reading, as the PMU's registers take them. -/
def State.heatRead (s : State) (tj : List (BitVec 8)) (hbmMax : BitVec 8) : State :=
  s.setPower { s.power with tj := tj, hbmMax := hbmMax, tripped := 0 }

/-- R543: no sensor is past a limit: freeze duty alone is adjusted. -/
theorem State.readSensors_of_cool {s : State} {js hs : List (BitVec 8)} (htrip : s.power.tripping = false) (hlen : js.length = 32)
    (hjs : ∀ j ∈ js, j.toNat < s.power.trip.toNat ∧ j.toNat < 125) (hhs : ∀ h ∈ hs, h.toNat < 105) :
    ∃ tj hbmMax hottest, s.readSensors js hs = (s.heatRead tj hbmMax).adjustDuty hottest := by
  have hpos : 0 < s.power.trip.toNat := by
    obtain ⟨j, hj⟩ := List.exists_mem_of_length_pos (l := js) (by omega)
    exact Nat.lt_of_le_of_lt (Nat.zero_le _) (hjs j hj).1
  have hj (d n : Nat) (hn : 0 < n) (hall : ∀ j ∈ js, j.toNat < n) : ((js.drop (8 * d)).take 8).foldl (fun m t => max m t.toNat) 0 < n :=
    foldl_max_lt hn fun t ht => hall t (List.mem_of_mem_drop (List.mem_of_mem_take ht))
  have hh (d : Nat) : ((hs.drop (2 * d)).take 2).foldl (fun m t => max m t.toNat) 0 < 105 :=
    foldl_max_lt (by decide) fun t ht => hhs t (List.mem_of_mem_drop (List.mem_of_mem_take ht))
  have hpast (d : Nat) : (decide (((js.drop (8 * d)).take 8).foldl (fun m t => max m t.toNat) 0 ≥ s.power.trip.toNat) ||
      decide (((hs.drop (2 * d)).take 2).foldl (fun m t => max m t.toNat) 0 ≥ 105)) = false := by
    rw [Bool.or_eq_false_iff, decide_eq_false_iff_not, decide_eq_false_iff_not]
    exact ⟨Nat.not_le.2 (hj d _ hpos fun j h => (hjs j h).1), Nat.not_le.2 (hh d)⟩
  have hhot : ¬ (([0, 1, 2, 3] : List Nat).map (fun d => ((js.drop (8 * d)).take 8).foldl (fun m t => max m t.toNat) 0)).foldl max 0 ≥ 125 := by
    refine Nat.not_le.2 (foldl_max_lt (f := fun x => x) (by decide) fun x hx => ?_)
    obtain ⟨d, -, rfl⟩ := List.mem_map.1 hx
    exact hj d _ (by decide) fun j h => (hjs j h).2
  unfold State.readSensors
  simp only [hpast, if_neg hhot]
  have hnone : ¬ (([0, 1, 2, 3] : List Nat).any fun _ => false) = true := by decide
  exact ⟨_, _, _, (if_neg hnone).trans ((if_neg (by show ¬ s.power.tripping = true; rw [htrip]; exact Bool.false_ne_true)).trans rfl)⟩

/-- R543: freeze duty follows the heat, up to 48 or to what it was. -/
theorem State.adjustDuty_spec (s : State) (hottest : Nat) : (s.adjustDuty hottest).power.tripping = s.power.tripping ∧
    (s.adjustDuty hottest).power.thermTrip = s.power.thermTrip ∧ (s.adjustDuty hottest).power.tripped = s.power.tripped ∧
    (s.adjustDuty hottest).power.thermalDuty ≤ max s.power.thermalDuty 48 ∧ sameBut [.power, .seqs, .ctr] s (s.adjustDuty hottest) := by
  have hpower : s.countHolds.power = s.power := s.countHolds_same .power (by decide)
  refine ⟨(congrArg Power.tripping hpower :), (congrArg Power.thermTrip hpower :), (congrArg Power.tripped hpower :), ?_,
    sameBut.after (State.setPower_same _ _) (by decide) (s.countHolds_same.weaken (by decide))⟩
  unfold State.adjustDuty
  simp only [hpower, State.setPower]
  split
  · omega
  · split
    · omega
    · omega

/-- R543: a sensor past its limit freezes the device. -/
theorem State.startTrip_power {s : State} (h : s.power.tripping = false) : s.startTrip.power.boardHot = s.power.boardHot ∧
    s.startTrip.power.tripping = true := by
  have hpower : s.countHolds.power = s.power := s.countHolds_same .power (by decide)
  unfold State.startTrip
  rw [if_neg (by rw [h]; exact Bool.false_ne_true)]
  dsimp only
  have htold (u : State) : (u.tripEvent.raise 37).power = u.power := (State.raise_same _ _ .power (by decide)).trans (State.send_same _ _ .power (by decide))
  exact ⟨(congrArg Power.boardHot (htold _)).trans (congrArg Power.boardHot hpower :), congrArg Power.tripping (htold _)⟩

theorem State.startTrip_of_tripping {s : State} (h : s.power.tripping = true) : s.startTrip = s := if_pos h

theorem State.startTrip_tripping (s : State) : s.startTrip.power.boardHot = s.power.boardHot ∧ s.startTrip.power.tripping = true := by
  cases h : s.power.tripping with
  | false => exact State.startTrip_power h
  | true =>
    rw [State.startTrip_of_tripping h]
    exact ⟨rfl, h⟩

/-! ### The loss of die 0's domain and of the references -/

/-- What is fenced stays so, and each function of the list is fenced. -/
theorem foldl_fence_set {l : List Nat} {m : BitVec 116} {f : Nat} (hf : f < 116) (h : f ∈ l ∨ m.getLsbD f = true) :
    (l.foldl (fun m f => m ||| BitVec.twoPow 116 f) m).getLsbD f = true := by
  induction l generalizing m with
  | nil => exact h.resolve_left (by simp)
  | cons g l ih =>
    refine ih ?_
    rcases h with hmem | hm
    · rcases List.mem_cons.1 hmem with rfl | hl
      · exact .inr (by simp [hf])
      · exact .inl hl
    · exact .inr (by simp [hm])

/-- R39, R492: what die 0's domain takes with it. -/
theorem State.loseDie0_spec {s : State} (h : s.power.transit = false) : s.loseDie0.power.transit = true ∧
    s.loseDie0.fab.up.getLsbD 6 = false ∧ s.loseDie0.fab.up.getLsbD 7 = false ∧ s.loseDie0.tick.run = false ∧
    (∀ f ∈ lostWithDie0, s.loseDie0.fenced f = true) ∧ (s.job.state ≠ .none → s.loseDie0.job.state = .held) := by
  have hup (b : BitVec 8) (p : Nat) (hp : (0x3F#8).getLsbD p = false) : (b &&& 0x3F#8).getLsbD p = false := by
    rw [BitVec.getLsbD_and, hp, Bool.and_false]
  have hjob (l : List Nat) : (l.foldl (fun (u : State) p => u.count (cPort p 4) (b2n (u.fab.up.getLsbD p))) s.abandon).job = s.job :=
    (sameBut.fold (fun (u : State) p => u.count_same (cPort p 4) (b2n (u.fab.up.getLsbD p))) l s.abandon .job (by decide)).trans
      (s.abandon_same .job (by decide))
  have hfunc : ∀ f ∈ lostWithDie0, f < 116 := by decide
  unfold State.loseDie0
  rw [if_neg (by rw [h]; exact Bool.false_ne_true)]
  refine ⟨rfl, hup _ 6 rfl, hup _ 7 rfl, rfl, fun f hf => foldl_fence_set (hfunc f hf) (.inl hf), fun hstate => ?_⟩
  refine if_neg ?_
  simp only [State.setTick_job, State.setPower_job, State.setFab_job]
  rw [hjob]
  exact hstate

/-- The link of a port goes down, if it is up, for the reference of its die. -/
def State.unclock (s : State) (p : Nat) : State := if s.fab.up.getLsbD p then s.linkDown p 6 else s

theorem State.unclock_up (s : State) (p q : Nat) : (s.unclock p).fab.up.getLsbD q = (s.fab.up.getLsbD q && decide (p ≠ q)) := by
  unfold State.unclock
  split
  · next hup =>
    rw [State.linkDown_up hup, BitVec.getLsbD_and, BitVec.getLsbD_not, BitVec.getLsbD_twoPow]
    by_cases hq : q < 8
    · by_cases hpq : p = q
      · simp [hpq, hq]
      · simp [hpq, hq]
    · simp [BitVec.getLsbD_of_ge s.fab.up q (by omega)]
  · next hdown =>
    by_cases hpq : p = q
    · simp [← hpq, hdown]
    · simp [hpq]

theorem State.unclock_power (s : State) (p : Nat) : (s.unclock p).power = s.power :=
  sameBut.ite (c := s.fab.up.getLsbD p = true) (s.linkDown_same p 6) (sameBut.refl _ s) .power (by decide)

theorem unclockAll_up (l : List Nat) (s : State) {q : Nat} (h : q ∈ l ∨ s.fab.up.getLsbD q = false) :
    (l.foldl State.unclock s).fab.up.getLsbD q = false := by
  induction l generalizing s with
  | nil => exact h.resolve_left (by simp)
  | cons p l ih =>
    refine ih _ ?_
    rw [State.unclock_up]
    rcases h with hmem | hs
    · rcases List.mem_cons.1 hmem with rfl | hl
      · exact .inr (by simp)
      · exact .inl hl
    · exact .inr (by simp [hs])

/-- Settles O57, clause by clause from the rules above. -/
theorem powerAndHeatAct : Obligations.PowerAndHeatAct := by
  intro s p k d mw js hs temp
  refine ⟨fun gap t hgap ht => ⟨?choice, ?entry, fun hbusy => next_settle (State.enterState_of_busy hbusy k)⟩, fun n t0 since hfind hregion => ?wake, rfl,
    fun n hstate hregion hplanned => ?access, ?rail, fun htransit => next_settle (if_pos htransit), fun htransit => ?drydown,
    fun hshut htrip hlen hjs hhs => ?thermal, fun htemp hshut => ?compare, ?hot, rfl, fun htransit => ⟨_, rfl, State.loseDie0_spec htransit⟩, rfl,
    fun hlost => ?returned, ?bref⟩
  case choice =>
    intro hpos
    subst hgap
    subst ht
    exact State.choose_spec hpos
  case entry =>
    intro hidle hawake hdeeper
    rw [ht, hgap] at hdeeper ⊢
    obtain ⟨u, hu, hentered⟩ := State.enterState_of_deeper hidle hawake hdeeper
    have hcc : u.cc = s.cc := congrArg Clock.cc (hu .clk (by decide))
    have hpower : (s.enterState p k).power = (u.putState (partKeyOf p) (s.choose p (s.nextEvent p k - s.cc)) (s.nextEvent p k)).power :=
      hentered .power (by decide)
    refine ⟨_, rfl, ?_, ?_, ?_⟩
    · rw [hpower, ← hcc]
      exact Tab.find_put_same _ _ _
    · rw [hpower]
      exact Tab.find_put_same _ _ _
    · exact sameBut.after hentered (by decide) (sameBut.after (State.setPower_same _ _) (by decide) (hu.weaken (by decide)))
  case wake =>
    obtain ⟨hstates, hready, -⟩ := State.wakeKey_of_state hfind
    rw [← State.wakePart_cluster n hregion] at hstates hready
    refine ⟨_, rfl, hstates, hready, ?_⟩
    rw [State.wakePart_cluster n hregion]
    exact s.wakeKey_same _
  case access =>
    obtain ⟨hwakes, hready⟩ := State.accessWakes_cluster n hstate hregion hplanned
    exact ⟨next_settle hwakes, hready⟩
  case rail =>
    refine ⟨_, rfl, rfl, ?_, ?_, State.setPower_same _ _⟩
    · exact (Tab.get_put_other _ _ _ _ _ (by omega)).trans (Tab.get_put_same _ _ _ _)
    · refine (Tab.get_put_same _ _ _ _).trans (congrArg (· + 1) ?_)
      exact Tab.get_put_other _ _ _ _ _ (by omega)
  case drydown =>
    obtain ⟨v, u, downFrom, b, hstep, hu, hsteps, htarget, hheld⟩ := State.drydown_of_power htransit
    have hpower : s.drydown.power = v := by
      rw [hstep]
      exact State.powerEvent_same _ b .power (by decide)
    obtain ⟨hup, hdown⟩ := s.sampled.nextHeld_near s.sampled.target downFrom
    refine ⟨_, rfl, ?_⟩
    rw [hpower, hsteps, htarget, hheld]
    refine ⟨rfl, s.sampled.target_le, hup, hdown, ?_⟩
    rw [hstep]
    exact sameBut.after (State.powerEvent_same _ b) (by decide) (sameBut.after (State.setPower_same _ v) (by decide) (hu.weaken (by decide)))
  case thermal =>
    obtain ⟨tj, hbmMax, hottest, hread⟩ := State.readSensors_of_cool htrip hlen hjs hhs
    obtain ⟨htripping, hthermTrip, htripped, hduty, hsame⟩ := (s.heatRead tj hbmMax).adjustDuty_spec hottest
    refine ⟨_, next_settle hread, htripping.trans htrip, hthermTrip.trans hshut, htripped, hduty, ?_⟩
    exact sameBut.after hsame (by decide) ((s.setPower_same _).weaken (by decide))
  case compare =>
    exact next_settle ((if_pos htemp).trans (if_neg (by rw [hshut]; exact Bool.false_ne_true)))
  case hot => exact ⟨_, rfl, State.startTrip_tripping _⟩
  case returned =>
    refine ⟨_, next_settle (if_pos hlost), congrArg Power.refLost (State.spend_same _ .power (by decide) :), ?_⟩
    exact sameBut.after (State.spend_same _) (by decide) ((s.setPower_same _).weaken (by decide))
  case bref =>
    have hpower (u : State) : ((portsOf d).foldl State.unclock u).power = u.power := foldl_keeps State.power State.unclock_power _ u
    exact ⟨_, rfl, (congrArg Power.brefLost (hpower _) :), (congrArg Power.brefEvent (hpower _) :),
      fun q hq => unclockAll_up _ _ (.inl hq)⟩

end Sys2Proof.Machine

/-! PROOFS. Reset, boot, recovery and the test port (R552 to R556, R560 to R562, R586, R588, R596). -/

namespace Sys2Proof.Machine

theorem State.setSec_same (s : State) (x : Security) : sameBut [.sec] s (s.setSec x) := by
  intro f hf; cases f <;> simp [Field.same] at hf ⊢

theorem State.setJtag_same (s : State) (j : Jtag) : sameBut [.jtag] s (s.setJtag j) := by
  intro f hf; cases f <;> simp [Field.same, State.setJtag] at hf ⊢

/-! ### The device reset -/

/-- R556: a row of HBM that was retired stays retired. -/
theorem State.deviceReset_retired (s : State) (warm : Bool) (k : Nat) : ((s.deviceReset warm).stack k).retired = (s.stack k).retired := by
  have hfind : Tab.find k (s.deviceReset warm).hbmStacks = (Tab.find k s.hbmStacks).map fun x => ({ retired := x.retired } : Stack) :=
    Tab.find_map (fun x : Stack => ({ retired := x.retired } : Stack)) k s.hbmStacks
  unfold State.stack Tab.get
  rw [hfind]
  cases Tab.find k s.hbmStacks with
  | none => rfl
  | some x => rfl

/-! ### Boot -/

theorem State.bootStageEnds_of_booting {s : State} (h : s.host.bootState = 0) (r : BootReport) :
    s.bootStageEnds r = (s.passStage s.sec.bootNow).stageWork s.sec.bootNow r :=
  if_neg (fun hne => hne h)

theorem State.passStage_same (s : State) (k : Nat) : sameBut [.clk, .free] s (s.passStage k) :=
  sameBut.after (State.spend_same _) (by decide) ((s.reach_same _).weaken (by decide))

/-- R553: stage 2 succeeds when the hardware reports no failure. -/
theorem State.stageWork_two {r : BootReport} (s : State) (hrails : r.railsOk = true) (hfuses : r.fusesOk = true) (hkey : r.keyOk = true) :
    s.stageWork 2 r = s.loadFuses.stageComplete 2 := by
  show (if !r.railsOk then s.bootFailed 2 2 else if !r.fusesOk then s.bootFailed 3 2 else if !r.keyOk then s.bootFailed 4 2
    else s.loadFuses.stageComplete 2) = _
  rw [hrails, hfuses, hkey]
  rfl

/-- R121, R459, R596: what the fuses and the zeroing of on-chip memory leave. -/
theorem State.loadFuses_spec (s : State) :
    s.loadFuses.sram = [] ∧ s.loadFuses.power.rails = BitVec.allOnes 33 ∧ s.loadFuses.host.serial = s.sec.fuses.serial := by
  have hfused (l : List (BitVec 32 × Nat)) (u : State) : sameBut [.clusters] u (l.foldl (fun (u : State) r => u.setCluster r.2 { fuse := r.1 }) u) :=
    sameBut.fold (fun u r => u.setCluster_same _ _) l u
  exact ⟨(hfused _ _ .sram (by decide) :), rfl, (congrArg HostUnit.serial (hfused _ _ .host (by decide)) :)⟩

theorem State.raise_bootState (s : State) (v : Nat) : (s.raise v).host.bootState = s.host.bootState := by
  unfold State.raise State.sendVector
  dsimp only
  split
  · rfl
  · rfl

/-- R553: boot ends in `READY`, with vector 33. -/
theorem State.becomeReady_spec (s : State) : s.becomeReady.host.bootState = 1 ∧ s.becomeReady.host.irqStatus.getLsbD 33 = true :=
  ⟨State.raise_bootState _ _, State.raise_irqStatus _ (by decide)⟩

/-! ### Ranger and ROM recovery -/

theorem State.restartReset_of_empty {s : State} (h : s.fence.queue = []) : s.restartReset = s := by
  unfold State.restartReset
  rw [h]

theorem State.inRecovery_of_recovering {s : State} (h : s.sec.recovering = true) (f : State → State) : s.inRecovery f = f s := if_pos h

theorem State.recoveryAnswer_same (s : State) (cmd result check : Nat) : sameBut [.tx] s (s.recoveryAnswer cmd result check) := s.send_same _

/-- R562: a piece that is the next of its image is taken. -/
theorem State.recoveryPiece_of_next {s : State} {u : Recovery} {len : Nat} {data : List Byte} (hu : s.sec.recovery = some u)
    (hnew : u.last ≠ some (u.received, byteField data 0 len)) (hpos : 0 < len) (hle : len ≤ 1024) (hfits : u.received + len ≤ u.total)
    (hwhole : len = 1024 ∨ u.received + len = u.total) : State.recoveryPiece u.received len data s = (s.setSec { s.sec with
      recovery := some { u with
        received := u.received + len, last := some (u.received, byteField data 0 len)
        data := u.data ++ byteField data 0 len } }).recoveryAnswer 2 0 0 := by
  have hrange : ¬ (decide (len = 0) || decide (len > 1024) || decide (u.received + len > u.total) ||
      decide (len ≠ 1024) && decide (u.received + len ≠ u.total)) = true := by
    simp
    omega
  unfold State.recoveryPiece
  simp only [hu]
  exact (if_neg hrange).trans ((if_neg hnew).trans (if_neg fun hne => hne rfl))

/-- R561, R562: what the ROM does in recovery. -/
theorem recoveryTakes {s : State} (h : s.sec.recovering = true) (total : BitVec 64) (off : BitVec 32) (len : BitVec 16) (data : List Byte) :
    (4096 ≤ total.toNat → total.toNat ≤ 0x800000 → ∃ t : State, exec (.recoveryBegin total) s = .next t.settle ∧
      t.sec.recovery = some { total := total.toNat, received := 0 } ∧ sameBut [.sec, .tx] s t) ∧
    (∀ u, s.sec.recovery = some u → off.toNat = u.received → u.last ≠ some (off.toNat, byteField data 0 len.toNat) →
      0 < len.toNat → len.toNat ≤ 1024 → off.toNat + len.toNat ≤ u.total → (len.toNat = 1024 ∨ off.toNat + len.toNat = u.total) →
      ∃ t : State, exec (.recoveryPiece off len data) s = .next t.settle ∧ t.sec.recovery = some { u with
        received := u.received + len.toNat, last := some (off.toNat, byteField data 0 len.toNat)
        data := u.data ++ byteField data 0 len.toNat } ∧ sameBut [.sec, .tx] s t) := by
  refine ⟨fun hmin hmax => ?_, fun u hu hoff hnew hpos hle hfits hwhole => ?_⟩
  · have hrange : ¬ (decide (total.toNat < 4096) || decide (total.toNat > 0x800000)) = true := by
      simp only [Bool.or_eq_true, decide_eq_true_eq]
      omega
    refine ⟨_, next_settle ((State.inRecovery_of_recovering h _).trans (if_neg hrange)), ?_,
      sameBut.after (State.recoveryAnswer_same _ _ _ _) (by decide) ((s.setSec_same _).weaken (by decide))⟩
    rfl
  · rw [hoff] at hnew hfits hwhole ⊢
    have hstep := State.recoveryPiece_of_next hu hnew hpos hle hfits hwhole
    rw [← hoff] at hstep
    refine ⟨_, next_settle ((State.inRecovery_of_recovering h _).trans hstep), ?_,
      sameBut.after (State.recoveryAnswer_same _ _ _ _) (by decide) ((s.setSec_same _).weaken (by decide))⟩
    rw [hoff]
    rfl

/-- R562: the end of an image that is received whole. -/
theorem State.recoveryEnd_of_whole {s : State} {u : Recovery} (hu : s.sec.recovery = some u) (h : u.total ≤ u.received) :
    s.recoveryEnd = match fwCheck s.sec.fuses 1 u.data with
      | some c => s.recoveryAnswer 3 4 c
      | none => ((s.recoveryAnswer 3 0 0).setSec (s.sec.setImage 1 0 u.data)).deviceReset true := by
  unfold State.recoveryEnd
  simp only [hu, if_neg (Nat.not_lt.2 h)] <;> rfl

/-- Settles O58, clause by clause from the rules above. -/
theorem bootAndTestPort : Obligations.BootAndTestPort := by
  intro s ns r total off len data scan
  refine ⟨fun hlong => ?reset, fun hshort => next_settle (if_neg (Nat.not_le.2 hshort)), fun hboot => ⟨?stage, ?two, ?eight, ?expired⟩,
    fun hruns hqueue => ?restart, fun hrecovering => ?recovery, rfl, rfl, ?sample, rfl, rfl, rfl⟩
  case reset =>
    exact ⟨_, next_settle (if_pos hlong), rfl, rfl, rfl, rfl, rfl, rfl, rfl, rfl, rfl, rfl, rfl, s.deviceReset_retired true, rfl, rfl⟩
  case stage => exact next_settle (State.bootStageEnds_of_booting hboot r)
  case two =>
    intro hnow hrails hfuses hkey
    have hsec : (s.passStage 2).sec = s.sec := s.passStage_same 2 .sec (by decide)
    have hwork := State.bootStageEnds_of_booting hboot r
    rw [hnow, State.stageWork_two _ hrails hfuses hkey] at hwork
    obtain ⟨hsram, hrailsOn, hserial⟩ := (s.passStage 2).loadFuses_spec
    exact ⟨_, next_settle hwork, hsram, hrailsOn, rfl, rfl, hserial.trans (by rw [hsec])⟩
  case eight =>
    intro hnow
    have hwork := State.bootStageEnds_of_booting hboot r
    rw [hnow] at hwork
    exact ⟨_, next_settle hwork, State.becomeReady_spec _⟩
  case expired =>
    exact ⟨_, next_settle (if_neg fun hne => hne hboot), rfl, rfl, rfl⟩
  case restart =>
    refine ⟨_, next_settle ((if_neg (by rw [hruns]; decide)).trans (congrArg (fun u : State => u.addTrace 7 0 [])
      (State.restartReset_of_empty hqueue))), rfl, rfl, rfl, ?_⟩
    exact sameBut.after (State.addTrace_same _ _ _ _) (by decide) ((s.setSec_same _).weaken (by decide))
  case recovery =>
    obtain ⟨hbegin, hpiece⟩ := recoveryTakes hrecovering total off len data
    refine ⟨hbegin, hpiece, fun u hu hwhole => ?_, next_settle (State.inRecovery_of_recovering hrecovering _)⟩
    exact next_settle ((State.inRecovery_of_recovering hrecovering _).trans (State.recoveryEnd_of_whole hu hwhole))
  case sample =>
    exact ⟨_, rfl, rfl, rfl, sameBut.after (State.send_same _ _) (by decide) ((s.setJtag_same _).weaken (by decide))⟩

end Sys2Proof.Machine

/-! PROOFS. Management, reports, sensors and time (R547 to R549, R561, R568, R569, R571, R572, R594, R595, R600). -/

namespace Sys2Proof.Machine

/-! ### Messages and their packets -/

theorem State.carried_of_whole {s : State} {req : Requester} {cs : List Pkt} (h : s.messageWhole req cs) (f : State → State) :
    s.carried req cs f = f (s.messageArrives req cs) := by
  unfold State.carried State.messageArrives
  split
  · next hreq =>
    obtain ⟨hsome, htaken⟩ := h hreq
    exact if_pos (by rw [Bool.and_eq_true, decide_eq_true_eq]; exact ⟨hsome, htaken⟩)
  · rfl

theorem State.carried_of_refused {s : State} {cs : List Pkt} (h : cs = [] ∨ cs.all s.takesMgmt = false) (f : State → State) :
    s.carried .fabMgr cs f = s.messageArrives .fabMgr cs := by
  refine (if_pos rfl).trans ((if_neg ?_).trans (if_pos rfl).symm)
  rw [Bool.and_eq_true, decide_eq_true_eq]
  rintro ⟨hsome, htaken⟩
  rcases h with hnone | hrefused
  · exact hsome hnone
  · rw [hrefused] at htaken
    exact Bool.false_ne_true htaken

theorem State.ranger?_of_runs {s : State} (h : s.rangerRuns = true) (f : State → State) : s.ranger? f = f s := if_pos h

/-- A message that is put together, while the firmware runs. -/
theorem State.carried_ranger {s : State} {req : Requester} {cs : List Pkt} (h : s.messageWhole req cs)
    (hruns : (s.messageArrives req cs).rangerRuns = true) (f : State → State) :
    s.carried req cs (fun u => u.ranger? f) = f (s.messageArrives req cs) :=
  (State.carried_of_whole h _).trans (State.ranger?_of_runs hruns f)

/-! ### Management access (R572, R594) -/

section
variable {t : State} {req : Requester} {sess : Option (Fin 4)} {off width value : Nat}

theorem State.mgmtRead_of_stop {st : Nat} (h : t.mgmtStop req sess off width = some st) :
    t.mgmtRead req sess off width = t.mgmtAnswer req st 0 := by
  unfold State.mgmtRead
  rw [h]

theorem State.mgmtRead_of_none (h : t.mgmtStop req sess off width = none) :
    t.mgmtRead req sess off width = (t.readSpan req off width).1.mgmtAnswer req 0 (leNat (t.readSpan req off width).2) := by
  unfold State.mgmtRead
  rw [h]

theorem State.mgmtWrite_of_stop {st : Nat} (h : t.mgmtStop req sess off width = some st) :
    t.mgmtWrite req sess off width value = t.mgmtAnswer req st 0 := by
  unfold State.mgmtWrite
  rw [h]

theorem State.mgmtWrite_of_none (h : t.mgmtStop req sess off width = none) (hdef : t.defined off = true) :
    t.mgmtWrite req sess off width value =
      (t.writeSpan req off width value).1.mgmtAnswer req (if (t.writeSpan req off width value).2 = true then 0 else 1) 0 := by
  unfold State.mgmtWrite
  rw [h]
  exact if_neg (by rw [hdef]; decide)

theorem State.mgmtStop_of_stranger (h : t.mayManage req sess = false) : t.mgmtStop req sess off width = some 1 :=
  if_pos (by rw [h]; rfl)

/-- An access of its own width inside the map is not stopped. -/
theorem State.mgmtStop_of_inside (h : t.mayManage req sess = true) (hwidth : width = 4 ∨ width = 8) (hoff : off % width = 0)
    (hlt : off < 2 ^ 24) : t.mgmtStop req sess off width = none := by
  unfold State.mgmtStop
  rw [if_neg (by rw [h]; decide), if_neg, if_neg (Nat.not_le.2 hlt)]
  rcases hwidth with rfl | rfl
  · simp [hoff]
  · simp [hoff]

theorem State.defined_of_register (h : (t.registerAt off).isSome = true) : t.defined off = true := by
  simp [State.defined, h]

end

theorem State.defined_pwrCfg (t : State) : t.defined 0x50000 = true := State.defined_of_register (by simp [State.registerAt, State.registers])
theorem State.defined_thermCfg (t : State) : t.defined 0x50028 = true := State.defined_of_register (by simp [State.registerAt, State.registers])

/-- R568, R572: who may set the owner root. -/
theorem State.setOwnerRoot_of_allowed {t : State} {req : Requester} {sess : Option (Fin 4)} (hash : List Byte)
    (h : (t.sec.ownerRoot = none ∧ req = .bmc ∧ sess = none) ∨ (t.sec.ownerRoot ≠ none ∧ req ≠ .ranger ∧ t.mayManage req sess = true)) :
    t.setOwnerRoot req sess hash = (t.setSec { t.sec with ownerRoot := some (byteField hash 0 64) }).mgmtAnswer req 0 0 := by
  unfold State.setOwnerRoot
  rcases h with ⟨hroot, rfl, rfl⟩ | ⟨hroot, hreq, hmay⟩
  · exact if_pos (by rw [hroot]; rfl)
  · refine if_pos ?_
    obtain ⟨root, hsome⟩ := Option.ne_none_iff_exists'.1 hroot
    rw [hsome, hmay]
    exact Bool.and_eq_true_iff.2 ⟨decide_eq_true hreq, rfl⟩

/-! ### Reports, sensors and time -/

/-- R600: a report that is sent again in time. -/
theorem State.resendReport_of_due {s : State} {rnum : Nat} {r : Report} (hfind : s.ranger.reports.find? (fun r => r.rnum = rnum) = some r)
    (hin : max s.cc (r.lastCc + 120000000) ≤ r.firstCc + 12000000000) : s.resendReport rnum =
      ((s.reach (r.lastCc + 120000000)).setRanger { s.ranger with
        reports := s.ranger.reports.map (fun (x : Report) =>
          if x.rnum = rnum then { x with lastCc := (s.reach (r.lastCc + 120000000)).cc } else x) }).sendReport r.body := by
  unfold State.resendReport
  rw [hfind]
  exact if_neg (Nat.not_lt.2 hin)

theorem State.answerSensor_of_known {s : State} {id x : Nat} (h : s.sensor id = some x) :
    s.answerSensor id = s.send (.i3c 1 (leBytes 1 0x11 ++ leBytes 1 0 ++ leBytes 8 x)) := by
  unfold State.answerSensor
  rw [h]

section
variable {s : State} {body : List Byte}

theorem State.timePoll_of_request {q : List Byte} (hok : timeBodyOk 1 body = true) (h : s.sec.timeRequest = some q) :
    s.timePoll body = (s.timeAnswer 1 0 1 (s.stampRequest q)).requestLeaves q := by
  unfold State.timePoll
  rw [hok, h]
  rfl

theorem State.timePoll_of_none (hok : timeBodyOk 1 body = true) (h : s.sec.timeRequest = none) :
    s.timePoll body = s.timeAnswer 1 0 0 [] := by
  unfold State.timePoll
  rw [hok, h]
  rfl

theorem State.timeReply_of_match (hok : timeBodyOk 2 body = true) (hmode : field (byteField body 8 48) 0 1 % 8 = 4)
    (h : s.replyMatches (byteField body 8 48) = true) :
    s.timeReply body = (s.acceptReply (byteField body 8 48)).timeAnswer 2 0 0 [] :=
  (if_neg (by rw [hok]; simp [hmode])).trans (if_neg (by rw [h]; decide))

end

theorem State.acceptReply_same (s : State) (packet : List Byte) : sameBut [.clk, .sec, .ranger] s (s.acceptReply packet) := by
  have hsteer : sameBut [.clk] s (s.steer (s.measuredOffset packet)) := by
    intro f hf; cases f <;> simp [Field.same, State.steer] at hf ⊢
  exact sameBut.after (State.addTrace_same _ _ _ _) (by decide)
    (sameBut.after (State.setSec_same _ _) (by decide) (hsteer.weaken (by decide)))

theorem State.steer_cc (s : State) (offset : Int) : (s.steer offset).cc = s.cc := by
  unfold State.steer State.cc
  dsimp only
  split
  · rfl
  · rfl

theorem State.acceptReply_syncedAt (s : State) (packet : List Byte) : (s.acceptReply packet).sec.syncedAt = some s.cc :=
  congrArg some (s.steer_cc (s.measuredOffset packet))

/-- R569: an endpoint ID that an endpoint may have. -/
theorem State.setEid_of_valid {s : State} {eid : BitVec 8} (h0 : eid ≠ 0) (h255 : eid ≠ 0xFF) :
    s.setEid eid = (s.setSec { s.sec with eid := eid }).send (.i3c 0 (leBytes 1 1 ++ leBytes 1 0 ++ leBytes 1 eid.toNat)) := by
  have hgood : (decide (eid = 0) || decide (eid = 0xFF)) = false := by
    rw [decide_eq_false h0, decide_eq_false h255]
    rfl
  unfold State.setEid
  dsimp only
  rw [hgood]
  rfl

/-! ### The obligation -/

/-- R572, R594: the requests whose message is put together. -/
theorem managementRuns {s t : State} {req : Requester} {sess : Option (Fin 4)} {cs : List Pkt} (off : BitVec 32) (width : BitVec 8)
    (v : BitVec 64) (th : BitVec 32) (hash : List Byte) (ht : t = s.messageArrives req cs) (hwhole : s.messageWhole req cs)
    (hruns : t.rangerRuns = true) :
    exec (.mgmtRead req ⟨sess, cs⟩ off width) s = .next (t.mgmtRead req sess off.toNat width.toNat).settle ∧
    exec (.mgmtWrite req ⟨sess, cs⟩ off width v) s = .next (t.mgmtWrite req sess off.toNat width.toNat v.toNat).settle ∧
    exec (.pwrCfgWrite req ⟨sess, cs⟩ v) s = .next (t.mgmtWrite req sess 0x50000 8 v.toNat).settle ∧
    exec (.thermCfgWrite req ⟨sess, cs⟩ th) s = .next (t.mgmtWrite req sess 0x50028 4 th.toNat).settle ∧
    exec (.setOwnerRoot req ⟨sess, cs⟩ hash) s = .next (t.setOwnerRoot req sess hash).settle := by
  have hrun (f : State → State) : s.carried req cs (fun u => u.ranger? f) = f t := by
    rw [ht] at hruns ⊢
    exact State.carried_ranger hwhole hruns f
  exact ⟨next_settle (hrun _), next_settle (hrun _), next_settle (hrun _), next_settle (hrun _), next_settle (hrun _)⟩

/-- Settles O59, clause by clause from the rules above. -/
theorem managementIsAnswered : Obligations.ManagementIsAnswered := by
  intro s req sess off width eid v th rnum src id addr body packet hash fabric cs
  refine ⟨fun t ht hwhole hruns => ?whole, fun hreq hrefused => ?refused,
    fun hruns => ⟨?ack, ?resend, fun x hx => ?sensor, next_settle (State.ranger?_of_runs hruns _), ?poll, ?reply, ?server⟩,
    fun htransit => ⟨?endpoint, ?address⟩⟩
  case whole =>
    obtain ⟨hread, hwrite, hpwr, htherm, howner⟩ := managementRuns off width v th hash ht hwhole hruns (sess := sess)
    refine ⟨fun hgo => ⟨hread.trans (next_settle (State.mgmtRead_of_none hgo)), fun hdef => hwrite.trans (next_settle (State.mgmtWrite_of_none hgo hdef))⟩,
      fun st hstop => ⟨hread.trans (next_settle (State.mgmtRead_of_stop hstop)), hwrite.trans (next_settle (State.mgmtWrite_of_stop hstop))⟩,
      fun hmay => ⟨State.mgmtStop_of_stranger hmay, hpwr.trans (next_settle (State.mgmtWrite_of_stop (State.mgmtStop_of_stranger hmay))),
        htherm.trans (next_settle (State.mgmtWrite_of_stop (State.mgmtStop_of_stranger hmay)))⟩,
      fun hmay => ⟨hpwr.trans (next_settle (State.mgmtWrite_of_none ?_ t.defined_pwrCfg)),
        htherm.trans (next_settle (State.mgmtWrite_of_none ?_ t.defined_thermCfg))⟩,
      fun hallowed => howner.trans (next_settle (State.setOwnerRoot_of_allowed hash hallowed))⟩
    · exact State.mgmtStop_of_inside hmay (.inr rfl) (by decide) (by decide)
    · exact State.mgmtStop_of_inside hmay (.inl rfl) (by decide) (by decide)
  case refused =>
    subst hreq
    have hdrop (f : State → State) := State.carried_of_refused hrefused f
    simp only [List.forall_mem_cons]
    exact ⟨next_settle (hdrop _), next_settle (hdrop _), next_settle (hdrop _), next_settle (hdrop _), next_settle (hdrop _), by simp⟩
  case ack =>
    exact fun hsrc hmgr => next_settle ((State.ranger?_of_runs hruns _).trans (if_pos (Bool.and_eq_true_iff.2 ⟨decide_eq_true hsrc, hmgr⟩)))
  case resend =>
    intro r hfind hin
    exact ⟨_, next_settle ((State.ranger?_of_runs hruns _).trans (State.resendReport_of_due hfind hin)), rfl, rfl⟩
  case sensor => exact next_settle ((State.ranger?_of_runs hruns _).trans (State.answerSensor_of_known hx))
  case poll =>
    exact fun hok => ⟨fun q hq => next_settle ((State.ranger?_of_runs hruns _).trans (State.timePoll_of_request hok hq)),
      fun hnone => next_settle ((State.ranger?_of_runs hruns _).trans (State.timePoll_of_none hok hnone))⟩
  case reply =>
    exact fun hok hmode hmatch => next_settle ((State.ranger?_of_runs hruns _).trans (State.timeReply_of_match hok hmode hmatch))
  case server =>
    intro hpath hmode hmatch
    exact ⟨_, next_settle ((State.ranger?_of_runs hruns _).trans (if_pos (by simp [hpath, hmode, hmatch]))), rfl, s.acceptReply_syncedAt packet, s.acceptReply_same packet⟩
  case endpoint =>
    intro h0 h255
    refine ⟨_, next_settle ((if_neg (by rw [htransit]; exact Bool.false_ne_true)).trans (State.setEid_of_valid h0 h255)), rfl, ?_⟩
    exact sameBut.after (State.send_same _ _) (by decide) ((s.setSec_same _).weaken (by decide))
  case address =>
    refine ⟨_, next_settle (if_neg (by rw [htransit]; exact Bool.false_ne_true)), rfl, ?_⟩
    exact sameBut.after (State.send_same _ _) (by decide) ((s.setSec_same _).weaken (by decide))

end Sys2Proof.Machine

/-! PROOFS. The SPDM responder (R564 to R568, R576). -/

namespace Sys2Proof.Machine

/-! ### Requests and responses -/

/-- R566: neither the firmware nor the security engine keeps a request of the transport from its answer. -/
def State.answers (s : State) (t : Transport) : Prop :=
  s.rangerRuns = true ∧ s.sec.signing.any (fun g => g.1 ≠ t && s.cc < g.2) = false

section
variable {s : State} {t : Transport} {need : Nat}

theorem State.request_of_near (h : s.answers t) (hnear : s.connection t < need) (f : State → State) : s.request t need f = s.spdmError t 4 :=
  (if_neg (by rw [h.1]; decide)).trans ((if_neg (by rw [h.2]; exact Bool.false_ne_true)).trans (if_pos hnear))

theorem State.request_of_far (h : s.answers t) (hfar : need ≤ s.connection t) (f : State → State) : s.request t need f = f s :=
  (if_neg (by rw [h.1]; decide)).trans ((if_neg (by rw [h.2]; exact Bool.false_ne_true)).trans (if_neg (Nat.not_lt.2 hfar)))

end

/-- A response changes neither connections nor sessions. -/
theorem State.respond_sec (s : State) (t : Transport) (code : Nat) (body : List Byte) :
    (s.respond t code body).sec.spdm = s.sec.spdm ∧ (s.respond t code body).sec.sessions = s.sec.sessions := by
  unfold State.respond
  split
  · exact ⟨rfl, rfl⟩
  · exact ⟨rfl, rfl⟩

theorem State.connection_setConnection (s : State) (t : Transport) (k : Nat) : (s.setConnection t k).connection t = k :=
  Tab.get_put_same _ _ _ _

theorem State.connection_respond (s : State) (t u : Transport) (code : Nat) (body : List Byte) :
    (s.respond t code body).connection u = s.connection u :=
  congrArg (Tab.get 0 (transportCode u)) (s.respond_sec t code body).1

/-! ### Connection -/

theorem State.versionSpdm_connection (s : State) (t : Transport) : (s.versionSpdm t).connection t = 1 :=
  (State.connection_respond _ _ _ _ _).trans (State.connection_setConnection _ _ _)

/-- R576: the sessions of the transport end. -/
theorem State.versionSpdm_sessions (s : State) (t : Transport) : ∀ p ∈ (s.versionSpdm t).sec.sessions, p.2.transport ≠ t := by
  intro p hp
  unfold State.versionSpdm at hp
  rw [(State.respond_sec _ _ _ _).2] at hp
  exact of_decide_eq_true (List.mem_filter.1 hp).2

theorem State.capabilities_connection (s : State) (t : Transport) : (s.capabilities t).connection t = 2 :=
  (State.connection_respond _ _ _ _ _).trans (State.connection_setConnection _ _ _)

theorem State.negotiate_connection (s : State) (t : Transport) (a b c e : Bool) : (s.negotiate t a b c e).connection t = 3 :=
  (State.connection_respond _ _ _ _ _).trans (State.connection_setConnection _ _ _)

/-! ### Certificates, challenge and measurements -/

section
variable {s : State} {t : Transport}

theorem State.certificate_of_inside {off : Nat} (h : off ≤ certChain.length) (len : Nat) : s.certificate t 0 off len =
    s.respond t 0x02 (leBytes 2 ((certChain.drop off).take len).length ++
      leBytes 2 (certChain.length - off - ((certChain.drop off).take len).length) ++ (certChain.drop off).take len) := by
  have hin : ¬ (decide (0 ≠ 0) || decide (off > certChain.length)) = true := by
    rw [decide_eq_false (Nat.not_lt.2 h)]
    decide
  exact if_neg hin

theorem State.challenge_of_chosen (h : s.hasAlgorithms t 3 = true) (nonce : List Byte) : s.challenge t 0 nonce =
    (s.respondSigned t 0x03 (leBytes 1 1 ++ sha512 certChain ++ s.nonce) nonce).spend :=
  if_neg (by rw [h]; decide)

/-- R567: the unsigned block of one index. -/
theorem State.measurements_of_one {i : Nat} (hpos : 1 ≤ i) (hle : i ≤ 7) (nonce : List Byte) :
    s.measurements t i false nonce = s.respond t 0x60 (leBytes 1 1 ++ s.measurement i) := by
  have h0 : i ≠ 0 := Nat.ne_of_gt hpos
  have h255 : i ≠ 0xFF := Nat.ne_of_lt (Nat.lt_of_le_of_lt hle (by decide))
  have hin : ¬ (decide (7 < i) && decide (i ≠ 0xFF) || false && !s.hasAlgorithms t 3) = true := by
    rw [decide_eq_false (Nat.not_lt.2 hle)]
    exact Bool.false_ne_true
  unfold State.measurements
  rw [if_neg hin]
  simp only [if_neg h0, if_neg h255, List.flatMap_singleton, List.length_singleton]
  rfl

/-! ### Sessions -/

theorem State.keyExchange_of_free {j : Nat} (h : s.hasAlgorithms t 15 = true)
    (hj : ([0, 1, 2, 3] : List Nat).find? (fun j => (Tab.find j s.sec.sessions).isNone) = some j) (sid : Nat) : s.keyExchange t sid =
      ((s.setSec { s.sec with sessions := Tab.put j { transport := t } s.sec.sessions }).respondSigned t 0x64 (leBytes 2 j ++ leBytes 1 1 ++
        (s.setSec { s.sec with sessions := Tab.put j { transport := t } s.sec.sessions }).nonce) (leBytes 2 sid)).spend := by
  refine (if_neg (by rw [h]; decide)).trans ?_
  rw [hj]

theorem State.finishSession_of_valid {k : Nat} {x : Session} (hx : s.sessionOf t k = some x) (hnew : x.established = false) (root : List Byte) :
    s.finishSession t k true true root = (s.setSec { s.sec with
      sessions := Tab.put k { x with established := true, root := sha512 root } s.sec.sessions }).respond t 0x65 [] := by
  unfold State.finishSession
  rw [hx]
  exact (if_neg (by rw [hnew]; exact Bool.false_ne_true)).trans (if_neg (by decide))

theorem State.inSession_of_established {k : Nat} {x : Session} (hx : s.sessionOf t k = some x) (hest : x.established = true)
    (f : Session → State → State) : s.inSession t k f = f x s := by
  unfold State.inSession
  rw [hx]
  exact if_pos hest

/-! ### Chunks -/

theorem State.chunkGet_of_next {o : Chunked} {handle seqNo : Nat} (ho : s.sec.largeOut = some o) (hhandle : handle = o.handle)
    (hseq : seqNo = o.next) : s.chunkGet t handle seqNo = (s.setSec { s.sec with
      largeOut := if decide (4064 * (seqNo + 1) ≥ o.data.length) = true then none else some { o with next := seqNo + 1 } }).send
        (.spdm t 0x06 (leBytes 1 (b2n (decide (4064 * (seqNo + 1) ≥ o.data.length))) ++ leBytes 1 handle ++ leBytes 2 seqNo ++
          leBytes 4 ((o.data.drop (4064 * seqNo)).take 4064).length ++ (o.data.drop (4064 * seqNo)).take 4064)) := by
  have hnext : ¬ (decide (handle ≠ o.handle) || decide (seqNo ≠ o.next)) = true := by simp [hhandle, hseq]
  unfold State.chunkGet
  rw [ho]
  simp only [if_neg hnext, decide_eq_true_eq]

/-- R566: the first chunk of a request, with more to come. -/
theorem State.chunkSend_of_first (handle : Nat) (data : List Byte) : s.chunkSend t handle 0 false data = (s.setSec { s.sec with
    largeIn := some { handle := handle, next := 1, data := data } }).send (.spdm t 0x05 (leBytes 1 handle ++ leBytes 2 0)) := by
  have hfirst : ¬ (decide (handle ≠ handle) || decide (0 ≠ 0)) = true := by simp
  exact if_neg hfirst

end

/-! ### The obligation -/

/-- A request of a transport whose algorithms are not chosen yet. -/
theorem spdmEarly {s : State} {t : Transport} (h : s.answers t) (hnear : s.connection t < 3) (slot index handle : BitVec 8)
    (off len sid seqNo : BitVec 16) (nonce data root : List Byte) (k : Fin 4) (m g last : Bool) :
    ∀ i ∈ [Instr.getDigests t, .getCertificate t slot off len, .challenge t slot nonce,
        .getMeasurements t index g nonce, .keyExchange t sid, .finish t k m g root, .heartbeat t k, .keyUpdate t k, .endSession t k,
        .vendorDefinedRequest t none data, .chunkGet t handle seqNo, .chunkSend t handle seqNo last data],
      exec i s = .next (s.spdmError t 4).settle := by
  have herr (f : State → State) := State.request_of_near h hnear f
  simp only [List.forall_mem_cons]
  exact ⟨next_settle (herr _), next_settle (herr _), next_settle (herr _), next_settle (herr _), next_settle (herr _), next_settle (herr _),
    next_settle (herr _), next_settle (herr _), next_settle (herr _), next_settle (herr _), next_settle (herr _), next_settle (herr _), by simp⟩

/-- Settles O60, clause by clause from the rules above. -/
theorem spdmIsAnswered : Obligations.SpdmIsAnswered := by
  intro s t a b c e m g last slot index handle off len sid seqNo nonce data root k hruns hsigning
  have h : s.answers t := ⟨hruns, hsigning⟩
  refine ⟨⟨next_settle (State.request_of_far h (Nat.zero_le _) _), s.versionSpdm_connection t, s.versionSpdm_sessions t⟩,
    fun hfar => ⟨next_settle (State.request_of_far h hfar _), s.capabilities_connection t⟩,
    fun hfar => ⟨next_settle (State.request_of_far h hfar _), s.negotiate_connection t a b c e⟩,
    fun hnear => spdmEarly h hnear slot index handle off len sid seqNo nonce data root k m g last, fun hfar => ?_⟩
  have hrun (f : State → State) := State.request_of_far h hfar f
  refine ⟨next_settle (hrun _), ?certificate, ?challenge, fun hpos hle => ?measure, fun j halg hj => ?exchange, fun x hx => ⟨?finish, ?inside⟩,
    next_settle (hrun _), ?chunk, next_settle ((hrun _).trans (State.chunkSend_of_first _ _))⟩
  case certificate =>
    intro hslot hoff
    subst hslot
    exact ⟨_, rfl, next_settle ((hrun _).trans (State.certificate_of_inside hoff _))⟩
  case challenge =>
    intro hslot halg
    subst hslot
    exact next_settle ((hrun _).trans (State.challenge_of_chosen halg nonce))
  case measure => exact next_settle ((hrun _).trans (State.measurements_of_one hpos hle nonce))
  case exchange => exact ⟨_, rfl, next_settle ((hrun _).trans (State.keyExchange_of_free halg hj _))⟩
  case finish => exact fun hnew => next_settle ((hrun _).trans (State.finishSession_of_valid hx hnew root))
  case inside =>
    intro hest
    have hin (f : Session → State → State) := (hrun (State.inSession t k f)).trans (State.inSession_of_established hx hest f)
    exact ⟨next_settle (hin _), next_settle (hin _), next_settle (hin _), next_settle (hin _)⟩
  case chunk =>
    exact fun o ho hhandle hseq => ⟨_, _, rfl, rfl, next_settle ((hrun _).trans (State.chunkGet_of_next ho hhandle hseq))⟩

end Sys2Proof.Machine
